-- ==== Sys2Proof/Word.lean ====
section
/-! DEFINITION. The bit vectors and index types of the Helkam 2460, and the small name types a command carries. -/

namespace Sys2Proof

/-- A byte, as the links, the array and the key buses carry it. -/
abbrev Byte := BitVec 8
/-- The seven-bit address of a link transaction (R185). -/
abbrev Address := BitVec 7
/-- A line, its port L0 to L3 and its engine E0 to E3 (R54). -/
abbrev Line := Fin 4
/-- A position of an engine (R54). -/
abbrev Pos := Fin 4
/-- A bank number (R1). -/
abbrev Bank := Fin 4
/-- A slot number, bank times 32 plus slot (R1). -/
abbrev SlotNo := Fin 128

/-- The five link ports (11 head). -/
inductive Port where
  | line (l : Line)
  | cust
  deriving DecidableEq, Repr

/-- The custodian key switches (R33). -/
inductive Switch where
  | csa
  | csb
  deriving DecidableEq, Repr

/-- The enclosure inputs EN0 and EN1 (R150). -/
inductive Enclosure where
  | door
  | mesh
  deriving DecidableEq, Repr

/-- The part of a link transaction that a command carries: whether it begins with the start condition and the address
byte, and whether it ends with the stop (R185, log 19). -/
structure Part where
  opens : Bool
  closes : Bool
  deriving DecidableEq, Repr

/-- A whole transaction, from its start to its stop. -/
def Part.whole : Part := { opens := true, closes := true }

/-- Four consecutive samples of an input, true for one that finds it high (R33, R93, R150), or of a comparison, true for
one that finds what the command names (R152, R172, R179, R180). -/
abbrev Samples := Vector Bool 4

/-- Four samples that agree. -/
def Samples.steady (high : Bool) : Samples := Vector.replicate 4 high

end Sys2Proof
end

