-- ==== Sys2Proof/Syntax.lean ====
section
/-! DEFINITION. The commands of the block: one constructor per row of spec/opcode_table.json. -/

namespace Sys2Proof

/-- A command. A request row (OPEN, BIND, ...) is the taking of the request at the head of its port's queue
(R35, R57): its fields are the message that REQUEST_ADMITTED put there (log 2). A link row carries the address
byte of its transaction and the part of it that the command is (R185, log 19). The rows that read the array carry how
the cells as read differ from the cells as last written (log 10): a mask to XOR onto the bytes as stored, and [] where
they agree. A row of a debounced input carries the four samples it is judged on (R33, R93, R150,
R152, R172, R179, R180).
Operands with a usual value stand last and have it as their default. -/
inductive Instr where
  -- Port links (11)
  /-- REQUEST_ADMITTED: a write of 0x01 and the message bytes, up to its stop, or a part of it (R187). -/
  | requestAdmitted (port : Port) (addr : Address) (message : List Byte) (part : Part := .whole)
  /-- WINDOW_SELECT: a write of a window code and the bytes after it, then a read of `reads` bytes when that is not 0;
  with no code the transaction is a read of the window selected before (R186). -/
  | windowSelect (port : Port) (addr : Address) (code : Option Byte) (reads : Nat) (written : List Byte := [])
      (part : Part := .whole)
  /-- DIRECTORY_POINTER_WRITE: a write of 0x04, a pointer byte, and further bytes (R190). -/
  | directoryPointerWrite (port : Port) (addr : Address) (pointer : Byte) (extra : List Byte := [])
  /-- COMPLETION_READ: a read of `reads` bytes of the COMPLETION window, or a part of it (R189). -/
  | completionRead (port : Port) (addr : Address) (reads : Nat) (part : Part := .whole)
  /-- DIRECTORY_READ: a read of `reads` bytes of the DIRECTORY window, or a part of it (R190). -/
  | directoryRead (port : Port) (addr : Address) (reads : Nat) (part : Part := .whole)
  /-- UNKNOWN_REQUEST_CODE: the taking of a message whose code names no request of its port (R188). -/
  | unknownRequestCode (port : Port)
  -- Ceremonies (03)
  | openCeremony
  | component
  | commit
  | abandon
  /-- SWITCH_DROP: a debounced switch becomes absent after these four samples of its input (R50, R33). -/
  | switchDrop (switch : Switch) (samples : Samples := .steady false)
  /-- SWITCH_PRESENT: a debounced switch becomes present after these four samples of its input (R33). -/
  | switchPresent (switch : Switch) (samples : Samples := .steady true)
  | ceremonyTimeout
  -- Administration (07), calendar (08), commissioning (10)
  | allocate
  | hold
  | unhold
  | retire
  | reclaim
  | openServiceWindow
  | closeServiceWindow
  | serviceWindowExpiry
  | setAlarmMask
  | clearAlarms
  | clearNvFault
  | clearResetFlags
  | zeroize
  | rearm
  | setTime
  | commission
  /-- COMMISSION_RESTART: crystalRan says the crystal has run without stopping since step 4 last ended (R174). -/
  | commissionRestart (crystalRan : Bool) (drift : List (Nat × List Byte))
  -- Bindings (04)
  | bind (line : Line)
  | extend (line : Line)
  | release (line : Line)
  | releaseAll (line : Line)
  | clearBlocked (line : Line)
  /-- READ_SLOT_COMPLETE: drift is the mask over the 22 header bytes, 32 value bytes and 2 RCW bytes (R100). -/
  | readSlotComplete (drift : List Byte)
  -- Key buses (05)
  | frameSendStart (engine : Line)
  | frameSent (engine : Line)
  /-- ACCEPT: the reply's bytes, check word included (11.7). -/
  | accept (engine : Line) (reply : List Byte)
  | refuse (engine : Line) (reply : List Byte)
  | done (engine : Line) (reply : List Byte)
  | replyTimeout (engine : Line)
  /-- ENGINE_READY_FALL: a debounced engine-ready line becomes not ready after these four samples (R93, R94). -/
  | engineReadyFall (engine : Line) (samples : Samples := .steady false)
  /-- ENGINE_READY_RISE: a debounced engine-ready line becomes ready after these four samples (R93, R95). -/
  | engineReadyRise (engine : Line) (samples : Samples := .steady true)
  -- Array Controller (06)
  | arrayOperationStart
  | programRecordDone
  | programFailed
  /-- PROGRAM_MARK_END: with DONE (true) or FAILED (false) (R102). -/
  | programMarkEnd (ok : Bool)
  | eraseComplete
  | eraseFailed
  /-- ERASE_SUSPEND: `ran` microseconds have been run since the erase's start or last resumption (R109, R110). -/
  | eraseSuspend (ran : Nat)
  | eraseSuspended
  | suspensionCap
  -- Tamper Monitor (09)
  /-- DOOR_EVENT: EN0 changes to its tamper level after these four samples (R150, R151). -/
  | doorEvent (samples : Samples := .steady true)
  /-- MESH_EVENT: EN1 changes to its tamper level after these four samples (R149, R150). -/
  | meshEvent (samples : Samples := .steady true)
  /-- ENCLOSURE_NORMAL: a debounced enclosure input returns to its normal level after these four samples (R150). -/
  | enclosureNormal (input : Enclosure) (samples : Samples := .steady false)
  /-- SUPPLY_HIGH_EVENT: a true sample lies above the overvoltage threshold (R152). -/
  | supplyHighEvent (samples : Samples := .steady true)
  /-- SUPPLY_NOT_HIGH: a false sample lies at or below the overvoltage threshold (R152). -/
  | supplyNotHigh (samples : Samples := .steady false)
  /-- BATTERY_LOW: a true sample lies below the warning level (R152). -/
  | batteryLow (samples : Samples := .steady true)
  /-- BATTERY_NOT_LOW: a false sample lies at or above the warning level (R152). -/
  | batteryNotLow (samples : Samples := .steady false)
  /-- CLOCK_MEASUREMENT: main clock cycles of the measurement in progress; `ends` says that its eight retention-clock
  periods are over with them (R154). -/
  | clockMeasurement (cycles : Nat) (ends : Bool := true)
  | patternTestInterval
  /-- PATTERN_TEST_RESULT: drift is the mask over the 32 bytes of the row (R158). -/
  | patternTestResult (drift : List Byte)
  | calendarSecond
  -- Power and start-up (10)
  /-- BROWNOUT: a true sample lies below the brownout threshold (R180). -/
  | brownout (samples : Samples := .steady true)
  /-- MAIN_POWER_VALID: a true sample lies above the brownout threshold (R172). -/
  | mainPowerValid (samples : Samples := .steady true)
  /-- WARM_RESET_ONSET: a true sample finds RESET asserted (R179). -/
  | warmResetOnset (samples : Samples := .steady true)
  /-- RESET_RELEASE: a false sample finds RESET released (R179). -/
  | resetRelease (crystalRan : Bool) (drift : List (Nat × List Byte)) (samples : Samples := .steady false)
  | crystalStarted (drift : List (Nat × List Byte))
  | crystalStartTimeout
  | startUpComplete
  | retentionMarkerLost
  /-- COMMISSION_PROGRAMMING_END: ok says every byte reads back within its 10 ms (R183). -/
  | commissionProgrammingEnd (ok : Bool)
  /-- DISREGARDED_REPLY: a reply that fails a condition of R88. -/
  | disregardedReply (engine : Line) (reply : List Byte)
  deriving DecidableEq, Repr

end Sys2Proof
end

