-- ==== Sys2Proof/Config.lean ====
section
/-! DEFINITION. What an implementation fixes and the spec leaves open: the free values, which have no body, and
the values this model names for a new part (log 4). -/

namespace Sys2Proof

/-- The source of every free value (log 7): the value with this index of this draw. State.draws counts the
draws. It stands for the random source of R6 and R120 (log 8), for what a stopped or failed operation leaves
(log 9), for retention lost with its marker (log 11) and for an order the spec leaves open (log 26). -/
opaque Config.freeNat (draw index : Nat) : Nat

/-- What a directory record shows for a header field whose byte as read is outside the values R4 gives it
(log 23): field is the byte's place in the header, byte its value as read. -/
opaque Config.shownCode (field byte : Nat) : Nat

/-- DESIGN CHOICE (log 4): the lot code, wafer, die X, die Y and revision of the new part (bytes 19 to 29 of the
fuse record). R173 says only that a part never commissioned has a record that is not zero. -/
def Config.factoryIdentity : List Byte :=
  [0x30, 0x30, 0x30, 0x30, 0x30, 0x30, 0x31, 0x01, 0x01, 0x01, 0x01]

end Sys2Proof
end

