-- ==== Sys2Proof/Machine/State.lean ====
section
/-! DEFINITION. The state of the Helkam 2460 as plain data, its reset value, and the reasons a step can stop.
INVENTORY.md lists every piece with the rule that names it. -/

namespace Sys2Proof.Machine

/-! ## Reasons a step can stop -/

/-- The model has no fault: the spec gives the block no trap, every command has an outcome or is disregarded. -/
inductive Fault where
  deriving DecidableEq, Repr

/-- Refusals of exec. -/
inductive Refusal where
  /-- Raised by an arm of exec whose command has no meaning yet. Safe: the machine stops where hardware goes on. -/
  | notModelled (mnemonic : String)
  deriving DecidableEq, Repr

/-! ## Names and small records -/

/-- Outcome codes (11.6). -/
inductive OutcomeCode where
  | ok | partialGrant | badRequest | zeroized | mode | staleHandle | slotEmpty | keyLost | keyDamaged | keyRetired
  | notAllocated | keyHeld | clockUnset | keyNotActive | keyExpired | engineAbsent | noPosition | exhausted
  | engineRefused | engineSilent | notBound | recalled | engineLost | switches | ceremonyState | componentOrder
  | componentCheck | keyCheck | weakKey | slotOccupied | bankUnavailable | bankInUse | nvFault | programFailed
  | portBusy | badTime | abandoned
  deriving DecidableEq, Repr

/-- A handle as a message carries it: bank, slot and epoch bytes (R3, 11.7). -/
structure Handle where
  bank : Byte
  slot : Byte
  epoch : Byte
  deriving DecidableEq, Repr

/-- A calendar date (R139). -/
structure Date where
  year : Nat
  month : Nat
  day : Nat
  deriving DecidableEq, Repr

/-- A time of day (R139). -/
structure Time where
  hour : Nat
  minute : Nat
  second : Nat
  deriving DecidableEq, Repr

/-- A recorded moment: date and time of day (R159, R162). -/
structure Stamp where
  date : Date
  time : Time
  deriving DecidableEq, Repr

/-- The action of a tamper source (R149). -/
inductive Action where
  | zeroize
  | alarm
  deriving DecidableEq, Repr

/-- The sources of tamper events (R149). -/
inductive Source where
  | command | door | mesh | supplyHigh | clock | retentionLoss
  deriving DecidableEq, Repr

/-- The causes of abandonment that leave a report behind (R48). -/
inductive Cause where
  | request | mismatches | keyCheck | switchDrop | timeout | zeroization
  deriving DecidableEq, Repr

/-! ## Key Array (06, 01) -/

/-- The retire mark of a record: every bit blank, some bit programmed, or all (R4, R102). -/
inductive RetireMark where
  | blank | part | full
  deriving DecidableEq, Repr

/-- A slot record (R4, R100). The header holds, in the order of R4: domain, class, length, parity form, component
count, activation date (3), expiry date (3), initial allowance (3), KCW (2), commit time (6). -/
structure SlotRecord where
  written : Bool
  header : Vector Byte 22
  value : Vector Byte 32
  rcw : Byte × Byte
  retire : RetireMark
  deriving DecidableEq, Repr

/-- A bank header (R2). -/
structure BankHeader where
  eraseCount : Nat
  erasing : Bool
  deriving DecidableEq, Repr

/-- The Key Array: records by slot number, headers and reference rows by bank (R1, R2, R120). -/
structure KeyArray where
  records : Vector SlotRecord 128
  headers : Vector BankHeader 4
  rows : Vector (Vector Byte 32) 4
  deriving DecidableEq, Repr

/-! ## Retention Store (battery domain) -/

/-- A bank cover (R6). -/
structure Cover where
  value : Vector Byte 32
  valid : Bool
  deriving DecidableEq, Repr

/-- Per-slot retention state (R20). -/
structure SlotRetention where
  remaining : Nat
  issued : Nat
  hold : Bool
  latch : Bool
  deriving DecidableEq, Repr

/-- The Calendar Clock (R139). -/
structure Calendar where
  date : Date
  time : Time
  set : Bool
  counting : Bool
  sub : Nat
  deriving DecidableEq, Repr

/-- The last result of a pattern test (R159). -/
inductive TestResult where
  | pass | fail | skipped
  deriving DecidableEq, Repr

/-- A bank's test record (R159). -/
structure TestRecord where
  last : Option TestResult
  mismatches : Nat
  fails : Nat
  firstFail : Option Nat
  time : Option Stamp
  deriving DecidableEq, Repr

/-- The outcome of the last tamper event (R162). -/
inductive EventOutcome where
  | zeroized | alarmed | recorded
  deriving DecidableEq, Repr

/-- Where the last zeroization began (R162). -/
inductive Place where
  | running | unpowered
  deriving DecidableEq, Repr

/-- The tamper record: zeroization part and event part (R162). -/
structure TamperRecord where
  zCount : Nat
  zCause : Option Source
  zTime : Option Stamp
  zPlace : Option Place
  eCount : Nat
  eSource : Option Source
  eOutcome : Option EventOutcome
  eTime : Option Stamp
  deriving DecidableEq, Repr

/-- The enclosure settings copy (R150): polarities of EN0 and EN1 and the door action. -/
structure EnclosureSettings where
  doorHigh : Bool
  meshHigh : Bool
  doorAction : Action
  deriving DecidableEq, Repr

/-- The mode a start-up returns to (R171). -/
inductive ResumeMode where
  | service | zeroizing | recovery
  deriving DecidableEq, Repr

/-- The Retention Store and the rest of the battery domain. Alarm and reset-cause bytes are laid out as 11.7. -/
structure Retention where
  marker : Bool
  covers : Vector Cover 4
  slots : Vector SlotRetention 128
  calendar : Calendar
  baseline : Nat
  alarmFlags : Byte
  alarmMask : Byte
  tamper : TamperRecord
  tests : Vector TestRecord 4
  nextTest : Bank
  owed : Vector Bool 4
  batteryLow : Bool
  enclosure : Option EnclosureSettings
  doorTamper : Bool
  meshTamper : Bool
  resetFlags : Byte
  pendingMarks : Byte
  resume : ResumeMode
  deriving DecidableEq, Repr

/-! ## Slot Directory (01) -/

/-- Slot states (R8). -/
inductive SlotState where
  | empty | active | retired | damaged | lost
  deriving DecidableEq, Repr

/-- A slot in the directory: state, retire-pending flag, header copy and shown validity flags (R8, R146). -/
structure SlotDir where
  state : SlotState
  retirePending : Bool
  header : Vector Byte 22
  shownNotYet : Bool
  shownExpired : Bool
  deriving DecidableEq, Repr

/-- Bank conditions (R8). -/
inductive BankCondition where
  | ready | erasing | eraseIncomplete
  deriving DecidableEq, Repr

/-- A bank in the directory (R8). -/
structure BankDir where
  condition : BankCondition
  degraded : Bool
  lost : Bool
  epoch : Byte
  reserved : Bool
  deriving DecidableEq, Repr

/-- The Slot Directory; in use from the end of the scan until it is discarded (R8, R147). -/
structure Directory where
  inUse : Bool
  slots : Vector SlotDir 128
  banks : Vector BankDir 4
  deriving DecidableEq, Repr

/-! ## Array Controller (06) -/

/-- What the administration client submits (R105); an erase carries the condition its bank had (R114). -/
inductive AdminOp where
  | mark (slot : SlotNo)
  | erase (bank : Bank) (prior : BankCondition)
  deriving DecidableEq, Repr

/-- A PROGRAM RECORD: its slot and the record to be written (R101). -/
structure ProgramRequest where
  slot : SlotNo
  record : SlotRecord
  deriving DecidableEq, Repr

/-- The executing operation (R99, R105); an erase says whether Custody Control submitted it. -/
inductive ExecOp where
  | readSlot (line : Line) (slot : SlotNo)
  | readReference (bank : Bank)
  | programRecord (request : ProgramRequest)
  | programMark (slot : SlotNo)
  | erase (bank : Bank) (custody : Bool)
  deriving DecidableEq, Repr

/-- The Array Controller: waiting slots (R105), executing operation, suspension (R109 to R111; times in
microseconds), last served read client (R108; 0 to 3 the lines, 4 the scheduler) and fault flag (R112). markFound is
the model's own: the erase-in-progress mark as the erase begun last found it (log 9). -/
structure ArrayControl where
  lineWait : Vector (Option SlotNo) 4
  testWait : Option Bank
  ceremonyWait : Option ProgramRequest
  adminWait : Option AdminOp
  custodyWait : Option Bank
  exec : Option ExecOp
  suspending : Bool
  suspended : Option Bank
  capReached : Bool
  execTime : Nat
  runTime : Nat
  suspendTime : Nat
  markFound : Bool
  lastServed : Fin 5
  fault : Bool
  deriving DecidableEq, Repr

/-! ## Binding Unit (04) -/

/-- The kind of a CLEARING position (R54). -/
inductive ClearKind where
  | release | recall
  deriving DecidableEq, Repr

/-- The end reason of an ENDED position (R54). -/
inductive EndReason where
  | recalled | engineLost
  deriving DecidableEq, Repr

/-- What a binding's record holds in every live state (R54). -/
structure Binding where
  handle : Handle
  slot : SlotNo
  reservation : Nat
  deriving DecidableEq, Repr

/-- A position of the binding table (R54). -/
inductive Position where
  | free
  | loading (b : Binding) (recallPending : Bool)
  | bound (b : Binding)
  | clearing (b : Binding) (kind : ClearKind)
  | ended (b : Binding) (reason : EndReason) (unclean : Bool)
  | blocked
  deriving DecidableEq, Repr

/-- A line port's row of the allocation table (R55). -/
structure Allocation where
  domain : Byte
  mask : Byte
  deriving DecidableEq, Repr

/-- One position of a RELEASE ALL in progress: waiting with its used count, or with its outcome (R73). -/
inductive ReleaseEntry where
  | wait (used : Nat)
  | settled (outcome : Byte) (used : Nat) (overrun : Bool)
  deriving DecidableEq, Repr

/-- A line request in progress and what it waits for (R57): a BIND for its read (R64), a BIND whose engine was lost
while its read executes (R69), a BIND for its LOAD (R67), a RELEASE, a RELEASE ALL or a CLEAR BLOCKED for clears. -/
inductive LineProgress where
  | bindReading (tag : Byte) (pos : Pos) (asked grant : Nat)
  | bindLost (tag : Byte)
  | bindLoading (tag : Byte) (pos : Pos) (asked grant : Nat)
  | release (tag : Byte) (pos : Pos) (used : Nat)
  | releaseAll (tag : Byte) (entries : Vector ReleaseEntry 4)
  | clearBlocked (tag : Byte) (waiting freed : Vector Bool 4)
  deriving DecidableEq, Repr

/-! ## Key bus transmitters (05) -/

/-- A frame's fields (R86); the key bytes of a LOAD are in the transfer buffer (R87). -/
inductive FrameKind where
  | load (pos : Pos) (cls : Byte) (len : Nat) (kcw : Byte × Byte)
  | clear (pos : Pos)
  | clearAll
  deriving DecidableEq, Repr

/-- A queued frame. stale marks a frame queued before a zeroization began, whose outcome changes no position (R80). -/
structure Frame where
  kind : FrameKind
  stale : Bool
  deriving DecidableEq, Repr

/-- Transmitter states (R84). -/
inductive TxState where
  | idle | sending | awaiting
  deriving DecidableEq, Repr

/-- How the last frame begun left the bus: whole (R87), with a send abort (R94, R97), incomplete (R98). The
model's own field (log 33). -/
inductive FrameEnd where
  | none | whole | sendAbort | incomplete
  deriving DecidableEq, Repr

/-- A key bus transmitter (R84). -/
structure Transmitter where
  queue : List Frame
  state : TxState
  buffer : Vector Byte 32
  replyTimer : Bool
  frameNumber : Byte
  ready : Bool
  lastEnd : FrameEnd
  deriving DecidableEq, Repr

/-! ## Ceremony Unit (03) -/

/-- The next index of a ceremony (R37). -/
inductive NextIndex where
  | at (i : Nat)
  | complete
  deriving DecidableEq, Repr

/-- An open ceremony: COLLECTING, or PROGRAMMING when programming is set (R37). timer counts retention-clock cycles
(log 13). -/
structure OpenRecord where
  programming : Bool
  handle : Handle
  slot : SlotNo
  domain : Byte
  cls : Byte
  len : Nat
  odd : Bool
  count : Nat
  next : NextIndex
  mismatches : Nat
  timer : Nat
  tag : Byte
  deriving DecidableEq, Repr

/-- The ceremony record and assembly buffer (R37, R25); current is none in IDLE. -/
structure Ceremony where
  current : Option OpenRecord
  buffer : Vector Byte 32
  undelivered : Option Cause
  deriving DecidableEq, Repr

/-! ## Ports (11) -/

/-- Windows (R186). -/
inductive Window where
  | request | completion | portStatus | directory | identity | custodyStatus
  deriving DecidableEq, Repr

/-- A message as written (R187). -/
structure Message where
  bytes : List Byte
  overlong : Bool
  deriving DecidableEq, Repr

/-- A completion (R189): the length byte is computed from data. -/
structure Completion where
  tag : Byte
  code : Byte
  outcome : OutcomeCode
  data : List Byte
  deriving DecidableEq, Repr

/-- Where a port's link stands in a transaction: none, a write before its code, while it stores a message, while it
awaits a pointer byte or refuses every byte, a read before its first byte, or a read with the bytes still to be
clocked of a completion, a record or a directory record, or nothing but fill (R185 to R190, R194). -/
inductive Transfer where
  | idle | addressed | message | pointer | refusing | opened
  | completion (left : List Byte)
  | record (left : List Byte)
  | directory (left : List Byte)
  | fill
  deriving DecidableEq, Repr

/-- A port's link state (11 head). pointer is 0 to 128; acks and sent are the model's own fields (log 20): what the
port acknowledged of the last transaction's address and written bytes, and what its last read was sent. -/
structure Link where
  window : Option Window
  pointer : Nat
  timeForm : Bool
  assembly : List Byte
  overlong : Bool
  requests : List Message
  completions : List Completion
  transfer : Transfer
  acks : List Bool
  sent : List Byte
  deriving DecidableEq, Repr

/-- A custodian request in progress (R35): one being taken in this step, a COMMIT (R43), a RETIRE or RECLAIM whose
submission waits (R106), a COMMISSION being programmed (R183). -/
inductive CustProgress where
  | taking (tag : Byte)
  | commit (tag : Byte)
  | retire (tag : Byte) (handle : Handle) (slot : SlotNo) (recalled : Nat)
  | reclaim (tag : Byte) (bank : Bank) (epoch : Byte)
  | commission (tag : Byte) (record : Vector Byte 64)
  deriving DecidableEq, Repr

/-! ## Tamper Monitor, Custody Control, Fuse Block -/

/-- A measurement of the main clock with its saturated mark (R154). -/
structure Measurement where
  count : Nat
  saturated : Bool
  deriving DecidableEq, Repr

/-- The Tamper Monitor's volatile state: window timer, none while closed (R131), supply judgement (R152), measurement in
progress, current evaluation and fail count (R153, R154), interval timer, none while stopped (R157). Timers are in
retention-clock cycles. -/
structure Monitor where
  windowTimer : Option Nat
  supplyHigh : Bool
  current : Measurement
  evaluation : List Measurement
  failCount : Nat
  intervalTimer : Option Nat
  deriving DecidableEq, Repr

/-- The present custody mode (R171). -/
inductive Mode where
  | uncommissioned | starting | halted | service | zeroizing | recovery | backup
  deriving DecidableEq, Repr

/-- Where a start-up stands while the mode is STARTING: RESET held (R179), step 4 (R174), step 7 (R177). -/
inductive StartPhase where
  | none | inReset | crystalWait | clearAllWait
  deriving DecidableEq, Repr

/-- The start-up CLEAR-ALL of a transmitter (R96): offer to be made, in flight, or done. -/
inductive Offer where
  | toMake | inFlight | done
  deriving DecidableEq, Repr

/-- What step 3 found in the fuses (R173). -/
inductive RecordState where
  | notLoaded | blank | verified | failed
  deriving DecidableEq, Repr

/-- Custody Control's present mode, the start-up's progress, the debounced switches (R33), the record state (R173), the
COMMISSION restart timer in retention-clock cycles (R183), and, the model's own, how many COMMISSIONs have completed OK since
the start-up (log 35). -/
structure Custody where
  present : Mode
  phase : StartPhase
  offers : Vector Offer 4
  crystalOk : Bool
  csa : Bool
  csb : Bool
  record : RecordState
  restart : Option Nat
  commissions : Nat
  deriving DecidableEq, Repr

end Sys2Proof.Machine

namespace Sys2Proof.Machine

/-! ## The whole state -/

/-- The state of the part: the queue of commands, the free-value counter, and the blocks of 00_scope. -/
structure State where
  pending : List Instr
  draws : Nat
  lineLinks : Vector Link 4
  custLink : Link
  lineProgress : Vector (Option LineProgress) 4
  custProgress : Option CustProgress
  positions : Vector (Vector Position 4) 4
  allocations : Vector Allocation 4
  buses : Vector Transmitter 4
  ceremony : Ceremony
  array : KeyArray
  control : ArrayControl
  directory : Directory
  retention : Retention
  monitor : Monitor
  custody : Custody
  fuses : Vector Byte 64
  deriving DecidableEq, Repr

/-! ## Values after a reset, block by block -/

/-- A port at the start (11 head). -/
def Link.initial : Link :=
  { window := none, pointer := 0, timeForm := false, assembly := [], overlong := false, requests := [],
    completions := [], transfer := .idle, acks := [], sent := [] }

/-- A transmitter after a start-up (R84). -/
def Transmitter.initial : Transmitter :=
  { queue := [], state := .idle, buffer := Vector.replicate 32 0, replyTimer := false, frameNumber := 0,
    ready := false, lastEnd := .none }

/-- The Ceremony Unit after a start-up (R37, R25). -/
def Ceremony.initial : Ceremony :=
  { current := none, buffer := Vector.replicate 32 0, undelivered := none }

/-- The Array Controller after a start-up (R105, R108, R112). -/
def ArrayControl.initial : ArrayControl :=
  { lineWait := Vector.replicate 4 none, testWait := none, ceremonyWait := none, adminWait := none,
    custodyWait := none, exec := none, suspending := false, suspended := none, capReached := false,
    execTime := 0, runTime := 0, suspendTime := 0, markFound := false, lastServed := 4, fault := false }

/-- The Tamper Monitor's volatile state at a start-up (R131, R152, R153, R157). -/
def Monitor.initial : Monitor :=
  { windowTimer := none, supplyHigh := false, current := { count := 0, saturated := false }, evaluation := []
    failCount := 0, intervalTimer := none }

/-- A blank record (R5, R15); a blank byte is held as 00 (DESIGN CHOICE, log 37). -/
def SlotRecord.blank : SlotRecord :=
  { written := false, header := Vector.replicate 22 0, value := Vector.replicate 32 0, rcw := (0, 0),
    retire := .blank }

/-- The reference row's pattern: 0x55 for even and 0xAA for odd bytes (R120). -/
def referencePattern : Vector Byte 32 :=
  Vector.ofFn fun i => if i.val % 2 = 0 then 0x55 else 0xAA

/-- A directory slot that is EMPTY, header copy cleared (R15). -/
def SlotDir.cleared : SlotDir :=
  { state := .empty, retirePending := false, header := Vector.replicate 22 0, shownNotYet := false,
    shownExpired := false }

/-- A test record after its reset (R159). -/
def TestRecord.initial : TestRecord :=
  { last := none, mismatches := 0, fails := 0, firstFail := none, time := none }

/-- A slot's retention after an erase or a reinitialisation (R20). -/
def SlotRetention.initial : SlotRetention :=
  { remaining := 0, issued := 0, hold := false, latch := false }

/-- Retention as step 5 reinitialises it (R175); marker as given, no pending mark. -/
def Retention.reinitialised (marker : Bool) : Retention :=
  { marker := marker
    covers := Vector.replicate 4 { value := Vector.replicate 32 0, valid := false }
    slots := Vector.replicate 128 SlotRetention.initial
    calendar := { date := ⟨2000, 1, 1⟩, time := ⟨0, 0, 0⟩, set := false, counting := false, sub := 0 }
    baseline := 3906
    alarmFlags := 0
    alarmMask := 0xFF
    tamper := { zCount := 0, zCause := none, zTime := none, zPlace := none, eCount := 0, eSource := none,
                eOutcome := none, eTime := none }
    tests := Vector.replicate 4 TestRecord.initial
    nextTest := 0
    owed := Vector.replicate 4 false
    batteryLow := false
    enclosure := none
    doorTamper := false
    meshTamper := false
    resetFlags := 0
    pendingMarks := 0
    resume := .service }

/-- The array of a new part: blank, each bank erased once (10, "a new part to its first ceremony"; log 4). -/
def KeyArray.factory : KeyArray :=
  { records := Vector.replicate 128 SlotRecord.blank
    headers := Vector.replicate 4 { eraseCount := 1, erasing := false }
    rows := Vector.replicate 4 referencePattern }

/-- The fuses of a new part: identity bytes 19 to 29, every other byte unprogrammed (R32, R173, log 4). -/
def factoryFuses : Vector Byte 64 :=
  Vector.ofFn fun i => if i.val < 19 then 0 else Config.factoryIdentity.getD (i.val - 19) 0

/-- The directory before any scan: not in use (R8, log 5). -/
def Directory.initial : Directory :=
  { inUse := false
    slots := Vector.replicate 128 SlotDir.cleared
    banks := Vector.replicate 4
      { condition := .ready, degraded := false, lost := true, epoch := 1, reserved := false } }

/-- A new part with its battery fitted, main power not yet applied (log 4): retention has never been valid, and the
volatile blocks stand as the next start-up leaves them (log 5). MAIN_POWER_VALID begins its first start-up. -/
def State.reset : State :=
  { pending := []
    draws := 0
    lineLinks := Vector.replicate 4 Link.initial
    custLink := Link.initial
    lineProgress := Vector.replicate 4 none
    custProgress := none
    positions := Vector.replicate 4 (Vector.replicate 4 Position.free)
    allocations := Vector.replicate 4 { domain := 0, mask := 0 }
    buses := Vector.replicate 4 Transmitter.initial
    ceremony := Ceremony.initial
    array := KeyArray.factory
    control := ArrayControl.initial
    directory := Directory.initial
    retention := Retention.reinitialised false
    monitor := Monitor.initial
    custody := { present := .backup, phase := .none, offers := Vector.replicate 4 .toMake, crystalOk := false,
                 csa := false, csb := false, record := .notLoaded, restart := none,
                 commissions := 0 }
    fuses := factoryFuses }

end Sys2Proof.Machine
end

