-- ==== Sys2Proof/Machine/Bytes.lean ====
section
/-! DEFINITION. Bytes, numbers on the links, check words and key arithmetic (02, 11.7), and indexed update. -/

namespace Sys2Proof.Machine

/-! ## Tables -/

/-- Replace the entry at an index of a fixed table. -/
def put {α : Type} {n : Nat} (v : Vector α n) (i : Fin n) (x : α) : Vector α n := v.set i.val x i.isLt

/-- Apply a function to every entry of a fixed table. -/
def mapTable {α β : Type} {n : Nat} (f : α → β) (v : Vector α n) : Vector β n := Vector.ofFn fun i => f v[i]

/-- The four numbers 0 to 3, in order. -/
def four : List (Fin 4) := [0, 1, 2, 3]

/-! ## Numbers most significant byte first (11.7) -/

/-- A two-byte number. -/
def be16 (n : Nat) : List Byte := [BitVec.ofNat 8 (n / 256), BitVec.ofNat 8 n]

/-- A three-byte number. -/
def be24 (n : Nat) : List Byte := [BitVec.ofNat 8 (n / 65536), BitVec.ofNat 8 (n / 256), BitVec.ofNat 8 n]

/-- The number a byte sequence carries. -/
def numBE (bytes : List Byte) : Nat := bytes.foldl (fun acc b => acc * 256 + b.toNat) 0

/-- A Bool as a byte 0 or 1. -/
def boolByte (b : Bool) : Byte := if b then 1 else 0

/-- A byte with the given bits, bit 0 first. -/
def bitsByte (bits : List Bool) : Byte :=
  BitVec.ofNat 8 (bits.foldr (fun b acc => acc * 2 + b.toNat) 0)

/-- The bytes of a range of a table. -/
def slice {n : Nat} (v : Vector Byte n) (start len : Nat) : List Byte := (v.toList.drop start).take len

/-! ## The check word (R22, R23) -/

/-- The two running sums A and B of R22 after one byte. -/
def sumStep (ab : Nat × Nat) (b : Byte) : Nat × Nat :=
  let a := (ab.1 + b.toNat) % 255
  (a, (ab.2 + a) % 255)

/-- The check word of a byte sequence: B high, A low (R22, R23). -/
def checkWord (bytes : List Byte) : Byte × Byte :=
  let ab := bytes.foldl sumStep (0, 0)
  (BitVec.ofNat 8 ab.2, BitVec.ofNat 8 ab.1)

/-- A check word's two bytes in a record or message (R23). -/
def cwBytes (w : Byte × Byte) : List Byte := [w.1, w.2]

/-! ## Key assembly (R25, R26, R27) -/

/-- The number of one bits of a byte. -/
def ones (b : Byte) : Nat := ((List.range 8).map fun i => (b.getLsbD i).toNat).foldl (· + ·) 0

/-- Odd parity: a byte with an even number of ones has its least significant bit inverted (R26). -/
def oddParity (b : Byte) : Byte := if ones b % 2 = 0 then b ^^^ 1 else b

/-- Apply a byte function to bytes 0 to K - 1 of a buffer and leave the others (R25, R26). -/
def mapFirst (k : Nat) (f : Nat → Byte → Byte) (v : Vector Byte 32) : Vector Byte 32 :=
  Vector.ofFn fun i => if i.val < k then f i.val v[i] else v[i]

/-- Combine a component into the buffer (R25). -/
def combine (k : Nat) (component : List Byte) (v : Vector Byte 32) : Vector Byte 32 :=
  mapFirst k (fun i b => b ^^^ component.getD i 0) v

/-- Parity adjustment of the buffer (R26). -/
def adjust (k : Nat) (odd : Bool) (v : Vector Byte 32) : Vector Byte 32 :=
  if odd then mapFirst k (fun _ b => oddParity b) v else v

/-- A key is weak when all its bytes are equal (R27). -/
def weak (key : List Byte) : Bool := key.all fun b => b == key.headD 0

/-- XOR of two 32-byte tables on the first K bytes, 00 beyond (R7). -/
def maskValue (k : Nat) (key cover : Vector Byte 32) : Vector Byte 32 :=
  Vector.ofFn fun i => if i.val < k then key[i] ^^^ cover[i] else 0

/-- A byte sequence as a 32-byte table, 00 beyond its end. -/
def table32 (bytes : List Byte) : Vector Byte 32 := Vector.ofFn fun i => bytes.getD i.val 0

/-! ## Dates and times as bytes (11.7) -/

/-- A date as year minus 2000, month and day. -/
def dateBytes (d : Date) : List Byte :=
  [BitVec.ofNat 8 (d.year - 2000), BitVec.ofNat 8 d.month, BitVec.ofNat 8 d.day]

/-- A time of day as hour, minute and second. -/
def timeBytes (t : Time) : List Byte := [BitVec.ofNat 8 t.hour, BitVec.ofNat 8 t.minute, BitVec.ofNat 8 t.second]

/-- A recorded moment in six bytes, all zero when absent. -/
def stampBytes : Option Stamp → List Byte
  | some t => dateBytes t.date ++ timeBytes t.time
  | none => List.replicate 6 0

/-- The date three bytes carry. -/
def dateOfBytes (y m d : Byte) : Date := ⟨2000 + y.toNat, m.toNat, d.toNat⟩

/-! ## The header's fields (R4) -/

abbrev Header := Vector Byte 22

def hDomain (h : Header) : Byte := h[0]
def hClass (h : Header) : Byte := h[1]
def hLength (h : Header) : Nat := h[2].toNat
def hParity (h : Header) : Byte := h[3]
def hCount (h : Header) : Byte := h[4]

/-- An optional date of the header: absent as three zero bytes (R4). -/
def optDate (y m d : Byte) : Option Date :=
  if y = 0 ∧ m = 0 ∧ d = 0 then none else some (dateOfBytes y m d)

def hActivation (h : Header) : Option Date := optDate h[5] h[6] h[7]
def hExpiry (h : Header) : Option Date := optDate h[8] h[9] h[10]

/-- The initial allowance: absent as 0 (R4). -/
def hAllowance (h : Header) : Option Nat :=
  let n := numBE [h[11], h[12], h[13]]
  if n = 0 then none else some n

def hKcw (h : Header) : Byte × Byte := (h[14], h[15])

/-- A header is dated while either date is present (R8). -/
def hDated (h : Header) : Bool := (hActivation h).isSome || (hExpiry h).isSome

/-! ## Verification of a record (R7, R30, R100) -/

/-- The three lengths a key can have (R4). -/
def keyLength (k : Nat) : Bool := k == 16 || k == 24 || k == 32

/-- The covered sequence: header, then the first K bytes of the value area (R4, R100). -/
def coveredSequence (h : Header) (value : Vector Byte 32) : List Byte :=
  h.toList ++ value.toList.take (hLength h)

/-- The RCW comparison; a length that is none of the three is a mismatch (R100). -/
def rcwMatches (r : SlotRecord) : Bool :=
  keyLength (hLength r.header) && checkWord (coveredSequence r.header r.value) == r.rcw

/-- The key unmasked with a cover, 00 beyond K (R7). -/
def unmasked (r : SlotRecord) (cover : Vector Byte 32) : Vector Byte 32 :=
  maskValue (hLength r.header) r.value cover

/-- The KCW comparison after unmasking (R7). -/
def kcwMatches (r : SlotRecord) (cover : Vector Byte 32) : Bool :=
  checkWord ((unmasked r cover).toList.take (hLength r.header)) == hKcw r.header

/-- The bytes of a record as read: the stored bytes XOR the mask of the read (log 10). -/
def asRead (r : SlotRecord) (drift : List Byte) : SlotRecord :=
  { r with
    header := Vector.ofFn fun i => r.header[i] ^^^ drift.getD i.val 0
    value := Vector.ofFn fun i => r.value[i] ^^^ drift.getD (22 + i.val) 0
    rcw := (r.rcw.1 ^^^ drift.getD 54 0, r.rcw.2 ^^^ drift.getD 55 0) }

/-! ## Outcome codes (11.6) -/

/-- The value of an outcome code (11.6). -/
def OutcomeCode.byte : OutcomeCode → Byte
  | .ok => 0x01 | .partialGrant => 0x02 | .badRequest => 0x03 | .zeroized => 0x04 | .mode => 0x05
  | .staleHandle => 0x06 | .slotEmpty => 0x07 | .keyLost => 0x08 | .keyDamaged => 0x09 | .keyRetired => 0x0A
  | .notAllocated => 0x0B | .keyHeld => 0x0C | .clockUnset => 0x0D | .keyNotActive => 0x0E | .keyExpired => 0x0F
  | .engineAbsent => 0x10 | .noPosition => 0x11 | .exhausted => 0x12 | .engineRefused => 0x13
  | .engineSilent => 0x14 | .notBound => 0x15 | .recalled => 0x16 | .engineLost => 0x17 | .switches => 0x18
  | .ceremonyState => 0x19 | .componentOrder => 0x1A | .componentCheck => 0x1B | .keyCheck => 0x1C
  | .weakKey => 0x1D | .slotOccupied => 0x1E | .bankUnavailable => 0x1F | .bankInUse => 0x20 | .nvFault => 0x21
  | .programFailed => 0x22 | .portBusy => 0x24 | .badTime => 0x25 | .abandoned => 0x26

/-- Abandonment causes (11.7). -/
def Cause.byte : Cause → Byte
  | .request => 1 | .mismatches => 2 | .keyCheck => 3 | .switchDrop => 4 | .timeout => 5 | .zeroization => 6

/-- The bytes of a completion, its length first (R189). -/
def Completion.bytes (c : Completion) : List Byte :=
  [BitVec.ofNat 8 (4 + c.data.length), c.tag, c.code, c.outcome.byte] ++ c.data

/-- A handle's three bytes (11.7). -/
def Handle.bytes (h : Handle) : List Byte := [h.bank, h.slot, h.epoch]

/-! ## Slot numbers (R1) -/

/-- The bank of a slot number. -/
def bankOf (n : SlotNo) : Bank := ⟨n.val / 32, by omega⟩

/-- The slot number of a slot of a bank. -/
def slotNo (b : Bank) (k : Fin 32) : SlotNo := ⟨b.val * 32 + k.val, by omega⟩

end Sys2Proof.Machine
end

