-- ==== Sys2Proof/Machine/Operands.lean ====
section
/-! DEFINITION. The operand forms: request messages (R58, R122, R188, 11.7) and replies (R86, R88, 11.7). A parser
answers none where the message is malformed. -/

namespace Sys2Proof.Machine

/-! ## Codes (11.7) -/

def codeBind : Byte := 0x10
def codeExtend : Byte := 0x11
def codeRelease : Byte := 0x12
def codeReleaseAll : Byte := 0x13
def codeClearBlocked : Byte := 0x14
def codeOpen : Byte := 0x20
def codeComponent : Byte := 0x21
def codeCommit : Byte := 0x22
def codeAbandon : Byte := 0x23
def codeAllocate : Byte := 0x30
def codeHold : Byte := 0x31
def codeUnhold : Byte := 0x32
def codeRetire : Byte := 0x33
def codeReclaim : Byte := 0x34
def codeOpenWindow : Byte := 0x35
def codeCloseWindow : Byte := 0x36
def codeSetMask : Byte := 0x37
def codeClearAlarms : Byte := 0x38
def codeClearFault : Byte := 0x39
def codeClearReset : Byte := 0x3A
def codeZeroize : Byte := 0x3B
def codeRearm : Byte := 0x3C
def codeSetTime : Byte := 0x3D
def codeCommission : Byte := 0x3E

/-- The request codes of a port (R188). -/
def portCodes : Port → List Byte
  | .line _ => [codeBind, codeExtend, codeRelease, codeReleaseAll, codeClearBlocked]
  | .cust => [codeOpen, codeComponent, codeCommit, codeAbandon, codeAllocate, codeHold, codeUnhold, codeRetire,
      codeReclaim, codeOpenWindow, codeCloseWindow, codeSetMask, codeClearAlarms, codeClearFault, codeClearReset,
      codeZeroize, codeRearm, codeSetTime, codeCommission]

/-- The request code: the first byte (R188). -/
def Message.code (m : Message) : Byte := m.bytes.headD 0

/-- The tag: the second byte, 0 for a message of one byte (R188). -/
def Message.tag (m : Message) : Byte := m.bytes.getD 1 0

/-- The bytes from byte 2 on, when the message has exactly this length and is not overlong (R188). -/
def Message.body (m : Message) (length : Nat) : Option (List Byte) :=
  if m.bytes.length = length ∧ m.overlong = false then some (m.bytes.drop 2) else none

/-! ## Line requests (R58) -/

/-- BIND: handle and count N, 1 to 65535. -/
def parseBind (m : Message) : Option (Handle × Nat) :=
  match m.body 7 with
  | some [b, s, e, n1, n0] => let n := numBE [n1, n0]; if n = 0 then none else some (⟨b, s, e⟩, n)
  | _ => none

/-- A position 0 to 3. -/
def posOf (b : Byte) : Option Pos := if h : b.toNat < 4 then some ⟨b.toNat, h⟩ else none

/-- EXTEND: position and count M, 1 to 65535. -/
def parseExtend (m : Message) : Option (Pos × Nat) :=
  match m.body 5 with
  | some [p, n1, n0] =>
    match posOf p with
    | some p => let n := numBE [n1, n0]; if n = 0 then none else some (p, n)
    | none => none
  | _ => none

/-- RELEASE: position and used count. -/
def parseRelease (m : Message) : Option (Pos × Nat) :=
  match m.body 6 with
  | some [p, u2, u1, u0] => (posOf p).map fun p => (p, numBE [u2, u1, u0])
  | _ => none

/-- RELEASE ALL: four used counts. -/
def parseReleaseAll (m : Message) : Option (Vector Nat 4) :=
  (m.body 14).map fun b => Vector.ofFn fun i => numBE ((b.drop (i.val * 3)).take 3)

/-- A request with no fields besides its tag. -/
def parseNone (m : Message) : Option Unit := (m.body 2).map fun _ => ()

/-! ## Ceremony requests (R38, R40, R42) -/

/-- The shape of the key an OPEN asks for (R38). -/
structure OpenRequest where
  handle : Handle
  domain : Byte
  cls : Byte
  len : Nat
  odd : Bool
  count : Nat
  deriving DecidableEq, Repr

/-- OPEN with the ranges of R38. -/
def parseOpen (m : Message) : Option OpenRequest :=
  match m.body 10 with
  | some [b, s, e, d, c, k, p, n] =>
    if (1 ≤ d.toNat ∧ d.toNat ≤ 15) ∧ (1 ≤ c.toNat ∧ c.toNat ≤ 4) ∧ keyLength k.toNat = true ∧ p.toNat ≤ 1 ∧
        (n = 2 ∨ n = 3) ∧ ¬ (k = 32 ∧ p = 1) then
      some { handle := ⟨b, s, e⟩, domain := d, cls := c, len := k.toNat, odd := p == 1, count := n.toNat }
    else none
  | _ => none

/-- A COMPONENT's fields (R40). -/
structure ComponentRequest where
  index : Nat
  word : Byte × Byte
  bytes : List Byte
  deriving DecidableEq, Repr

/-- COMPONENT: 16, 24 or 32 component bytes and an index 1 to 3 (R40). -/
def parseComponent (m : Message) : Option ComponentRequest :=
  match m.bytes with
  | _ :: _ :: i :: hi :: lo :: bytes =>
    if keyLength bytes.length = true ∧ m.overlong = false ∧ 1 ≤ i.toNat ∧ i.toNat ≤ 3 then
      some { index := i.toNat, word := (hi, lo), bytes := bytes }
    else none
  | _ => none

/-- A COMMIT's fields; dates as their three bytes, judged by R42 (R42). -/
structure CommitRequest where
  kcw : Byte × Byte
  activation : Option Date
  expiry : Option Date
  allowance : Option Nat
  deriving DecidableEq, Repr

/-- COMMIT: an undefined presence bit or a present allowance of 0 is malformed; bytes of an absent field are
disregarded (R42, R188). -/
def parseCommit (m : Message) : Option CommitRequest :=
  match m.body 14 with
  | some [p, k1, k0, ay, am, ad, ey, em, ed, l2, l1, l0] =>
    let n := numBE [l2, l1, l0]
    if p.toNat < 8 ∧ ¬ (p.getLsbD 2 = true ∧ n = 0) then
      some { kcw := (k1, k0)
             activation := if p.getLsbD 0 then some (dateOfBytes ay am ad) else none
             expiry := if p.getLsbD 1 then some (dateOfBytes ey em ed) else none
             allowance := if p.getLsbD 2 then some n else none }
    else none
  | _ => none

/-! ## Administration requests (R122) -/

/-- ALLOCATE: port 0 to 3, domain 0 to 15, a mask of the four classes. -/
def parseAllocate (m : Message) : Option (Line × Byte × Byte) :=
  match m.body 5 with
  | some [l, d, k] =>
    match posOf l with
    | some l => if d.toNat ≤ 15 ∧ k.toNat ≤ 15 then some (l, d, k) else none
    | none => none
  | _ => none

/-- HOLD and UNHOLD: a handle. -/
def parseHandle (m : Message) : Option Handle :=
  match m.body 5 with
  | some [b, s, e] => some ⟨b, s, e⟩
  | _ => none

/-- RETIRE: a handle and the recall option. -/
def parseRetire (m : Message) : Option (Handle × Bool) :=
  match m.body 6 with
  | some [b, s, e, r] => if r.toNat ≤ 1 then some (⟨b, s, e⟩, r == 1) else none
  | _ => none

/-- RECLAIM: a bank 0 to 3. -/
def parseReclaim (m : Message) : Option Bank :=
  match m.body 3 with
  | some [b] => posOf b
  | _ => none

/-- SET ALARM MASK and CLEAR ALARMS: one alarm flag byte. -/
def parseFlags (m : Message) : Option Byte :=
  match m.body 3 with
  | some [b] => some b
  | _ => none

/-- SET TIME: date and time of day, judged by R142 step 4. -/
def parseSetTime (m : Message) : Option (Date × Time) :=
  match m.body 8 with
  | some [y, mo, d, h, mi, s] => some (dateOfBytes y mo d, ⟨h.toNat, mi.toNat, s.toNat⟩)
  | _ => none

/-! ## COMMISSION (R182, R183) -/

/-- A number within a range. -/
def within (lo hi n : Nat) : Bool := lo ≤ n && n ≤ hi

/-- An action byte: 1 ZEROIZE or 2 ALARM (11.7). -/
def actionByte (b : Byte) : Bool := b == 1 || b == 2

/-- The ranges of R182 over the 62 bytes, with bytes 30 to 60 of 00 and the marker 0x5A (R183). -/
def recordInRange (r : List Byte) : Bool :=
  let n i := (r.getD i 0).toNat
  let w i := n i * 256 + n (i + 1)
  within 0x08 0x77 (n 0) && within 0x08 0x77 (n 1) && within 0 15 (n 2) && actionByte (r.getD 3 0) &&
  actionByte (r.getD 4 0) && actionByte (r.getD 5 0) && within 0 31 (n 6) && within 1 255 (n 7) &&
  within 0 1023 (w 8) && within 1 15 (n 10) && within 60 65535 (w 11) && within 1 255 (n 14) &&
  within 60 3600 (w 15) && within 60 7200 (w 17) && ((r.drop 30).take 31).all (· == 0) && r.getD 61 0 == 0x5A

/-- COMMISSION: 62 record bytes in range whose identity bytes equal those of the fuses (R183). The result is the
whole record with its check word (R32). -/
def parseCommission (fuses : Vector Byte 64) (m : Message) : Option (Vector Byte 64) :=
  match m.body 64 with
  | some r =>
    if recordInRange r = true ∧ (r.drop 19).take 11 = slice fuses 19 11 then
      let w := checkWord r
      some (Vector.ofFn fun i => (r ++ cwBytes w).getD i.val 0)
    else none
  | none => none

/-! ## Replies (R86, R88) -/

/-- The parts of a reply whose check word matches: kind, frame number and the bytes between (R88, 11.7). -/
def parseReply (reply : List Byte) : Option (Byte × Byte × List Byte) :=
  let n := reply.length - 2
  if reply.length < 4 then none
  else if cwBytes (checkWord (reply.take n)) = reply.drop n then
    match reply.take n with
    | k :: f :: rest => some (k, f, rest)
    | _ => none
  else none

/-- The meaning of a reply to a frame (R86, R88). -/
inductive ReplyKind where
  | accept
  | refuse (reason : Byte)
  | done
  deriving DecidableEq, Repr

/-- Whether a reply of this kind and these bytes answers a frame, and how (R86, R88): it echoes the position, and a
REFUSE's reason lies from 1 to 15. -/
def answerOf (frame : FrameKind) (kind : Byte) (rest : List Byte) : Option ReplyKind :=
  match frame, rest with
  | .load p _ _ _, [q] => if kind = 0x81 ∧ q.toNat = p.val then some .accept else none
  | .load p _ _ _, [q, r] =>
    if kind = 0x82 ∧ q.toNat = p.val ∧ 1 ≤ r.toNat ∧ r.toNat ≤ 15 then some (.refuse r) else none
  | .clear p, [q] => if kind = 0x83 ∧ q.toNat = p.val then some .done else none
  | .clearAll, [] => if kind = 0x83 then some .done else none
  | _, _ => none

end Sys2Proof.Machine
end

