-- ==== Sys2Proof/Machine/Flags.lean ====
section
/-! DEFINITION. Parameters of the commissioning record (R182), what a lost validity marker makes of retention
(R175), the alarm flags and line (R160, R161, R134), the calendar's judgements (R140, R141, R144) and the shown
validity flags (R146). -/

namespace Sys2Proof.Machine

/-! ## Field updates of the blocks -/

def State.withRetention (s : State) (f : Retention → Retention) : State := { s with retention := f s.retention }
def State.withDirectory (s : State) (f : Directory → Directory) : State := { s with directory := f s.directory }
def State.withControl (s : State) (f : ArrayControl → ArrayControl) : State := { s with control := f s.control }
def State.withCeremony (s : State) (f : Ceremony → Ceremony) : State := { s with ceremony := f s.ceremony }
def State.withMonitor (s : State) (f : Monitor → Monitor) : State := { s with monitor := f s.monitor }
def State.withCustody (s : State) (f : Custody → Custody) : State := { s with custody := f s.custody }
def State.withArray (s : State) (f : KeyArray → KeyArray) : State := { s with array := f s.array }
def State.withBus (s : State) (e : Line) (f : Transmitter → Transmitter) : State :=
  { s with buses := put s.buses e (f s.buses[e]) }
def State.withSlot (s : State) (n : SlotNo) (f : SlotDir → SlotDir) : State :=
  { s with directory := { s.directory with slots := put s.directory.slots n (f s.directory.slots[n]) } }
def State.withBank (s : State) (b : Bank) (f : BankDir → BankDir) : State :=
  { s with directory := { s.directory with banks := put s.directory.banks b (f s.directory.banks[b]) } }
def State.withSlotRet (s : State) (n : SlotNo) (f : SlotRetention → SlotRetention) : State :=
  { s with retention := { s.retention with slots := put s.retention.slots n (f s.retention.slots[n]) } }

/-! ## Commissioning parameters (R182) -/

/-- A field of the verified record; the default of R182 while no verified record is loaded. -/
def State.param (s : State) (i : Fin 64) (default : Nat) : Nat :=
  if s.custody.record = .verified then s.fuses[i].toNat else default

/-- A two-byte field of the verified record. -/
def State.param16 (s : State) (i j : Fin 64) (default : Nat) : Nat :=
  if s.custody.record = .verified then s.fuses[i].toNat * 256 + s.fuses[j].toNat else default

/-- Retention-clock cycles in one second (R140). -/
def cyclesPerSecond : Nat := 32768

def State.ceremonyTimeout (s : State) : Nat := s.param16 15 16 600
def State.windowMaximum (s : State) : Nat := s.param16 17 18 1800
def State.testInterval (s : State) : Nat := s.param16 11 12 600
def State.deltaThreshold (s : State) : Nat := s.param 13 2
def State.testFailThreshold (s : State) : Nat := s.param 14 3
def State.stepWeight (s : State) : Nat := s.param 6 3
def State.passBand (s : State) : Nat := s.param 7 39
def State.baselineLimit (s : State) : Nat := s.param16 8 9 195
def State.failLimit (s : State) : Nat := s.param 10 3

/-- An action byte of the record: 2 is ALARM (11.7). -/
def actionOf (n : Nat) : Action := if n = 2 then .alarm else .zeroize

def State.supplyAction (s : State) : Action := actionOf (s.param 4 1)
def State.clockAction (s : State) : Action := actionOf (s.param 5 1)

/-- The level at which a sample of a switch reads present: the commissioned one, high with no verified record (R33). -/
def State.activeHigh (s : State) : Switch → Bool
  | .csa => (BitVec.ofNat 8 (s.param 2 3)).getLsbD 0
  | .csb => (BitVec.ofNat 8 (s.param 2 3)).getLsbD 1

/-! ## Debouncing (R33, R150) -/

/-- Whether four consecutive samples all find an input at a level (R33, R150). -/
def allAt (samples : Samples) (high : Bool) : Bool := samples.toList.all (· == high)

/-! ## Retention seen through its validity marker (R175) -/

/-- A cover is treated as invalid once the marker is lost. -/
def State.coverValid (s : State) (b : Bank) : Bool := s.retention.marker && s.retention.covers[b].valid

/-- The resume mode is treated as SERVICE once the marker is lost. -/
def State.resumeMode (s : State) : ResumeMode := if s.retention.marker then s.retention.resume else .service

/-- The enclosure settings copy is treated as absent once the marker is lost. -/
def State.enclosure (s : State) : Option EnclosureSettings :=
  if s.retention.marker then s.retention.enclosure else none

/-- The debounced state of EN0, at its normal level while the copy is absent (R150). -/
def State.doorOpen (s : State) : Bool := s.enclosure.isSome && s.retention.doorTamper

/-- The debounced state of EN1, at its normal level while the copy is absent (R150). -/
def State.meshBroken (s : State) : Bool := s.enclosure.isSome && s.retention.meshTamper

/-! ## Alarm flags (R160, 11.7) -/

/-- The eight alarm flags; the number is the bit of 11.7. -/
inductive Alarm where
  | door | mesh | supplyHigh | batteryLow | clock | bankDegraded | nvFault | zeroized
  deriving DecidableEq, Repr

def Alarm.bit : Alarm → Nat
  | .door => 0 | .mesh => 1 | .supplyHigh => 2 | .batteryLow => 3 | .clock => 4 | .bankDegraded => 5
  | .nvFault => 6 | .zeroized => 7

/-- A byte with one bit set. -/
def bitMask (i : Nat) : Byte := (1#8) <<< i

/-- Latch an alarm flag (R160); none is latched while the marker is lost (R175). -/
def State.latch (s : State) (a : Alarm) : State :=
  if s.retention.marker then s.withRetention fun r => { r with alarmFlags := r.alarmFlags ||| bitMask a.bit } else s

/-- The ALARM output (R161): driven from step 5 of a start-up, not in BACKUP, in HALTED or before step 5; asserted
while a latched flag is enabled. -/
def State.alarmOutput (s : State) : Bool :=
  let driven := match s.custody.present with
    | .backup | .halted => false
    | .starting => s.custody.phase == .clearAllWait
    | _ => true
  driven && (s.retention.alarmFlags &&& s.retention.alarmMask) != 0

/-- The condition that keeps a flag latched against CLEAR ALARMS (R134). -/
def State.alarmHolds (s : State) : Alarm → Bool
  | .door => s.doorOpen
  | .mesh => s.meshBroken
  | .supplyHigh => s.monitor.supplyHigh
  | .batteryLow => s.retention.batteryLow
  | .clock => decide (s.failLimit ≤ s.monitor.failCount)
  | .bankDegraded => s.directory.banks.toList.any (·.degraded)
  | .nvFault => s.control.fault
  | .zeroized => s.custody.present == .zeroizing

/-- The flags whose condition holds, as a byte (R134). -/
def State.holdingFlags (s : State) : Byte :=
  bitsByte ([.door, .mesh, .supplyHigh, .batteryLow, .clock, .bankDegraded, .nvFault, .zeroized].map s.alarmHolds)

/-! ## Reset-cause flags and pending marks (R181, 11.7) -/

def markPowerOn : Byte := 0x01
def markRetentionLoss : Byte := 0x02
def markBrownout : Byte := 0x04
def markResetLine : Byte := 0x08
def markFuse : Byte := 0x10
def markClockStart : Byte := 0x20

/-- Set a pending mark (R181). -/
def State.pend (s : State) (mark : Byte) : State :=
  s.withRetention fun r => { r with pendingMarks := r.pendingMarks ||| mark }

/-! ## The calendar (R139 to R141) -/

/-- A leap year of 2000 to 2199: divisible by 4, except 2100 (R140). -/
def leapYear (y : Nat) : Bool := y % 4 == 0 && y != 2100

/-- The length of a month (R140). -/
def monthLength (y m : Nat) : Nat :=
  if m = 2 then (if leapYear y then 29 else 28)
  else if m = 4 ∨ m = 6 ∨ m = 9 ∨ m = 11 then 30 else 31

/-- A valid date (R141). -/
def validDate (d : Date) : Bool :=
  2000 ≤ d.year && d.year ≤ 2199 && 1 ≤ d.month && d.month ≤ 12 && 1 ≤ d.day && d.day ≤ monthLength d.year d.month

/-- A valid time (R141). -/
def validTime (t : Time) : Bool := t.hour ≤ 23 && t.minute ≤ 59 && t.second ≤ 59

/-- One date is before another: by year, then month, then day (R141). -/
def dateBefore (a b : Date) : Bool :=
  a.year < b.year || (a.year == b.year && (a.month < b.month || (a.month == b.month && a.day < b.day)))

/-- The day after a date (R140). -/
def nextDay (d : Date) : Date :=
  if d.day < monthLength d.year d.month then { d with day := d.day + 1 }
  else if d.month < 12 then { d with month := d.month + 1, day := 1 }
  else { year := d.year + 1, month := 1, day := 1 }

/-- The latest moment the calendar can hold (R140). -/
def lastMoment (c : Calendar) : Bool := c.date == ⟨2199, 12, 31⟩ && c.time == ⟨23, 59, 59⟩

/-- A counting calendar advances by one second, or stops at the latest moment (R140). The Bool says whether it was
a midnight event. -/
def Calendar.tick (c : Calendar) : Calendar × Bool :=
  if lastMoment c then ({ c with sub := 0, counting := false }, false)
  else if c.time.second < 59 then ({ c with sub := 0, time := { c.time with second := c.time.second + 1 } }, false)
  else if c.time.minute < 59 then
    ({ c with sub := 0, time := { c.time with minute := c.time.minute + 1, second := 0 } }, false)
  else if c.time.hour < 23 then ({ c with sub := 0, time := ⟨c.time.hour + 1, 0, 0⟩ }, false)
  else ({ c with sub := 0, date := nextDay c.date, time := ⟨0, 0, 0⟩ }, true)

/-- The calendar's moment, absent while it is unset (R145, R148). -/
def State.stamp (s : State) : Option Stamp :=
  if s.retention.calendar.set then some ⟨s.retention.calendar.date, s.retention.calendar.time⟩ else none

/-! ## Validity (R144) and the shown flags (R146) -/

/-- The result of a judgement of R144. -/
inductive Validity where
  | valid | clockUnset | notYetActive | expired
  deriving DecidableEq, Repr

/-- The judgement of R144. -/
def judge (c : Calendar) (h : Header) : Validity :=
  if hDated h = false then .valid
  else if c.set = false then .clockUnset
  else if (match hActivation h with | some a => dateBefore c.date a | none => false) then .notYetActive
  else if (match hExpiry h with | some e => dateBefore e c.date | none => false) then .expired
  else .valid

/-- The outcome of check 5 of R63. -/
def Validity.refusal : Validity → Option OutcomeCode
  | .valid => none
  | .clockUnset => some .clockUnset
  | .notYetActive => some .keyNotActive
  | .expired => some .keyExpired

/-- Evaluate a slot's shown flags against the calendar (R146). -/
def SlotDir.evaluate (c : Calendar) (d : SlotDir) : SlotDir :=
  { d with shownNotYet := judge c d.header == .notYetActive, shownExpired := judge c d.header == .expired }

/-- Evaluate the shown flags of every ACTIVE slot (R146, R147). -/
def State.sweep (s : State) : State :=
  s.withDirectory fun d => { d with
    slots := mapTable (fun e => if e.state = .active then e.evaluate s.retention.calendar else e) d.slots }

end Sys2Proof.Machine
end

