-- ==== Sys2Proof/Machine/Ops.lean ====
section
/-! DEFINITION. The operations several commands share: ports and completions (R35, R57, R189), handles and slot
checks (R3, R63), allowances (R59 to R61), positions (R54, R19), frame queues (R85), the end of a ceremony (R48,
R49), the administration client (R106, R114), what a stopped operation leaves (R5, R101, R104, R116, R117) and the
fault flag (R113, R114). -/

namespace Sys2Proof.Machine

/-! ## Free values (log 7) -/

/-- A free byte of a draw. -/
def freeByte (d i : Nat) : Byte := BitVec.ofNat 8 (Config.freeNat d i)

/-- A free bit of a draw. -/
def freeBool (d i : Nat) : Bool := Config.freeNat d i % 2 == 1

/-- A free number below a bound of a draw. -/
def freeBelow (d i bound : Nat) : Nat := Config.freeNat d i % bound

/-- Use up the present draw. -/
def State.nextDraw (s : State) : State := { s with draws := s.draws + 1 }

/-! ## Ports and completions -/

/-- The link state of a port. -/
def State.link (s : State) : Port → Link
  | .line l => s.lineLinks[l]
  | .cust => s.custLink

/-- Change the link state of a port. -/
def State.withLink (s : State) (p : Port) (f : Link → Link) : State :=
  match p with
  | .line l => { s with lineLinks := put s.lineLinks l (f s.lineLinks[l]) }
  | .cust => { s with custLink := f s.custLink }

/-- The places of a port's request queue and the entries of its completion queue (R35, R57). -/
def capacity : Port → Nat
  | .line _ => 4
  | .cust => 2

/-- Write a completion into a port's queue (R189). -/
def State.pushCompletion (s : State) (p : Port) (c : Completion) : State :=
  s.withLink p fun l => { l with completions := l.completions ++ [c] }

/-- Set the request in progress of a line port (R57). -/
def State.setProgress (s : State) (l : Line) (x : Option LineProgress) : State :=
  { s with lineProgress := put s.lineProgress l x }

/-- Complete the request in progress of a line port into its reserved entry (R57). -/
def State.finishLine (s : State) (l : Line) (tag code : Byte) (oc : OutcomeCode) (data : List Byte) : State :=
  (s.pushCompletion (.line l) { tag := tag, code := code, outcome := oc, data := data }).setProgress l none

/-- Complete the custodian request in progress into its reserved entry (R35). -/
def State.finishCust (s : State) (tag code : Byte) (oc : OutcomeCode) (data : List Byte) : State :=
  { s.pushCompletion .cust { tag := tag, code := code, outcome := oc, data := data } with custProgress := none }

/-- Whether the line ports take requests in the present mode (R58, R171). -/
def State.lineServed (s : State) : Bool :=
  s.custody.present == .service || s.custody.present == .zeroizing || s.custody.present == .recovery

/-- Whether the custodian port takes requests in the present mode (R36, R171, R184). -/
def State.custServed (s : State) : Bool := s.lineServed || s.custody.present == .uncommissioned

/-- The message a port can take now: the head of its request queue, when its last request has completed and its
completion queue has a free entry (R35, R57). -/
def State.takeable (s : State) : Port → Option Message
  | .line l =>
    if s.lineServed = true ∧ s.lineProgress[l] = none ∧ s.lineLinks[l].completions.length < capacity (.line l) then
      s.lineLinks[l].requests.head?
    else none
  | .cust =>
    if s.custServed = true ∧ s.custProgress = none ∧ s.custLink.completions.length < capacity .cust then
      s.custLink.requests.head?
    else none

/-- Remove the head message of a port's request queue: it is taken. -/
def State.popRequest (s : State) (p : Port) : State := s.withLink p fun l => { l with requests := l.requests.tail }

/-! ## Taking a request -/

/-- The take of a line request with this code (R57, R58): mode gate, then form, then the request's own handling,
which is given the tag and the fields. Where the head message is another or cannot be taken, nothing happens
(log 1). -/
def State.takeLine {α : Type} (s : State) (l : Line) (code : Byte) (parse : Message → Option α)
    (act : Byte → α → State → State) : State :=
  match s.takeable (.line l) with
  | none => s
  | some m =>
    if m.code = code then
      let t := s.popRequest (.line l)
      if s.custody.present = .service then
        match parse m with
        | none => t.finishLine l m.tag code .badRequest []
        | some fields => act m.tag fields t
      else t.finishLine l m.tag code .zeroized []
    else s

/-- A switch requirement (R34). -/
inductive SwitchNeed where
  | both | either | neither
  deriving DecidableEq, Repr

/-- Whether a switch requirement is met (R34). -/
def State.switchesMeet (s : State) : SwitchNeed → Bool
  | .both => s.custody.csa && s.custody.csb
  | .either => s.custody.csa || s.custody.csb
  | .neither => true

/-- The take of a custodian request with this code, in the order of R36: mode gate (none passes), form, switch
requirement, then the request's own checks and effects. While it is taken its completion entry is reserved (R35). -/
def State.takeCust {α : Type} (s : State) (code : Byte) (gate : Mode → Option OutcomeCode) (need : SwitchNeed)
    (parse : Message → Option α) (act : Byte → α → State → State) : State :=
  match s.takeable .cust with
  | none => s
  | some m =>
    if m.code = code then
      let t := { s.popRequest .cust with custProgress := some (.taking m.tag) }
      match gate s.custody.present with
      | some oc => t.finishCust m.tag code oc []
      | none =>
        match parse m with
        | none => t.finishCust m.tag code .badRequest []
        | some fields =>
          if s.switchesMeet need then act m.tag fields t else t.finishCust m.tag code .switches []
    else s

/-! ## Mode gates of the custodian port (R36, R122, R142, R170, R183) -/

/-- Passes in SERVICE: the ceremony requests and most of chapter 7 (R36, R122). -/
def gateService : Mode → Option OutcomeCode
  | .service => none
  | .zeroizing => some .zeroized
  | _ => some .mode

/-- Passes in SERVICE and RECOVERY: RECLAIM, CLEAR NV FAULT, SET TIME (R122, R142). -/
def gateRecovery : Mode → Option OutcomeCode
  | .service => none
  | .recovery => none
  | .zeroizing => some .zeroized
  | _ => some .mode

/-- Passes in SERVICE, ZEROIZING and RECOVERY: CLEAR ALARMS, CLEAR RESET FLAGS (R122). -/
def gateClears : Mode → Option OutcomeCode
  | .service => none
  | .recovery => none
  | .zeroizing => none
  | _ => some .mode

/-- Passes in RECOVERY: REARM (R170). -/
def gateRearm : Mode → Option OutcomeCode
  | .recovery => none
  | .zeroizing => some .zeroized
  | _ => some .mode

/-- Passes in UNCOMMISSIONED: COMMISSION (R183). -/
def gateCommission : Mode → Option OutcomeCode
  | .uncommissioned => none
  | .zeroizing => some .zeroized
  | _ => some .mode

/-! ## Handles and slot checks -/

/-- Resolution of a handle (R3). -/
def State.resolve (s : State) (h : Handle) : Option SlotNo :=
  if hb : h.bank.toNat < 4 then
    if hs : h.slot.toNat < 32 then
      if h.epoch = s.directory.banks[h.bank.toNat].epoch then some (slotNo ⟨h.bank.toNat, hb⟩ ⟨h.slot.toNat, hs⟩)
      else none
    else none
  else none

/-- Check 2 of R63, which is also check 2 of R125: a slot that is ACTIVE without retire-pending passes. -/
def SlotDir.refusal (d : SlotDir) : Option OutcomeCode :=
  match d.state with
  | .empty => some .slotEmpty
  | .lost => some .keyLost
  | .damaged => some .keyDamaged
  | .retired => some .keyRetired
  | .active => if d.retirePending then some .keyRetired else none

/-- Checks 2, 4 and 5 of R63 on a slot as it stands, in their order (R66, R70). -/
def State.slotRecheck (s : State) (n : SlotNo) : Option OutcomeCode :=
  match s.directory.slots[n].refusal with
  | some oc => some oc
  | none =>
    if s.retention.slots[n].hold then some .keyHeld
    else (judge s.retention.calendar s.directory.slots[n].header).refusal

/-- Whether a class is in a class mask (R55, 11.7). -/
def classInMask (cls mask : Byte) : Bool := 1 ≤ cls.toNat && cls.toNat ≤ 4 && mask.getLsbD (cls.toNat - 1)

/-! ## Allowances (R59 to R61) -/

/-- The greatest number of cards (R20). -/
def maxCards : Nat := 16777215

/-- A slot is metered when its header copy holds an initial allowance (R4, R54). -/
def State.metered (s : State) (n : SlotNo) : Bool := (hAllowance s.directory.slots[n].header).isSome

/-- The grant for a requested count on a slot with a present reservation; 0 when none can be made (R59). -/
def State.grantFor (s : State) (n : SlotNo) (asked held : Nat) : Nat :=
  if s.metered n then min asked s.retention.slots[n].remaining else min asked (maxCards - held)

/-- Take a grant out of a metered slot's remaining allowance (R59). -/
def State.takeGrant (s : State) (n : SlotNo) (grant : Nat) : State :=
  if s.metered n then s.withSlotRet n fun r => { r with remaining := r.remaining - grant } else s

/-- Charge cards to a slot's issued total, which stops at its greatest value (R20, R60, R61). -/
def State.charge (s : State) (n : SlotNo) (cards : Nat) : State :=
  s.withSlotRet n fun r => { r with issued := min maxCards (r.issued + cards) }

/-- Return cards to a metered slot's remaining allowance (R60, R61), without a cap (DESIGN CHOICE, log 44). -/
def State.giveBack (s : State) (n : SlotNo) (cards : Nat) : State :=
  if s.metered n then s.withSlotRet n fun r => { r with remaining := r.remaining + cards } else s

/-- Settle a binding with a used count (R60). -/
def State.settle (s : State) (b : Binding) (used : Nat) : State :=
  (s.charge b.slot (min used b.reservation)).giveBack b.slot (b.reservation - min used b.reservation)

/-! ## Positions (R54, R19) -/

/-- A position of an engine. -/
def State.pos (s : State) (e : Line) (p : Pos) : Position := s.positions[e][p]

/-- Change a position of an engine. -/
def State.setPos (s : State) (e : Line) (p : Pos) (x : Position) : State :=
  { s with positions := put s.positions e (put s.positions[e] p x) }

/-- The binding a live position holds (R54). -/
def Position.binding : Position → Option Binding
  | .free => none
  | .blocked => none
  | .loading b _ => some b
  | .bound b => some b
  | .clearing b _ => some b
  | .ended b _ _ => some b

/-- Whether a position is ENDED (R83). -/
def Position.isEnded : Position → Bool
  | .ended .. => true
  | _ => false

/-- Whether a position holds a binding on a slot. -/
def Position.holds (n : SlotNo) (x : Position) : Bool :=
  match x.binding with
  | some b => b.slot == n
  | none => false

/-- All sixteen positions, engine 0 first. -/
def State.allPositions (s : State) : List Position := s.positions.toList.flatMap (·.toList)

/-- The live-binding count of a slot (R19; log 18). -/
def State.liveCount (s : State) (n : SlotNo) : Nat := s.allPositions.countP (·.holds n)

/-- Every position FREE. -/
def noPositions : Vector (Vector Position 4) 4 := Vector.replicate 4 (Vector.replicate 4 .free)

/-- Charge the reservation of a position that holds a binding (R61, R80, R81). -/
def State.chargePosition (s : State) (x : Position) : State :=
  match x.binding with
  | some b => s.charge b.slot b.reservation
  | none => s

/-- End the binding table: every reservation charged, every position FREE (R80, R81). -/
def State.endTable (s : State) : State :=
  { s.allPositions.foldl State.chargePosition s with positions := noPositions }

/-! ## Frame queues (R85) -/

/-- Queue a frame at the tail of a transmitter's queue. -/
def State.queueFrame (s : State) (e : Line) (k : FrameKind) : State :=
  s.withBus e fun t => { t with queue := t.queue ++ [{ kind := k, stale := false }] }

/-- The transfer buffer's cleared value (R87). -/
def zeros32 : Vector Byte 32 := Vector.replicate 32 0

/-! ## Inputs (R33, R93) -/

/-- The switches and engine-ready lines are sampled from the start of the oscillator until BACKUP or a warm reset. -/
def State.sampling (s : State) : Bool :=
  s.custody.present != .backup && !(s.custody.present == .starting && s.custody.phase == .inReset)

/-! ## The arbiter's rotation and the resumption of an erase (R107, R108, R111) -/

/-- Whether a read client has a read waiting; client 4 is the pattern-test scheduler (R108). -/
def ArrayControl.readWaits (c : ArrayControl) (k : Fin 5) : Bool :=
  if h : k.val < 4 then (c.lineWait[k.val]).isSome else c.testWait.isSome

/-- The clients after the last served, in rotation order (R108). -/
def ArrayControl.rotation (c : ArrayControl) : List (Fin 5) := [1, 2, 3, 4, 5].map fun k => c.lastServed + k

/-- The next read client with a read waiting (R108). The pattern test's read takes its place in the rotation, so it may come
before a line read that waits (R107, R108; R157 puts it after any; DEDUCED, log 53). -/
def ArrayControl.nextRead (c : ArrayControl) : Option (Fin 5) := c.rotation.find? c.readWaits

/-- The next line with a read waiting, the scheduler skipped (R108, R111). -/
def ArrayControl.nextLineRead (c : ArrayControl) : Option (Fin 5) :=
  c.rotation.find? fun k => decide (k.val < 4) && c.readWaits k

/-- Whether any line read waits. -/
def ArrayControl.lineReadWaits (c : ArrayControl) : Bool := c.nextLineRead.isSome

/-- Resume the suspended erase: run time 0, suspension timer stopped (R111). -/
def ArrayControl.resume (c : ArrayControl) (b : Bank) : ArrayControl :=
  { c with exec := some (.erase b false), suspended := none, capReached := false, runTime := 0, suspendTime := 0 }

/-- A suspended erase resumes when nothing executes and no line read waits or the cap is reached (R111). -/
def ArrayControl.resumeCheck (c : ArrayControl) : ArrayControl :=
  match c.suspended with
  | none => c
  | some b => if c.exec = none ∧ (c.capReached = true ∨ c.lineReadWaits = false) then c.resume b else c

/-! ## The end of a ceremony (R48, R49) -/

/-- Return the ceremony to IDLE: buffer cleared, target reservation cleared, record cleared (R25, R18, R48). -/
def State.endCeremony (s : State) : State :=
  match s.ceremony.current with
  | none => s
  | some o =>
    (s.withBank (bankOf o.slot) fun b => { b with reserved := false }).withCeremony fun c =>
      { c with current := none, buffer := zeros32 }

/-- Whether a completion entry of the custodian port is free and not reserved (R49). -/
def State.custEntryFree (s : State) : Bool :=
  s.custLink.completions.length + (if s.custProgress.isSome then 1 else 0) < capacity .cust

/-- Report an abandonment caused by no request (R49). -/
def State.reportAbandoned (s : State) (cause : Cause) (o : OpenRecord) : State :=
  if s.custEntryFree then
    s.pushCompletion .cust
      { tag := o.tag, code := 0x00, outcome := .abandoned, data := cause.byte :: o.handle.bytes }
  else s.withCeremony fun c => { c with undelivered := some cause }

/-- Abandon a COLLECTING ceremony for a cause that no request reports (R48 to R52); nothing otherwise. -/
def State.abandonFor (s : State) (cause : Cause) : State :=
  match s.ceremony.current with
  | none => s
  | some o => if o.programming then s else s.endCeremony.reportAbandoned cause o

/-- Complete the COMMIT in progress (R44 to R46, R52). -/
def State.finishCommit (s : State) (oc : OutcomeCode) (data : List Byte) : State :=
  match s.custProgress with
  | some (.commit tag) => s.finishCust tag codeCommit oc data
  | _ => s

/-! ## The administration client (R106, R114, R126, R129) -/

/-- The end of a PROGRAM MARK at the directory, with whatever result (R12). -/
def State.markEnd (s : State) (n : SlotNo) : State :=
  let t := s.withSlot n fun d =>
    { d with retirePending := false, state := if d.state = .active then .retired else d.state }
  if s.directory.slots[n].state = .active then t.withSlotRet n fun r => { r with latch := true } else t

/-- Submit an ERASE BANK of the administration client: its bank becomes ERASING (R16, R129). -/
def State.submitErase (s : State) (b : Bank) : State :=
  (s.withControl fun c => { c with adminWait := some (.erase b s.directory.banks[b].condition) }).withBank b
    fun d => { d with condition := .erasing }

/-- Submit the mark of a RETIRE and complete it, or have it refused by a set fault flag (R126, R114). -/
def State.submitMark (s : State) (tag : Byte) (h : Handle) (n : SlotNo) (recalled : Nat) : State :=
  if s.control.fault then
    (s.markEnd n).finishCust tag codeRetire .ok (h.bytes ++ [BitVec.ofNat 8 recalled, 2])
  else
    (s.withControl fun c => { c with adminWait := some (.mark n) }).finishCust tag codeRetire .ok
      (h.bytes ++ [BitVec.ofNat 8 recalled, 1])

/-- The step in which the administration slot empties: a RETIRE or RECLAIM in progress submits its operation and
completes (R106, R126, R129). -/
def State.adminEmptied (s : State) : State :=
  match s.custProgress with
  | some (.retire tag h n recalled) => s.submitMark tag h n recalled
  | some (.reclaim tag b epoch) =>
    if s.control.fault then s.finishCust tag codeReclaim .nvFault []
    else (s.submitErase b).finishCust tag codeReclaim .ok [BitVec.ofNat 8 b.val, epoch]
  | _ => s

/-! ## The fault flag (R113, R114) -/

/-- Refuse a waiting PROGRAM RECORD: the ceremony ends with its COMMIT NV_FAULT (R46). -/
def State.refuseProgram (s : State) : State :=
  match s.control.ceremonyWait with
  | none => s
  | some _ => ((s.withControl fun c => { c with ceremonyWait := none }).endCeremony).finishCommit .nvFault []

/-- Refuse a waiting administration operation: a mark ends as failed, an erase gives its bank back its condition
(R114). -/
def State.refuseAdmin (s : State) : State :=
  match s.control.adminWait with
  | none => s
  | some (.mark n) => ((s.withControl fun c => { c with adminWait := none }).markEnd n).adminEmptied
  | some (.erase b prior) =>
    ((s.withControl fun c => { c with adminWait := none }).withBank b fun d => { d with condition := prior }).adminEmptied

/-- A write failed: the flag is set, the NV_FAULT alarm event handed on, and waiting deferrable writes refused, in
one step (R113, R114). -/
def State.setFault (s : State) : State :=
  (((s.withControl fun c => { c with fault := true }).latch .nvFault).refuseProgram).refuseAdmin

/-! ## What a stopped or failed operation leaves in the array (log 9) -/

/-- Change a slot record of the array. -/
def State.withRecord (s : State) (n : SlotNo) (f : SlotRecord → SlotRecord) : State :=
  s.withArray fun a => { a with records := put a.records n (f a.records[n]) }

/-- A record whose written mark is set and whose other bytes are in whatever state they have reached; the value area
beyond K stays blank (R5, R101). -/
def partProgrammed (d len : Nat) : SlotRecord :=
  { written := true
    header := Vector.ofFn fun i => freeByte d (2 + i.val)
    value := Vector.ofFn fun i => if i.val < len then freeByte d (24 + i.val) else 0
    rcw := (freeByte d 56, freeByte d 57)
    retire := .blank }

/-- A PROGRAM RECORD that fails leaves its written mark set (R101). -/
def State.leaveFailedProgram (s : State) (r : ProgramRequest) : State :=
  (s.withRecord r.slot fun _ => partProgrammed s.draws (hLength r.record.header)).nextDraw

/-- A PROGRAM RECORD that is stopped leaves a blank record or one whose written mark is set (R5, R116, R117). -/
def State.leaveStoppedProgram (s : State) (r : ProgramRequest) : State :=
  (s.withRecord r.slot fun old =>
    if freeBool s.draws 0 then partProgrammed s.draws (hLength r.record.header) else old).nextDraw

/-- A retire mark that failed has a bit still blank (R102): blank or in part, or as part-taken before. -/
def State.leaveFailedMark (s : State) (n : SlotNo) : State :=
  (s.withRecord n fun r =>
    { r with retire := if freeBool s.draws 0 || r.retire != .blank then .part else .blank }).nextDraw

/-- A retire mark that was stopped is blank, in part or whole (R12, R117); bits once programmed stay. -/
def State.leaveStoppedMark (s : State) (n : SlotNo) : State :=
  (s.withRecord n fun r =>
    { r with retire := match r.retire, freeBelow s.draws 0 3 with
        | .blank, 0 => .blank
        | .full, _ => .full
        | _, 2 => .full
        | _, _ => .part }).nextDraw

/-- A record in whatever part-erased form it has reached (R5, R104). -/
def partErased (d base : Nat) : SlotRecord :=
  { written := freeBool d base
    header := Vector.ofFn fun i => freeByte d (base + 1 + i.val)
    value := Vector.ofFn fun i => freeByte d (base + 23 + i.val)
    rcw := (freeByte d (base + 55), freeByte d (base + 56))
    retire := match freeBelow d (base + 57) 3 with
      | 0 => .blank
      | 1 => .part
      | _ => .full }

/-- The erase-in-progress mark of a bank is programmed or not (R2). -/
def State.markBank (s : State) (b : Bank) (on : Bool) : State :=
  s.withArray fun a => { a with headers := put a.headers b { a.headers[b] with erasing := on } }

/-- An ERASE BANK that fails or is stopped: in phase 1 the mark may have taken and nothing else has changed; later
the mark is set and the records and the row are part-erased. The header keeps its count (R104, R116, R117). -/
def State.leaveStoppedErase (s : State) (b : Bank) : State :=
  let d := s.draws
  if freeBool d 0 then (s.markBank b (s.control.markFound || freeBool d 1)).nextDraw
  else
    ((s.markBank b true).withArray fun a => { a with
      records := Vector.ofFn fun i => if bankOf i = b then partErased d (100 + 64 * i.val) else a.records[i]
      rows := put a.rows b (Vector.ofFn fun i => freeByte d (9000 + i.val)) }).nextDraw

end Sys2Proof.Machine
end

