-- ==== Sys2Proof/Machine/Zeroize.lean ====
section
/-! DEFINITION. Custody Control: tamper events (R149, R162, R163), the beginnings of a zeroization (R164, R168) with
what each block does in them (R14, R52, R80, R97, R116), and the owed erases (R166, R167). -/

namespace Sys2Proof.Machine

/-! ## What each block does at the beginning of a zeroization -/

/-- The request code of a line request in progress (11.7). -/
def LineProgress.code : LineProgress → Byte
  | .bindReading .. => codeBind
  | .bindLost .. => codeBind
  | .bindLoading .. => codeBind
  | .release .. => codeRelease
  | .releaseAll .. => codeReleaseAll
  | .clearBlocked .. => codeClearBlocked

/-- The tag of a line request in progress. -/
def LineProgress.tag : LineProgress → Byte
  | .bindReading t .. => t
  | .bindLost t => t
  | .bindLoading t .. => t
  | .release t .. => t
  | .releaseAll t .. => t
  | .clearBlocked t .. => t

/-- The request in progress of a line port completes ZEROIZED (R80). -/
def State.zeroizeLine (s : State) (l : Line) : State :=
  match s.lineProgress[l] with
  | some x => s.finishLine l x.tag x.code .zeroized []
  | none => s

/-- The Slot Directory: every slot that is not EMPTY is LOST, every lost flag set (R14). -/
def State.zeroizeDirectory (s : State) : State :=
  s.withDirectory fun d => { d with
    slots := mapTable (fun e => if e.state = .empty then e else { e with state := .lost, retirePending := false })
      d.slots
    banks := mapTable (fun b => { b with lost := true }) d.banks }

/-- The Ceremony Unit: a COLLECTING ceremony is abandoned and reported, a PROGRAMMING one ends with its COMMIT
ZEROIZED (R52). -/
def State.zeroizeCeremony (s : State) : State :=
  match s.ceremony.current with
  | none => s
  | some o => if o.programming then s.endCeremony.finishCommit .zeroized [] else s.abandonFor .zeroization

/-- A transmitter: a frame being sent is broken off, an AWAITING frame stays outstanding, the rest of the queue is
discarded, the buffer cleared, and a CLEAR-ALL queued when the engine is ready (R97). -/
def Transmitter.zeroize (t : Transmitter) : Transmitter :=
  let kept := if t.state = .awaiting then (t.queue.take 1).map fun f => { f with stale := true } else []
  { t with
    queue := kept ++ (if t.ready then [{ kind := .clearAll, stale := false }] else [])
    state := if t.state = .sending then .idle else t.state
    buffer := zeros32
    lastEnd := if t.state = .sending then .sendAbort else t.lastEnd }

/-- What the operation executing and the erase suspended leave in the array when they are stopped (R116, R117). -/
def State.leaveStopped (s : State) : State :=
  let t := match s.control.exec with
    | some (.programRecord r) => s.leaveStoppedProgram r
    | some (.programMark n) => s.leaveStoppedMark n
    | some (.erase b _) => s.leaveStoppedErase b
    | some (.readSlot ..) => s
    | some (.readReference _) => s
    | none => s
  match s.control.suspended with
  | some b => t.leaveStoppedErase b
  | none => t

/-- Make a bank ERASE_INCOMPLETE. -/
def State.incomplete (s : State) (b : Bank) : State := s.withBank b fun d => { d with condition := .eraseIncomplete }

/-- The bank of an erase executing, suspended, or waiting in the administration slot. -/
def ArrayControl.erasingBanks (c : ArrayControl) : List Bank :=
  (match c.exec with
    | some (.erase b _) => [b]
    | _ => []) ++ c.suspended.toList ++
  (match c.adminWait with
    | some (.erase b _) => [b]
    | _ => [])

/-- The Array Controller: the executing operation and a suspended erase are aborted, waiting operations discarded,
and the banks of aborted or discarded erases become ERASE_INCOMPLETE; fault flag and rotation stay (R116). -/
def State.abortArray (s : State) : State :=
  let t := s.control.erasingBanks.foldl State.incomplete s.leaveStopped
  t.withControl fun c => { ArrayControl.initial with lastServed := c.lastServed, fault := c.fault }

/-- A RETIRE or RECLAIM whose submission waits completes ZEROIZED (R106, R126, R129). -/
def State.zeroizeCust (s : State) : State :=
  match s.custProgress with
  | some (.retire tag ..) => s.finishCust tag codeRetire .zeroized []
  | some (.reclaim tag ..) => s.finishCust tag codeReclaim .zeroized []
  | _ => s

/-! ## Owed erases (R166, R167) -/

/-- The lowest-numbered owed bank. -/
def State.lowestOwed (s : State) : Option Bank := four.find? fun b => s.retention.owed[b]

/-- Whether Custody Control has an erase submitted or executing. -/
def ArrayControl.custodyBusy (c : ArrayControl) : Bool :=
  c.custodyWait.isSome || (match c.exec with
    | some (.erase _ true) => true
    | _ => false)

/-- In ZEROIZING with no erase submitted or executing, submit the lowest owed bank, which becomes ERASING (R166). -/
def State.nextOwed (s : State) : State :=
  if s.custody.present = .zeroizing ∧ s.control.custodyBusy = false then
    match s.lowestOwed with
    | some b =>
      (s.withControl fun c => { c with custodyWait := some b }).withBank b fun d => { d with condition := .erasing }
    | none => s
  else s

/-- An erase of Custody Control has ended: its owed mark is cleared; after the last the part enters RECOVERY,
before it the next owed bank is submitted (R166, R167). -/
def State.owedEnded (s : State) (b : Bank) : State :=
  let t := s.withRetention fun r => { r with owed := put r.owed b false }
  if t.lowestOwed = none then
    (t.withRetention fun r => { r with resume := .recovery }).withCustody fun c => { c with present := .recovery }
  else t.nextOwed

/-! ## The tamper record and the source flags (R160, R162) -/

/-- The source flag of a source; COMMAND and RETENTION_LOSS have none (R160). -/
def Source.alarm : Source → Option Alarm
  | .door => some .door
  | .mesh => some .mesh
  | .supplyHigh => some .supplyHigh
  | .clock => some .clock
  | .command => none
  | .retentionLoss => none

/-- Latch the flag of a source. -/
def State.latchSource (s : State) (src : Source) : State :=
  match src.alarm with
  | some a => s.latch a
  | none => s

/-- Update the event part of the tamper record (R162). -/
def State.recordEvent (s : State) (src : Source) (oc : EventOutcome) : State :=
  s.withRetention fun r => { r with tamper := { r.tamper with
    eCount := min 255 (r.tamper.eCount + 1), eSource := some src, eOutcome := some oc, eTime := s.stamp } }

/-- Update the zeroization part of the tamper record (R162). -/
def State.recordZeroization (s : State) (src : Source) (place : Place) : State :=
  s.withRetention fun r => { r with tamper := { r.tamper with
    zCount := min 255 (r.tamper.zCount + 1), zCause := some src, zTime := s.stamp, zPlace := some place } }

/-- Custody Control's own changes at either beginning: covers invalidated and overwritten with zero, the resume mode
ZEROIZING, all banks owed, the tamper record, the flags (R6, R164, R168). -/
def State.destroyCovers (s : State) (src : Source) (place : Place) : State :=
  ((((s.withRetention fun r => { r with
      covers := Vector.replicate 4 { value := zeros32, valid := false }
      resume := .zeroizing
      owed := Vector.replicate 4 true }).recordZeroization src place).recordEvent src .zeroized).latch
    .zeroized).latchSource src

/-! ## The two beginnings -/

/-- A running zeroization begins (R164): every block in one step, then the first owed erase is submitted (R166). The
ABANDONED report of an open ceremony enters the custodian queue before the ZEROIZED completion of a waiting RETIRE or
RECLAIM (DESIGN CHOICE, log 16). -/
def State.beginRunning (s : State) (src : Source) : State :=
  let s1 := (s.destroyCovers src .running).withCustody fun c => { c with present := .zeroizing }
  let s2 := s1.zeroizeDirectory.zeroizeCeremony
  let s3 := four.foldl State.zeroizeLine s2.endTable
  let s4 := { s3 with buses := mapTable Transmitter.zeroize s3.buses }
  let s5 := s4.abortArray.zeroizeCust
  (s5.withMonitor fun m => { m with intervalTimer := none }).nextOwed

/-- An unpowered zeroization begins (R168): the battery domain's part, and the directory where a scan has already
judged it. -/
def State.beginUnpowered (s : State) (src : Source) : State :=
  let t := s.destroyCovers src .unpowered
  if t.directory.inUse then t.zeroizeDirectory else t

/-! ## Tamper events (R163) -/

/-- Custody Control acts on a tamper event by its mode (R163). It acts on none while the validity marker is lost
(R175), and none is raised in UNCOMMISSIONED (R149). -/
def State.raiseTamper (s : State) (src : Source) (act : Action) : State :=
  let recorded := (s.latchSource src).recordEvent src .recorded
  let alarmed := (s.latchSource src).recordEvent src .alarmed
  if s.retention.marker = false then s
  else
    match s.custody.present with
    | .uncommissioned => s
    | .zeroizing => recorded
    | .recovery => recorded
    | .service => if act = .zeroize then s.beginRunning src else alarmed
    | .backup | .starting | .halted =>
      if s.retention.resume = .service then (if act = .zeroize then s.beginUnpowered src else alarmed) else recorded

/-- The commissioned door action of the enclosure settings copy (R151). -/
def State.doorAction (s : State) : Action :=
  match s.enclosure with
  | some c => c.doorAction
  | none => .alarm

/-- The service window closes; a door found at its tamper level raises a DOOR event with its commissioned action
(R132, R151). -/
def State.closeWindow (s : State) : State :=
  let t := s.withMonitor fun m => { m with windowTimer := none }
  if t.doorOpen then t.raiseTamper .door t.doorAction else t

end Sys2Proof.Machine
end

