-- ==== Sys2Proof/Machine/Admin.lean ====
section
/-! DEFINITION. The administration commands (07), SET TIME (08) and REARM (09). -/

namespace Sys2Proof.Machine

/-! ## ALLOCATE (R56, R123) -/

/-- Whether a position's binding forbids a new domain and mask: its slot's domain differs or its class is outside
(R56). -/
def State.conflicts (s : State) (domain mask : Byte) (x : Position) : Bool :=
  match x.binding with
  | none => false
  | some b =>
    let h := s.directory.slots[b.slot].header
    hDomain h != domain || !classInMask (hClass h) mask

/-- The judgement of R56 in one act with the change. -/
def takeAllocate (tag : Byte) (q : Line × Byte × Byte) (s : State) : State :=
  let (l, domain, mask) := q
  match four.find? fun p => s.conflicts domain mask (s.pos l p) with
  | some p => s.finishCust tag codeAllocate .portBusy [BitVec.ofNat 8 l.val, BitVec.ofNat 8 p.val]
  | none =>
    ({ s with allocations := put s.allocations l { domain := domain, mask := mask } } : State).finishCust tag
      codeAllocate .ok [BitVec.ofNat 8 l.val, domain, mask]

/-- ALLOCATE (R123). -/
def execAllocate (s : State) : Host.Outcome State Fault Refusal :=
  .next (s.takeCust codeAllocate gateService .either parseAllocate takeAllocate)

/-! ## HOLD and UNHOLD (R124) -/

/-- Set or clear a slot's hold flag after the checks of R124; the completion carries the flag before. -/
def takeHold (code : Byte) (on : Bool) (tag : Byte) (h : Handle) (s : State) : State :=
  match s.resolve h with
  | none => s.finishCust tag code .staleHandle []
  | some n =>
    match s.directory.slots[n].state with
    | .empty => s.finishCust tag code .slotEmpty []
    | .lost => s.finishCust tag code .keyLost []
    | .active | .retired | .damaged =>
      (s.withSlotRet n fun r => { r with hold := on }).finishCust tag code .ok
        (h.bytes ++ [boolByte s.retention.slots[n].hold])

/-- HOLD (R124). -/
def execHold (s : State) : Host.Outcome State Fault Refusal :=
  .next (s.takeCust codeHold gateService .either parseHandle (takeHold codeHold true))

/-- UNHOLD (R124). -/
def execUnhold (s : State) : Host.Outcome State Fault Refusal :=
  .next (s.takeCust codeUnhold gateService .either parseHandle (takeHold codeUnhold false))

/-! ## RETIRE and its recall (R76, R125, R126) -/

/-- Whether a LOAD for a position is queued or outstanding on its bus. -/
def State.loadQueued (s : State) (e : Line) (p : Pos) : Bool :=
  s.buses[e].queue.any fun f => !f.stale && (match f.kind with
    | .load q .. => q == p
    | _ => false)

/-- Whether a recall acts on a position: BOUND on the slot, or LOADING on it with its LOAD queued (R76). -/
def State.recallActs (s : State) (n : SlotNo) (e : Line) (p : Pos) : Bool :=
  match s.pos e p with
  | .bound b => b.slot == n
  | .loading b _ => b.slot == n && s.loadQueued e p
  | _ => false

/-- The recall's action on a position (R76). -/
def State.recallAt (n : SlotNo) (s : State) (ep : Line × Pos) : State :=
  if s.recallActs n ep.1 ep.2 then
    match s.pos ep.1 ep.2 with
    | .bound b => (s.queueFrame ep.1 (.clear ep.2)).setPos ep.1 ep.2 (.clearing b .recall)
    | .loading b _ => (s.queueFrame ep.1 (.clear ep.2)).setPos ep.1 ep.2 (.loading b true)
    | _ => s
  else s

/-- The sixteen places of the binding table, engine 0 first. -/
def places : List (Line × Pos) := four.flatMap fun e => four.map fun p => (e, p)

/-- Recall a slot from every engine (R76). -/
def State.recall (s : State) (n : SlotNo) : State := places.foldl (State.recallAt n) s

/-- The number of positions a recall acts on (R126). -/
def State.recallCount (s : State) (n : SlotNo) : Nat := places.countP fun ep => s.recallActs n ep.1 ep.2

/-- The checks of R125, then R126. -/
def takeRetire (tag : Byte) (q : Handle × Bool) (s : State) : State :=
  let (h, withRecall) := q
  match s.resolve h with
  | none => s.finishCust tag codeRetire .staleHandle []
  | some n =>
    match s.directory.slots[n].refusal with
    | some oc => s.finishCust tag codeRetire oc []
    | none =>
      let t := s.withSlot n fun d => { d with retirePending := true }
      let t := if withRecall then t.recall n else t
      let recalled := if withRecall then s.recallCount n else 0
      if t.control.adminWait = none then t.submitMark tag h n recalled
      else { t with custProgress := some (.retire tag h n recalled) }

/-- RETIRE (R126). -/
def execRetire (s : State) : Host.Outcome State Fault Refusal :=
  .next (s.takeCust codeRetire gateService .both parseRetire takeRetire)

/-! ## RECLAIM (R128, R129) -/

/-- The slots of a bank. -/
def slotsOf (b : Bank) : List SlotNo := (List.finRange 32).map (slotNo b)

/-- The checks of R128 in their order. -/
def State.reclaimRefusal (s : State) (b : Bank) : Option OutcomeCode :=
  if s.directory.banks[b].condition = .erasing then some .bankUnavailable
  else if (slotsOf b).any fun n => s.directory.slots[n].state == .active then some .bankInUse
  else if (slotsOf b).any fun n => 0 < s.liveCount n then some .bankInUse
  else if s.directory.banks[b].reserved then some .bankInUse
  else if s.control.fault then some .nvFault
  else none

/-- R128, then R129: the erase is submitted at once, or the request waits for the administration slot. -/
def takeReclaim (tag : Byte) (b : Bank) (s : State) : State :=
  match s.reclaimRefusal b with
  | some oc => s.finishCust tag codeReclaim oc []
  | none =>
    let epoch := s.directory.banks[b].epoch
    if s.control.adminWait = none then
      (s.submitErase b).finishCust tag codeReclaim .ok [BitVec.ofNat 8 b.val, epoch]
    else { s with custProgress := some (.reclaim tag b epoch) }

/-- RECLAIM (R129). -/
def execReclaim (s : State) : Host.Outcome State Fault Refusal :=
  .next (s.takeCust codeReclaim gateRecovery .both parseReclaim takeReclaim)

/-! ## The service window (R131, R132) -/

/-- Open the window, or restart its timer at the maximum (R131). -/
def takeOpenWindow (tag : Byte) (_ : Unit) (s : State) : State :=
  (s.withMonitor fun m => { m with windowTimer := some (s.windowMaximum * cyclesPerSecond) }).finishCust tag
    codeOpenWindow .ok (be16 s.windowMaximum)

/-- OPEN SERVICE WINDOW (R131). -/
def execOpenServiceWindow (s : State) : Host.Outcome State Fault Refusal :=
  .next (s.takeCust codeOpenWindow gateService .both parseNone takeOpenWindow)

/-- Close an open window and judge the door again; the completion carries the state before (R132). It enters the
queue after a report the closing brings (log 16). -/
def takeCloseWindow (tag : Byte) (_ : Unit) (s : State) : State :=
  let t := if s.monitor.windowTimer.isSome then s.closeWindow else s
  t.finishCust tag codeCloseWindow .ok [boolByte s.monitor.windowTimer.isSome]

/-- CLOSE SERVICE WINDOW (R132). -/
def execCloseServiceWindow (s : State) : Host.Outcome State Fault Refusal :=
  .next (s.takeCust codeCloseWindow gateService .either parseNone takeCloseWindow)

/-- SERVICE_WINDOW_EXPIRY (R132): the timer of an open window has reached 0. -/
def execServiceWindowExpiry (s : State) : Host.Outcome State Fault Refusal :=
  if s.monitor.windowTimer == some 0 then .next s.closeWindow else .next s

/-! ## Alarms, faults and reset causes (R133 to R136) -/

/-- Replace the alarm mask (R133). -/
def takeSetMask (tag : Byte) (mask : Byte) (s : State) : State :=
  (s.withRetention fun r => { r with alarmMask := mask }).finishCust tag codeSetMask .ok
    [s.retention.alarmMask, mask]

/-- SET ALARM MASK (R133). -/
def execSetAlarmMask (s : State) : Host.Outcome State Fault Refusal :=
  .next (s.takeCust codeSetMask gateService .either parseFlags takeSetMask)

/-- Clear each selected latched flag whose condition no longer holds (R134). -/
def takeClearAlarms (tag : Byte) (selection : Byte) (s : State) : State :=
  let latched := s.retention.alarmFlags &&& selection
  let cleared := latched &&& ~~~ s.holdingFlags
  (s.withRetention fun r => { r with alarmFlags := r.alarmFlags &&& ~~~ cleared }).finishCust tag codeClearAlarms .ok
    [cleared, latched &&& s.holdingFlags]

/-- CLEAR ALARMS (R134). -/
def execClearAlarms (s : State) : Host.Outcome State Fault Refusal :=
  .next (s.takeCust codeClearAlarms gateClears .either parseFlags takeClearAlarms)

/-- Clear the fault flag (R115, R135). -/
def takeClearFault (tag : Byte) (_ : Unit) (s : State) : State :=
  (s.withControl fun c => { c with fault := false }).finishCust tag codeClearFault .ok [boolByte s.control.fault]

/-- CLEAR NV FAULT (R135). -/
def execClearNvFault (s : State) : Host.Outcome State Fault Refusal :=
  .next (s.takeCust codeClearFault gateRecovery .either parseNone takeClearFault)

/-- Clear the six reset-cause flags (R136). -/
def takeClearReset (tag : Byte) (_ : Unit) (s : State) : State :=
  (s.withRetention fun r => { r with resetFlags := 0 }).finishCust tag codeClearReset .ok [s.retention.resetFlags]

/-- CLEAR RESET FLAGS (R136). -/
def execClearResetFlags (s : State) : Host.Outcome State Fault Refusal :=
  .next (s.takeCust codeClearReset gateClears .either parseNone takeClearReset)

/-! ## ZEROIZE (R137) and REARM (R170) -/

/-- Raise a COMMAND event and complete OK with the zeroization count after it (R137; order of entries log 16). With the
validity marker lost the event is not acted on (R175), and the request completes OK with the count as it stands (DESIGN
CHOICE, log 54). -/
def takeZeroize (tag : Byte) (_ : Unit) (s : State) : State :=
  let t := s.raiseTamper .command .zeroize
  t.finishCust tag codeZeroize .ok [BitVec.ofNat 8 t.retention.tamper.zCount]

/-- ZEROIZE (R137). -/
def execZeroize (s : State) : Host.Outcome State Fault Refusal :=
  .next (s.takeCust codeZeroize gateService .both parseNone takeZeroize)

/-- A list in a free order (log 26). -/
def freeOrder {α : Type} (d : Nat) : Nat → List α → List α
  | 0, _ => []
  | k + 1, xs =>
    let i := freeBelow d k xs.length
    match xs[i]? with
    | some x => x :: freeOrder d k (xs.eraseIdx i)
    | none => []

/-- The sources whose condition stands, with their actions (R170). -/
def State.standing (s : State) : List (Source × Action) :=
  (if s.doorOpen && s.monitor.windowTimer.isNone then [(.door, s.doorAction)] else []) ++
  (if s.meshBroken then [(.mesh, .zeroize)] else []) ++
  (if s.monitor.supplyHigh then [(.supplyHigh, s.supplyAction)] else []) ++
  (if s.failLimit ≤ s.monitor.failCount then [(.clock, s.clockAction)] else [])

/-- The ERASE_INCOMPLETE banks, bit per bank (R170). -/
def State.incompleteBanks (s : State) : Byte :=
  bitsByte (s.directory.banks.toList.map fun b => b.condition == .eraseIncomplete)

/-- The modes become SERVICE, the interval timer starts, the REARM completes, and the standing sources are raised in
a free order (R170, R163, log 26). -/
def takeRearm (tag : Byte) (_ : Unit) (s : State) : State :=
  let t := (((s.withRetention fun r => { r with resume := .service }).withCustody fun c =>
    { c with present := .service }).withMonitor fun m =>
    { m with intervalTimer := some (s.testInterval * cyclesPerSecond) }).finishCust tag codeRearm .ok
      [s.incompleteBanks]
  let order := freeOrder t.draws t.standing.length t.standing
  order.foldl (fun u e => u.raiseTamper e.1 e.2) t.nextDraw

/-- REARM (R170). -/
def execRearm (s : State) : Host.Outcome State Fault Refusal :=
  .next (s.takeCust codeRearm gateRearm .both parseNone takeRearm)

/-! ## SET TIME (R142, R143) -/

/-- Step 4 of R142, then the new time in one step: set, counting, sub-second count 0, shown flags refreshed. -/
def takeSetTime (tag : Byte) (q : Date × Time) (s : State) : State :=
  if validDate q.1 && validTime q.2 then
    let before := s.retention.calendar
    let t := s.withRetention fun r => { r with
      calendar := { date := q.1, time := q.2, set := true, counting := true, sub := 0 } }
    t.sweep.finishCust tag codeSetTime .ok (dateBytes before.date ++ timeBytes before.time ++
      [boolByte before.set] ++ dateBytes q.1 ++ timeBytes q.2)
  else s.finishCust tag codeSetTime .badTime []

/-- SET TIME (R142). -/
def execSetTime (s : State) : Host.Outcome State Fault Refusal :=
  .next (s.takeCust codeSetTime gateRecovery .both parseSetTime takeSetTime)

end Sys2Proof.Machine
end

