-- ==== Sys2Proof/Machine/ArrayOps.lean ====
section
/-! DEFINITION. The Array Controller's commands (06): the arbiter's starts, the ends of the writing operations, and the
suspension of an erase. The end of a READ SLOT is in Bindings.lean, that of a READ REFERENCE in Tamper.lean. -/

namespace Sys2Proof.Machine

/-! ## Pattern test results (R158, R159), shared with the skip of R100 -/

/-- Set a bank's degraded flag; a change from clear to set in SERVICE, ZEROIZING or RECOVERY latches BANK_DEGRADED
(R17, R160). -/
def State.setDegraded (s : State) (b : Bank) : State :=
  let t := s.withBank b fun d => { d with degraded := true }
  if s.directory.banks[b].degraded = false ∧ s.lineServed = true then t.latch .bankDegraded else t

/-- Write a bank's test record and advance the next bank (R158, R159). -/
def State.writeTest (s : State) (b : Bank) (f : TestRecord → TestRecord) : State :=
  s.withRetention fun r => { r with
    tests := put r.tests b { f r.tests[b] with time := s.stamp }
    nextTest := r.nextTest + 1 }

/-- A test that was skipped changes neither counts nor offset (R158). -/
def State.skipTest (s : State) (b : Bank) : State := s.writeTest b fun t => { t with last := some .skipped }

/-- Whether the arbiter's next choice is the scheduler's read of a bank that is ERASING, which is not started
(R100). -/
def State.skipsTest (s : State) : Option Bank :=
  if s.control.exec = none ∧ s.control.suspended = none ∧ s.control.nextRead = some 4 then
    match s.control.testWait with
    | some b => if s.directory.banks[b].condition = .erasing then some b else none
    | none => none
  else none

/-- The skipped read leaves the scheduler's waiting slot and its test is recorded (R100, R158). -/
def State.endSkipped (s : State) (b : Bank) : State :=
  (s.withControl fun c => { c with testWait := none }).skipTest b

/-! ## ARRAY_OPERATION_START (R107, R108, R111) -/

/-- Start a waiting read; its client becomes the last served (R108). -/
def ArrayControl.startRead (c : ArrayControl) (k : Fin 5) : ArrayControl :=
  if h : k.val < 4 then
    match c.lineWait[k.val] with
    | some n => { c with
        lineWait := c.lineWait.set k.val none h, exec := some (.readSlot ⟨k.val, h⟩ n), lastServed := k }
    | none => c
  else
    match c.testWait with
    | some b => { c with testWait := none, exec := some (.readReference b), lastServed := k }
    | none => c

/-- Start an ERASE BANK: its times begin at 0, and its bank's erase-in-progress mark is programmed (R2, R103, R109). -/
def State.startErase (s : State) (b : Bank) (custody : Bool) : State :=
  (s.withControl fun c => { c with
    exec := some (.erase b custody), execTime := 0, runTime := 0, suspendTime := 0
    markFound := s.array.headers[b].erasing }).markBank b true

/-- Start a waiting write: Custody Control's, then the Ceremony Unit's, then the administration client's (R107); when
the last leaves its slot, a request waiting for the slot submits (R106). -/
def State.startWrite (s : State) : State :=
  match s.control.custodyWait with
  | some b => (s.withControl fun c => { c with custodyWait := none }).startErase b true
  | none =>
    match s.control.ceremonyWait with
    | some r => s.withControl fun c => { c with ceremonyWait := none, exec := some (.programRecord r) }
    | none =>
      match s.control.adminWait with
      | some (.mark n) =>
        (s.withControl fun c => { c with adminWait := none, exec := some (.programMark n) }).adminEmptied
      | some (.erase b _) => ((s.withControl fun c => { c with adminWait := none }).startErase b false).adminEmptied
      | none => s

/-- ARRAY_OPERATION_START (R107): with nothing executing, the arbiter's next choice. -/
def execArrayOperationStart (s : State) : Host.Outcome State Fault Refusal :=
  if s.control.exec.isSome then .next s
  else
    match s.control.suspended with
    | some b =>
      match (if s.control.capReached then none else s.control.nextLineRead) with
      | some k => .next (s.withControl fun c => c.startRead k)
      | none => .next (s.withControl fun c => c.resume b)
    | none =>
      match s.skipsTest with
      | some b => .next (s.endSkipped b)
      | none =>
        match s.control.nextRead with
        | some k => .next (s.withControl fun c => c.startRead k)
        | none => .next s.startWrite

/-! ## PROGRAM RECORD (R101, R11, R44, R45) -/

/-- Nothing executes any more. -/
def State.execEnded (s : State) : State := s.withControl fun c => { c with exec := none }

/-- The state of a slot a program has ended on: the one given, or LOST in a bank whose cover has become invalid with the
validity marker meanwhile (R14, R175, log 11). -/
def State.programmedState (s : State) (n : SlotNo) (x : SlotState) : SlotState :=
  if s.coverValid (bankOf n) then x else .lost

/-- The target slot of a program that succeeded: ACTIVE, header copy, retention state, shown flags (R11, R146). The shown flags
are evaluated also where the slot ends LOST (log 11; DESIGN CHOICE, log 52). -/
def State.fillSlot (s : State) (n : SlotNo) (h : Header) : State :=
  (s.withSlot n fun d => ({ d with state := s.programmedState n .active, header := h } : SlotDir).evaluate
    s.retention.calendar).withSlotRet n fun _ => { remaining := (hAllowance h).getD 0, issued := 0, hold := false, latch := false }

/-- The handle of the open ceremony, as bytes. -/
def State.ceremonyHandle (s : State) : List Byte :=
  match s.ceremony.current with
  | some o => o.handle.bytes
  | none => []

/-- PROGRAM_RECORD_DONE (R44): slot filled, ceremony ended, COMMIT OK with handle and KCW. -/
def execProgramRecordDone (s : State) : Host.Outcome State Fault Refusal :=
  match s.control.exec with
  | some (.programRecord r) =>
    .next ((((s.execEnded.withRecord r.slot fun _ => r.record).fillSlot r.slot r.record.header).endCeremony).finishCommit
      .ok (s.ceremonyHandle ++ cwBytes (hKcw r.record.header)))
  | _ => .next s

/-- PROGRAM_FAILED (R45): slot DAMAGED with its header copy, fault flag set, ceremony ended, COMMIT PROGRAM_FAILED. -/
def execProgramFailed (s : State) : Host.Outcome State Fault Refusal :=
  match s.control.exec with
  | some (.programRecord r) =>
    let t := (s.execEnded.leaveFailedProgram r).withSlot r.slot fun d =>
      { d with state := s.programmedState r.slot .damaged, header := r.record.header }
    .next ((t.endCeremony.finishCommit .programFailed s.ceremonyHandle).setFault)
  | _ => .next s

/-! ## PROGRAM MARK (R102, R12, R127) -/

/-- PROGRAM_MARK_END (R127): the slot is RETIRED with its latch set; a failure also sets the fault flag. -/
def execProgramMarkEnd (ok : Bool) (s : State) : Host.Outcome State Fault Refusal :=
  match s.control.exec with
  | some (.programMark n) =>
    if ok then .next ((s.execEnded.withRecord n fun r => { r with retire := .full }).markEnd n)
    else .next (((s.execEnded.leaveFailedMark n).markEnd n).setFault)
  | _ => .next s

/-! ## ERASE BANK (R103, R104, R15) -/

/-- The table with every entry of a bank replaced. -/
def fillBank {α : Type} (b : Bank) (x : α) (v : Vector α 128) : Vector α 128 :=
  Vector.ofFn fun i => if bankOf i = b then x else v[i]

/-- The new erase count, at most 65535 (R2, R103). -/
def nextCount (n : Nat) : Nat := min 65535 (n + 1)

/-- The effects of a completed erase, in one step (R15, R103, R119, R120). Once the validity marker is lost the fresh
cover is treated as invalid and the lost flag stays set (R6, R175, log 11). -/
def State.eraseEffects (s : State) (b : Bank) : State :=
  let count := nextCount s.array.headers[b].eraseCount
  let cover : Cover := { value := Vector.ofFn fun i => freeByte s.draws i.val, valid := true }
  let t := { s with
    array := { records := fillBank b SlotRecord.blank s.array.records
               headers := put s.array.headers b { eraseCount := count, erasing := false }
               rows := put s.array.rows b referencePattern }
    retention := { s.retention with
      covers := put s.retention.covers b cover
      slots := fillBank b SlotRetention.initial s.retention.slots
      tests := put s.retention.tests b TestRecord.initial }
    directory := { s.directory with
      slots := fillBank b SlotDir.cleared s.directory.slots
      banks := put s.directory.banks b { s.directory.banks[b] with
        condition := .ready, lost := !s.retention.marker, epoch := BitVec.ofNat 8 count, degraded := decide (20000 ≤ count) } } }
  if 20000 ≤ count ∧ s.directory.banks[b].degraded = false ∧ s.lineServed = true then
    t.nextDraw.latch .bankDegraded
  else t.nextDraw

/-- ERASE_COMPLETE (R15): a Custody Control erase also clears its owed mark and leads on (R166, R167). -/
def execEraseComplete (s : State) : Host.Outcome State Fault Refusal :=
  match s.control.exec with
  | some (.erase b custody) =>
    if s.control.suspending then .next s
    else
      let t := s.execEnded.eraseEffects b
      .next (if custody then t.owedEnded b else t)
  | _ => .next s

/-- ERASE_FAILED (R104): at 1.5 s of executing time the bank becomes ERASE_INCOMPLETE and the fault flag is set; a
Custody Control erase leads on (R166). -/
def execEraseFailed (s : State) : Host.Outcome State Fault Refusal :=
  match s.control.exec with
  | some (.erase b custody) =>
    if s.control.suspending then .next s
    else
      let t := ((s.withControl fun c => { c with exec := none, execTime := 1500000 }).leaveStoppedErase b).incomplete b
      .next (if custody then t.setFault.owedEnded b else t.setFault)
  | _ => .next s

/-! ## Suspension (R109 to R111) -/

/-- ERASE_SUSPEND (R110): an administration erase with 4 ms of run time and a line read waiting begins suspending. Its
executing time grows by the run time (R109) and stays below its limit (R104). -/
def execEraseSuspend (ran : Nat) (s : State) : Host.Outcome State Fault Refusal :=
  match s.control.exec with
  | some (.erase _ false) =>
    if s.control.suspending = false ∧ s.control.lineReadWaits = true ∧ 4000 ≤ ran ∧
        s.control.execTime + ran < 1500000 then
      .next (s.withControl fun c => { c with suspending := true, runTime := ran, execTime := c.execTime + ran })
    else .next s
  | _ => .next s

/-- ERASE_SUSPENDED (R110): suspending ends, the suspension timer starts; with no line read left the erase resumes at
once (R111). -/
def execEraseSuspended (s : State) : Host.Outcome State Fault Refusal :=
  match s.control.exec with
  | some (.erase b false) =>
    if s.control.suspending then
      .next (s.withControl fun c => ArrayControl.resumeCheck { c with
        exec := none, suspending := false, suspended := some b, capReached := false, suspendTime := 0 })
    else .next s
  | _ => .next s

/-- SUSPENSION_CAP (R111): the suspension timer reaches 1 ms; the erase resumes now, or when the executing read
ends. -/
def execSuspensionCap (s : State) : Host.Outcome State Fault Refusal :=
  if s.control.suspended.isSome then
    .next (s.withControl fun c => ArrayControl.resumeCheck { c with capReached := true, suspendTime := 1000 })
  else .next s

end Sys2Proof.Machine
end

