-- ==== Sys2Proof/Machine/Bindings.lean ====
section
/-! DEFINITION. The line commands (04): BIND, EXTEND, RELEASE, RELEASE ALL, CLEAR BLOCKED, and the completion of a
BIND's read. -/

namespace Sys2Proof.Machine

/-! ## BIND (R63, R64) -/

/-- The checks 1 to 7 of R63, with the slot and the lowest FREE position when they pass. -/
def State.bindTarget (s : State) (l : Line) (h : Handle) : Except OutcomeCode (SlotNo × Pos) :=
  match s.resolve h with
  | none => .error .staleHandle
  | some n =>
    let d := s.directory.slots[n]
    match d.refusal with
    | some oc => .error oc
    | none =>
      if hDomain d.header ≠ s.allocations[l].domain ∨ classInMask (hClass d.header) s.allocations[l].mask = false then
        .error .notAllocated
      else if s.retention.slots[n].hold then .error .keyHeld
      else
        match (judge s.retention.calendar d.header).refusal with
        | some oc => .error oc
        | none =>
          if s.buses[l].ready = false then .error .engineAbsent
          else
            match four.find? fun p => s.pos l p == .free with
            | none => .error .noPosition
            | some p => .ok (n, p)

/-- Take a position for a BIND: grant, LOADING position, READ SLOT submitted (R64). -/
def State.reserve (s : State) (tag : Byte) (l : Line) (h : Handle) (n : SlotNo) (p : Pos) (asked grant : Nat) :
    State :=
  let t := (s.takeGrant n grant).setPos l p (.loading { handle := h, slot := n, reservation := grant } false)
  (t.withControl fun c => { c with lineWait := put c.lineWait l (some n) }).setProgress l
    (some (.bindReading tag p asked grant))

/-- R63 with its check 8, then R64. -/
def takeBind (l : Line) (tag : Byte) (q : Handle × Nat) (s : State) : State :=
  match s.bindTarget l q.1 with
  | .error oc => s.finishLine l tag codeBind oc []
  | .ok (n, p) =>
    let grant := s.grantFor n q.2 0
    if grant = 0 then s.finishLine l tag codeBind .exhausted []
    else s.reserve tag l q.1 n p q.2 grant

/-- BIND (R63). -/
def execBind (l : Line) (s : State) : Host.Outcome State Fault Refusal :=
  .next (s.takeLine l codeBind parseBind (takeBind l))

/-! ## READ_SLOT_COMPLETE (R65 to R67, R69) -/

/-- A BIND that fails after it reserved: position FREE, reservation returned, completion (R61, R65, R66). -/
def State.bindFails (s : State) (l : Line) (tag : Byte) (p : Pos) (b : Binding) (oc : OutcomeCode) : State :=
  ((s.setPos l p .free).giveBack b.slot b.reservation).finishLine l tag codeBind oc []

/-- An integrity failure makes a slot that is still ACTIVE DAMAGED (R13). -/
def State.damage (s : State) (n : SlotNo) : State :=
  s.withSlot n fun d => if d.state = .active then { d with state := .damaged } else d

/-- Queue a BIND's LOAD: the key goes into the transfer buffer and leaves the Binding Unit (R67, R87). Its class is the
header copy's, its length and KCW are those of the record as read (DESIGN CHOICE, log 43). -/
def State.queueLoad (s : State) (l : Line) (tag : Byte) (p : Pos) (asked grant : Nat) (n : SlotNo)
    (record : SlotRecord) (cover : Vector Byte 32) : State :=
  let kind := FrameKind.load p (hClass s.directory.slots[n].header) (hLength record.header) (hKcw record.header)
  ((s.queueFrame l kind).withBus l fun t => { t with buffer := unmasked record cover }).setProgress l
    (some (.bindLoading tag p asked grant))

/-- A BIND's read delivers its record: verification (R65), recheck (R66), LOAD (R67). Under a cover that has become
invalid nothing is unmasked, and the BIND fails KEY_LOST (R7, log 11). -/
def State.bindRead (s : State) (l : Line) (tag : Byte) (p : Pos) (asked grant : Nat) (record : SlotRecord) :
    State :=
  match s.pos l p with
  | .loading b _ =>
    let cover := s.retention.covers[bankOf b.slot].value
    if s.coverValid (bankOf b.slot) = false then s.bindFails l tag p b .keyLost
    else if (rcwMatches record && kcwMatches record cover) = false then
      (s.damage b.slot).bindFails l tag p b .keyDamaged
    else
      match s.slotRecheck b.slot with
      | some oc => s.bindFails l tag p b oc
      | none => s.queueLoad l tag p asked grant b.slot record cover
  | _ => s

/-- READ_SLOT_COMPLETE (R65): the executing READ SLOT ends; a BIND whose engine was lost completes ENGINE_ABSENT and
its data are discarded (R69); a suspended erase resumes when no line read waits or its cap is reached (R111). -/
def execReadSlotComplete (drift : List Byte) (s : State) : Host.Outcome State Fault Refusal :=
  match s.control.exec with
  | some (.readSlot l n) =>
    let t := s.withControl fun c => { c with exec := none }
    let u := match s.lineProgress[l] with
      | some (.bindReading tag p asked grant) => t.bindRead l tag p asked grant (asRead s.array.records[n] drift)
      | some (.bindLost tag) => t.finishLine l tag codeBind .engineAbsent []
      | _ => t
    .next (u.withControl ArrayControl.resumeCheck)
  | _ => .next s

/-! ## EXTEND (R70) -/

/-- The checks of R70, then the grant. -/
def takeExtend (l : Line) (tag : Byte) (q : Pos × Nat) (s : State) : State :=
  match s.pos l q.1 with
  | .bound b =>
    match s.slotRecheck b.slot with
    | some oc => s.finishLine l tag codeExtend oc []
    | none =>
      let grant := s.grantFor b.slot q.2 b.reservation
      if grant = 0 then s.finishLine l tag codeExtend .exhausted []
      else
        let total := b.reservation + grant
        ((s.takeGrant b.slot grant).setPos l q.1 (.bound { b with reservation := total })).finishLine l tag codeExtend
          (if grant < q.2 then .partialGrant else .ok)
          (BitVec.ofNat 8 q.1.val :: be16 grant ++ be24 total)
  | _ => s.finishLine l tag codeExtend .notBound []

/-- EXTEND (R70). -/
def execExtend (l : Line) (s : State) : Host.Outcome State Fault Refusal :=
  .next (s.takeLine l codeExtend parseExtend (takeExtend l))

/-! ## RELEASE and RELEASE ALL (R71, R73) -/

/-- The outcome an ENDED position gives its release (R71). -/
def EndReason.outcome : EndReason → OutcomeCode
  | .recalled => .recalled
  | .engineLost => .engineLost

/-- What a release carrying a used count does to a position at its taking (R71), and what its entry then holds: a
CLEAR queued, a settlement, a wait, or nothing. FREE gives outcome 00 in a RELEASE ALL (R73). A position without a
binding has a used count of 0 and no overrun (DESIGN CHOICE, log 42). -/
def State.releaseAt (s : State) (l : Line) (p : Pos) (used : Nat) : State × ReleaseEntry :=
  match s.pos l p with
  | .bound b => ((s.queueFrame l (.clear p)).setPos l p (.clearing b .release), .wait used)
  | .ended b reason unclean =>
    ((s.settle b used).setPos l p (if unclean then .blocked else .free),
      .settled reason.outcome.byte (min used b.reservation) (decide (b.reservation < used)))
  | .clearing _ _ => (s, .wait used)
  | .free => (s, .settled 0x00 0 false)
  | .blocked => (s, .settled OutcomeCode.notBound.byte 0 false)
  | .loading _ _ => (s, .settled OutcomeCode.notBound.byte 0 false)

/-- A position's five bytes in a RELEASE ALL completion (11.7). -/
def ReleaseEntry.bytes : ReleaseEntry → List Byte
  | .wait _ => [0, 0, 0, 0, 0]
  | .settled oc used overrun => oc :: be24 used ++ [boolByte overrun]

/-- Whether an entry has its outcome. -/
def ReleaseEntry.isSettled : ReleaseEntry → Bool
  | .wait _ => false
  | .settled .. => true

/-- Complete a RELEASE ALL when every position has its outcome; else it stays in progress (R73). -/
def State.releaseAllCheck (s : State) (l : Line) (tag : Byte) (entries : Vector ReleaseEntry 4) : State :=
  if entries.toList.all ReleaseEntry.isSettled then
    s.finishLine l tag codeReleaseAll .ok (entries.toList.flatMap ReleaseEntry.bytes)
  else s.setProgress l (some (.releaseAll tag entries))

/-- The data of a RELEASE completion that reports a settlement (11.7). -/
def settlementData (p : Pos) (b : Binding) (used : Nat) : List Byte :=
  BitVec.ofNat 8 p.val :: be24 (min used b.reservation) ++ [boolByte (decide (b.reservation < used))]

/-- RELEASE by the state of its position (R71). -/
def takeRelease (l : Line) (tag : Byte) (q : Pos × Nat) (s : State) : State :=
  let t := (s.releaseAt l q.1 q.2).1
  match s.pos l q.1 with
  | .bound _ => t.setProgress l (some (.release tag q.1 q.2))
  | .clearing _ _ => t.setProgress l (some (.release tag q.1 q.2))
  | .ended b reason _ => t.finishLine l tag codeRelease reason.outcome (settlementData q.1 b q.2)
  | .free => t.finishLine l tag codeRelease .notBound []
  | .blocked => t.finishLine l tag codeRelease .notBound []
  | .loading _ _ => t.finishLine l tag codeRelease .notBound []

/-- RELEASE (R71). -/
def execRelease (l : Line) (s : State) : Host.Outcome State Fault Refusal :=
  .next (s.takeLine l codeRelease parseRelease (takeRelease l))

/-- Positions 0 to 3 in order, each as a release with its own used count (R73). -/
def takeReleaseAll (l : Line) (tag : Byte) (used : Vector Nat 4) (s : State) : State :=
  let r := four.foldl (fun (acc : State × Vector ReleaseEntry 4) p =>
    let x := acc.1.releaseAt l p used[p]
    (x.1, put acc.2 p x.2)) (s, Vector.replicate 4 (.wait 0))
  r.1.releaseAllCheck l tag r.2

/-- RELEASE_ALL (R73). -/
def execReleaseAll (l : Line) (s : State) : Host.Outcome State Fault Refusal :=
  .next (s.takeLine l codeReleaseAll parseReleaseAll (takeReleaseAll l))

/-! ## CLEAR BLOCKED (R74) -/

/-- Complete a CLEAR BLOCKED when none of its clears is awaited; else it stays in progress (R74). -/
def State.clearBlockedCheck (s : State) (l : Line) (tag : Byte) (waiting freed : Vector Bool 4) : State :=
  if waiting.toList.any id then s.setProgress l (some (.clearBlocked tag waiting freed))
  else s.finishLine l tag codeClearBlocked .ok [bitsByte freed.toList]

/-- One CLEAR for each BLOCKED position in position order (R74). -/
def takeClearBlocked (l : Line) (tag : Byte) (_ : Unit) (s : State) : State :=
  let waiting := mapTable (fun x => x == Position.blocked) s.positions[l]
  let t := (four.filter fun p => waiting[p]).foldl (fun u p => u.queueFrame l (.clear p)) s
  t.clearBlockedCheck l tag waiting (Vector.replicate 4 false)

/-- CLEAR_BLOCKED (R74). -/
def execClearBlocked (l : Line) (s : State) : Host.Outcome State Fault Refusal :=
  .next (s.takeLine l codeClearBlocked parseNone (takeClearBlocked l))

end Sys2Proof.Machine
end

