-- ==== Sys2Proof/Machine/Ceremony.lean ====
section
/-! DEFINITION. The ceremony commands (03, 02): OPEN, COMPONENT, COMMIT, ABANDON, the switches and the inactivity
timer. -/

namespace Sys2Proof.Machine

/-- Restart the inactivity timer of a COLLECTING ceremony (R51). -/
def State.restartInactivity (s : State) : State :=
  s.withCeremony fun c => { c with current := c.current.map fun o =>
    if o.programming then o else { o with timer := s.ceremonyTimeout * cyclesPerSecond } }

/-- Change the record of the open ceremony. -/
def State.withOpen (s : State) (f : OpenRecord → OpenRecord) : State :=
  s.withCeremony fun c => { c with current := c.current.map f }

/-! ## OPEN (R38, R39) -/

/-- Check 4 of R38: the bank is READY, not degraded and not lost. -/
def BankDir.available (b : BankDir) : Bool := b.condition == .ready && !b.degraded && !b.lost

/-- Open a ceremony on a slot, in one step (R39). -/
def State.openOn (s : State) (tag : Byte) (q : OpenRequest) (n : SlotNo) : State :=
  (s.withBank (bankOf n) fun b => { b with reserved := true }).withCeremony fun _ =>
    { current := some
        { programming := false, handle := q.handle, slot := n, domain := q.domain, cls := q.cls, len := q.len,
          odd := q.odd, count := q.count, next := .at 1, mismatches := 0,
          timer := s.ceremonyTimeout * cyclesPerSecond, tag := tag }
      buffer := zeros32
      undelivered := none }

/-- The checks of R38 in their order, then R39. -/
def takeOpen (tag : Byte) (q : OpenRequest) (s : State) : State :=
  if s.ceremony.current.isSome then s.restartInactivity.finishCust tag codeOpen .ceremonyState []
  else
    match s.resolve q.handle with
    | none => s.finishCust tag codeOpen .staleHandle []
    | some n =>
      if s.directory.slots[n].state ≠ .empty then s.finishCust tag codeOpen .slotOccupied []
      else if s.directory.banks[bankOf n].available = false then s.finishCust tag codeOpen .bankUnavailable []
      else (s.openOn tag q n).finishCust tag codeOpen .ok q.handle.bytes

/-- OPEN (R38). -/
def execOpen (s : State) : Host.Outcome State Fault Refusal :=
  .next (s.takeCust codeOpen gateService .both parseOpen takeOpen)

/-! ## COMPONENT (R40, R41, R24) -/

/-- Accept a component: combined into the buffer, next index advanced, mismatch count 0 (R24, R25, R41). -/
def State.acceptComponent (s : State) (o : OpenRecord) (q : ComponentRequest) : State :=
  (s.withOpen fun o' => { o' with
      next := if q.index = o.count then .complete else .at (q.index + 1), mismatches := 0 }).withCeremony fun c =>
    { c with buffer := combine o.len q.bytes c.buffer }

/-- The checks of R40 in their order, then R41. -/
def takeComponent (tag : Byte) (q : ComponentRequest) (s : State) : State :=
  match s.ceremony.current with
  | none => s.finishCust tag codeComponent .ceremonyState []
  | some o =>
    let t := s.restartInactivity
    if o.programming then s.finishCust tag codeComponent .ceremonyState []
    else if q.bytes.length ≠ o.len then t.finishCust tag codeComponent .badRequest []
    else if o.next ≠ .at q.index then t.finishCust tag codeComponent .componentOrder []
    else if checkWord q.bytes = q.word then
      (t.acceptComponent o q).finishCust tag codeComponent .ok
        [BitVec.ofNat 8 q.index, BitVec.ofNat 8 (o.count - q.index)]
    else if o.mismatches + 1 < 3 then
      (t.withOpen fun o' => { o' with mismatches := o.mismatches + 1 }).finishCust tag codeComponent .componentCheck
        [BitVec.ofNat 8 (o.mismatches + 1)]
    else t.endCeremony.finishCust tag codeComponent .abandoned [Cause.mismatches.byte]

/-- COMPONENT (R40). -/
def execComponent (s : State) : Host.Outcome State Fault Refusal :=
  .next (s.takeCust codeComponent gateService .both parseComponent takeComponent)

/-! ## COMMIT (R42, R43, R26 to R29) -/

/-- Steps 3 and 4 of R42: a date needs a set calendar, dates are valid and in order (R145). -/
def commitDates (set : Bool) (q : CommitRequest) : Option OutcomeCode :=
  let dates := q.activation.toList ++ q.expiry.toList
  if dates ≠ [] ∧ set = false then some .clockUnset
  else if dates.all validDate = false then some .badTime
  else
    match q.activation, q.expiry with
    | some a, some e => if dateBefore e a then some .badTime else none
    | _, _ => none

/-- The three bytes of an optional date (R4). -/
def optDateBytes : Option Date → List Byte
  | some d => dateBytes d
  | none => [0, 0, 0]

/-- The 22 header bytes of the record a COMMIT builds (R4, R29). -/
def commitHeader (o : OpenRecord) (q : CommitRequest) (time : Option Stamp) : Header :=
  let bytes := [o.domain, o.cls, BitVec.ofNat 8 o.len, boolByte o.odd, BitVec.ofNat 8 o.count] ++
    optDateBytes q.activation ++ optDateBytes q.expiry ++ be24 (q.allowance.getD 0) ++ cwBytes q.kcw ++
    stampBytes time
  Vector.ofFn fun i => bytes.getD i.val 0

/-- The record a COMMIT submits: header, masked value, RCW over the covered sequence (R29). -/
def commitRecord (o : OpenRecord) (q : CommitRequest) (time : Option Stamp) (key cover : Vector Byte 32) :
    SlotRecord :=
  let h := commitHeader o q time
  let v := maskValue o.len key cover
  { written := true, header := h, value := v, rcw := checkWord (coveredSequence h v), retire := .blank }

/-- The arithmetic of R43 on a ceremony that passed R42: parity, weak-key test, KCW, record and submission. -/
def State.commitKey (s : State) (tag : Byte) (o : OpenRecord) (q : CommitRequest) : State :=
  let key := adjust o.len o.odd s.ceremony.buffer
  let t := s.withCeremony fun c => { c with buffer := key }
  if weak (key.toList.take o.len) then t.restartInactivity.finishCust tag codeCommit .weakKey []
  else if checkWord (key.toList.take o.len) ≠ q.kcw then t.endCeremony.finishCust tag codeCommit .keyCheck []
  else
    let record := commitRecord o q s.stamp key s.retention.covers[bankOf o.slot].value
    { (t.withOpen fun o' => { o' with programming := true, timer := 0 }).withControl fun c =>
        { c with ceremonyWait := some { slot := o.slot, record := record } } with
      custProgress := some (.commit tag) }

/-- The checks of R42 in their order, then R43. -/
def takeCommit (tag : Byte) (q : CommitRequest) (s : State) : State :=
  match s.ceremony.current with
  | none => s.finishCust tag codeCommit .ceremonyState []
  | some o =>
    let refuse (oc : OutcomeCode) := s.restartInactivity.finishCust tag codeCommit oc []
    if o.programming then s.finishCust tag codeCommit .ceremonyState []
    else if o.next ≠ .complete then refuse .componentOrder
    else
      match commitDates s.retention.calendar.set q with
      | some oc => refuse oc
      | none => if s.control.fault then refuse .nvFault else s.commitKey tag o q

/-- COMMIT (R42). -/
def execCommit (s : State) : Host.Outcome State Fault Refusal :=
  .next (s.takeCust codeCommit gateService .both parseCommit takeCommit)

/-! ## ABANDON (R47) -/

/-- A COLLECTING ceremony is abandoned; an IDLE one gives CEREMONY_STATE and nothing changes (R47). -/
def takeAbandon (tag : Byte) (_ : Unit) (s : State) : State :=
  match s.ceremony.current with
  | none => s.finishCust tag codeAbandon .ceremonyState []
  | some o =>
    if o.programming then s.finishCust tag codeAbandon .ceremonyState []
    else s.endCeremony.finishCust tag codeAbandon .ok []

/-- ABANDON (R47). -/
def execAbandon (s : State) : Host.Outcome State Fault Refusal :=
  .next (s.takeCust codeAbandon gateService .neither parseNone takeAbandon)

/-! ## The switches (R33, R50) and the inactivity timer (R51) -/

/-- The debounced state of a switch. -/
def State.switchState (s : State) : Switch → Bool
  | .csa => s.custody.csa
  | .csb => s.custody.csb

/-- Set the debounced state of a switch. -/
def State.setSwitch (s : State) (w : Switch) (x : Bool) : State :=
  s.withCustody fun c => match w with
    | .csa => { c with csa := x }
    | .csb => { c with csb := x }

/-- SWITCH_DROP (R50): four samples read absent and a present switch becomes absent; a COLLECTING ceremony is abandoned
with cause SWITCH_DROP. -/
def execSwitchDrop (w : Switch) (s : State) (samples : Samples := .steady false) : Host.Outcome State Fault Refusal :=
  if s.sampling && s.switchState w && allAt samples (!s.activeHigh w) then
    .next ((s.setSwitch w false).abandonFor .switchDrop)
  else .next s

/-- SWITCH_PRESENT (R33): four samples read present and an absent switch becomes present. -/
def execSwitchPresent (w : Switch) (s : State) (samples : Samples := .steady true) : Host.Outcome State Fault Refusal :=
  if s.sampling && !s.switchState w && allAt samples (s.activeHigh w) then .next (s.setSwitch w true) else .next s

/-- The inactivity timer of a COLLECTING ceremony stands at 0 (R51). -/
def State.ceremonyDue (s : State) : Bool :=
  match s.ceremony.current with
  | some o => !o.programming && o.timer == 0
  | none => false

/-- CEREMONY_TIMEOUT (R51): the timer has reached 0 in COLLECTING; the ceremony is abandoned with cause TIMEOUT. -/
def execCeremonyTimeout (s : State) : Host.Outcome State Fault Refusal :=
  if s.ceremonyDue then .next (s.abandonFor .timeout) else .next s

end Sys2Proof.Machine
end

