-- ==== Sys2Proof/Machine/KeyBus.lean ====
section
/-! DEFINITION. The key bus commands (05): sending, replies, timeouts, the engine-ready line, and what each outcome
does to the binding table (R68, R72, R74, R77 to R80). -/

namespace Sys2Proof.Machine

/-! ## Sending (R86, R87) -/

/-- The bytes of the frame a SENDING transmitter puts on its bus, check word included (R86, 11.7). The frame carries
the number before the transmitter's own (R86). -/
def Transmitter.frameBytes (t : Transmitter) (k : FrameKind) : List Byte :=
  let number := t.frameNumber - 1
  let body := match k with
    | .load p cls len kcw =>
      [0x01, number, BitVec.ofNat 8 p.val, cls, BitVec.ofNat 8 len] ++ t.buffer.toList.take len ++ cwBytes kcw
    | .clear p => [0x02, number, BitVec.ofNat 8 p.val]
    | .clearAll => [0x03, number]
  body ++ cwBytes (checkWord body)

/-- FRAME_SEND_START (R87): an IDLE transmitter with a ready engine begins sending the head of its queue; the frame
takes its number and the transmitter's advances (R86). -/
def execFrameSendStart (e : Line) (s : State) : Host.Outcome State Fault Refusal :=
  let t := s.buses[e]
  if t.state == .idle && t.ready && !t.queue.isEmpty then
    .next (s.withBus e fun t => { t with state := .sending, frameNumber := t.frameNumber + 1 })
  else .next s

/-- Whether a frame is a LOAD. -/
def FrameKind.isLoad : FrameKind → Bool
  | .load .. => true
  | .clear _ => false
  | .clearAll => false

/-- FRAME_SENT (R87): SENDING becomes AWAITING with the reply timer running; a LOAD's key leaves the buffer, at the end of
the frame (DEDUCED, log 49). -/
def execFrameSent (e : Line) (s : State) : Host.Outcome State Fault Refusal :=
  if s.buses[e].state == .sending then
    .next (s.withBus e fun t => { t with
      state := .awaiting
      replyTimer := true
      lastEnd := .whole
      buffer := if t.queue.head?.any (·.kind.isLoad) then zeros32 else t.buffer })
  else .next s

/-! ## Replies (R88) -/

/-- The outstanding frame of an AWAITING transmitter. -/
def Transmitter.outstanding (t : Transmitter) : Option Frame :=
  if t.state = .awaiting then t.queue.head? else none

/-- The frame a reply answers, and how (R88); none where it is disregarded. -/
def Transmitter.answered (t : Transmitter) (reply : List Byte) : Option (Frame × ReplyKind) :=
  match t.outstanding, parseReply reply with
  | some f, some (kind, number, rest) =>
    if number = t.frameNumber - 1 then (answerOf f.kind kind rest).map fun a => (f, a) else none
  | _, _ => none

/-- The outstanding frame leaves the queue with its outcome: IDLE, timer stopped (R88, R89, R90). -/
def State.popFrame (s : State) (e : Line) : State :=
  s.withBus e fun t => { t with queue := t.queue.tail, state := .idle, replyTimer := false }

/-- Withdraw the recall CLEAR of a position from the queue (R92). -/
def State.withdrawClear (s : State) (e : Line) (p : Pos) : State :=
  s.withBus e fun t => { t with queue := t.queue.filter fun f => f.kind != .clear p }

/-! ## Outcomes of a LOAD (R68, R77) -/

/-- The BIND waiting for the LOAD of a position: its tag, requested count and grant. -/
def State.loadingBind (s : State) (e : Line) (p : Pos) : Option (Byte × Nat × Nat) :=
  match s.lineProgress[e] with
  | some (.bindLoading tag q asked grant) => if q = p then some (tag, asked, grant) else none
  | _ => none

/-- Complete the BIND waiting for a LOAD with an outcome and data. -/
def State.finishBind (s : State) (e : Line) (p : Pos) (oc : OutcomeCode) (data : List Byte) : State :=
  match s.loadingBind e p with
  | some (tag, _, _) => s.finishLine e tag codeBind oc data
  | none => s

/-- ACCEPT: BOUND, or CLEARING (RECALL) when a recall is pending; the BIND completes OK, or PARTIAL (R68, R77). -/
def State.loadAccepted (s : State) (e : Line) (p : Pos) : State :=
  match s.pos e p with
  | .loading b recallPending =>
    let t := s.setPos e p (if recallPending then .clearing b .recall else .bound b)
    match s.loadingBind e p with
    | some (_, asked, grant) =>
      t.finishBind e p (if grant < asked then .partialGrant else .ok)
        (b.handle.bytes ++ [BitVec.ofNat 8 p.val] ++ be16 grant ++ be24 b.reservation)
    | none => t
  | _ => s

/-- REFUSE: FREE, reservation returned, the recall CLEAR withdrawn, ENGINE_REFUSED with the reason (R68, R91, R92). -/
def State.loadRefused (s : State) (e : Line) (p : Pos) (reason : Byte) : State :=
  match s.pos e p with
  | .loading b _ =>
    (((s.setPos e p .free).giveBack b.slot b.reservation).withdrawClear e p).finishBind e p .engineRefused [reason]
  | _ => s

/-- Reply timeout of a LOAD: BLOCKED, reservation charged, the recall CLEAR withdrawn, ENGINE_SILENT (R68, R92). -/
def State.loadSilent (s : State) (e : Line) (p : Pos) : State :=
  match s.pos e p with
  | .loading b _ =>
    (((s.setPos e p .blocked).charge b.slot b.reservation).withdrawClear e p).finishBind e p .engineSilent []
  | _ => s

/-! ## Releases in progress (R71 to R73) -/

/-- The used count of the release that waits on a position, if one does. -/
def State.waitingUsed (s : State) (e : Line) (p : Pos) : Option Nat :=
  match s.lineProgress[e] with
  | some (.release _ q used) => if q = p then some used else none
  | some (.releaseAll _ entries) =>
    match entries[p] with
    | .wait used => some used
    | .settled .. => none
  | _ => none

/-- The release that waits on a position has its outcome: a RELEASE completes, a RELEASE ALL takes the entry and
completes when it was the last (R72, R73). -/
def State.finishRelease (s : State) (e : Line) (p : Pos) (b : Binding) (used : Nat) (oc : OutcomeCode) : State :=
  match s.lineProgress[e] with
  | some (.release tag _ _) => s.finishLine e tag codeRelease oc (settlementData p b used)
  | some (.releaseAll tag entries) =>
    s.releaseAllCheck e tag
      (put entries p (.settled oc.byte (min used b.reservation) (decide (b.reservation < used))))
  | _ => s

/-- Settle a position with the used count of its release, give it its new state and report the outcome (R60, R72). -/
def State.settleRelease (s : State) (e : Line) (p : Pos) (b : Binding) (used : Nat) (x : Position)
    (oc : OutcomeCode) : State :=
  ((s.settle b used).setPos e p x).finishRelease e p b used oc

/-- A position becomes ENDED; a release that waits on it proceeds as for an ENDED position (R71, R77, R78). -/
def State.endPosition (s : State) (e : Line) (p : Pos) (b : Binding) (reason : EndReason) (unclean : Bool) : State :=
  match s.waitingUsed e p with
  | some used => s.settleRelease e p b used (if unclean then .blocked else .free) reason.outcome
  | none => s.setPos e p (.ended b reason unclean)

/-! ## Outcomes of a CLEAR and a CLEAR-ALL (R72, R74, R77, R79) -/

/-- A CLEAR of a CLEAR BLOCKED has its outcome (R74). -/
def State.clearBlockedOutcome (s : State) (e : Line) (p : Pos) (isFreed : Bool) : State :=
  match s.lineProgress[e] with
  | some (.clearBlocked tag waiting freed) =>
    s.clearBlockedCheck e tag (put waiting p false) (put freed p (freed[p] || isFreed))
  | _ => s

/-- The outcome of a CLEAR: DONE, or a reply timeout when silent (R72, R74, R77). -/
def State.clearOutcome (s : State) (e : Line) (p : Pos) (silent : Bool) : State :=
  match s.pos e p with
  | .clearing b .release =>
    s.settleRelease e p b ((s.waitingUsed e p).getD 0) (if silent then .blocked else .free)
      (if silent then .engineSilent else .ok)
  | .clearing b .recall => s.endPosition e p b .recalled silent
  | .blocked => if silent then s.clearBlockedOutcome e p false else (s.setPos e p .free).clearBlockedOutcome e p true
  | _ => s

/-- The outcome of a CLEAR-ALL on one position: BLOCKED positions become FREE on DONE, FREE ones BLOCKED on a
timeout (R79). -/
def clearAllPosition (silent : Bool) (x : Position) : Position :=
  match x with
  | .blocked => if silent then .blocked else .free
  | .free => if silent then .blocked else .free
  | .loading b r => .loading b r
  | .bound b => .bound b
  | .clearing b k => .clearing b k
  | .ended b r u => .ended b r u

/-- A start-up CLEAR-ALL in flight on a transmitter is over (R96). -/
def State.offerOver (s : State) (e : Line) : State :=
  s.withCustody fun c => { c with
    offers := if c.offers[e] = .inFlight then put c.offers e .done else c.offers }

/-- The outcome of a CLEAR-ALL (R79, R96). -/
def State.clearAllOutcome (s : State) (e : Line) (silent : Bool) : State :=
  ({ s with positions := put s.positions e (mapTable (clearAllPosition silent) s.positions[e]) } : State).offerOver e

/-- Deliver a reply timeout of a frame (R89, R90); a frame queued before a zeroization changes nothing (R80). -/
def State.deliverSilence (s : State) (e : Line) (f : Frame) : State :=
  if f.stale then s
  else
    match f.kind with
    | .load p _ _ _ => s.loadSilent e p
    | .clear p => s.clearOutcome e p true
    | .clearAll => s.clearAllOutcome e true

/-- Deliver a DONE (R90). -/
def State.deliverDone (s : State) (e : Line) (f : Frame) : State :=
  if f.stale then s
  else
    match f.kind with
    | .clear p => s.clearOutcome e p false
    | .clearAll => s.clearAllOutcome e false
    | .load .. => s

/-! ## The commands -/

/-- ACCEPT (R68, R88). -/
def execAccept (e : Line) (reply : List Byte) (s : State) : Host.Outcome State Fault Refusal :=
  match s.buses[e].answered reply with
  | some (f, .accept) =>
    match f.kind with
    | .load p _ _ _ => .next (if f.stale then s.popFrame e else (s.popFrame e).loadAccepted e p)
    | _ => .next s
  | _ => .next s

/-- REFUSE (R68, R88, R91). -/
def execRefuse (e : Line) (reply : List Byte) (s : State) : Host.Outcome State Fault Refusal :=
  match s.buses[e].answered reply with
  | some (f, .refuse reason) =>
    match f.kind with
    | .load p _ _ _ => .next (if f.stale then s.popFrame e else (s.popFrame e).loadRefused e p reason)
    | _ => .next s
  | _ => .next s

/-- DONE (R88, R90). -/
def execDone (e : Line) (reply : List Byte) (s : State) : Host.Outcome State Fault Refusal :=
  match s.buses[e].answered reply with
  | some (f, .done) => .next ((s.popFrame e).deliverDone e f)
  | _ => .next s

/-- REPLY_TIMEOUT (R89): the timer expires while AWAITING. -/
def execReplyTimeout (e : Line) (s : State) : Host.Outcome State Fault Refusal :=
  match s.buses[e].outstanding with
  | some f => .next ((s.popFrame e).deliverSilence e f)
  | none => .next s

/-- DISREGARDED_REPLY (R88): it gives no outcome and changes no state. -/
def execDisregardedReply (_e : Line) (_reply : List Byte) (s : State) : Host.Outcome State Fault Refusal := .next s

/-! ## The engine-ready line (R78, R93 to R95) -/

/-- A transmitter at a fall (R94). -/
def Transmitter.fall (t : Transmitter) : Transmitter :=
  { t with
    queue := []
    state := .idle
    buffer := zeros32
    replyTimer := false
    ready := false
    lastEnd := if t.state = .sending then .sendAbort else t.lastEnd }

/-- The BIND of a LOADING position at a fall: a waiting read is withdrawn and the BIND completes at once, as it does
when its LOAD is queued; an executing read is left to end (R69). -/
def State.bindLosesEngine (s : State) (e : Line) : State :=
  match s.lineProgress[e] with
  | some (.bindReading tag _ _ _) =>
    if s.control.lineWait[e].isSome then
      (s.withControl fun c => { c with lineWait := put c.lineWait e none }).finishLine e tag codeBind .engineAbsent []
    else s.setProgress e (some (.bindLost tag))
  | some (.bindLoading tag _ _ _) => s.finishLine e tag codeBind .engineAbsent []
  | _ => s

/-- A fall's action on one position (R78). -/
def State.fallAt (e : Line) (s : State) (p : Pos) : State :=
  match s.pos e p with
  | .free => s
  | .loading b _ => ((s.setPos e p .free).giveBack b.slot b.reservation).bindLosesEngine e
  | .bound b => s.setPos e p (.ended b .engineLost false)
  | .clearing b _ => s.endPosition e p b .engineLost false
  | .ended b reason _ => s.setPos e p (.ended b reason false)
  | .blocked => s.setPos e p .free

/-- A CLEAR BLOCKED in progress at a fall completes at once, listing every BLOCKED position as freed (R74). -/
def State.fallClearBlocked (s : State) (e : Line) (wasBlocked : Vector Bool 4) : State :=
  match s.lineProgress[e] with
  | some (.clearBlocked tag _ freed) =>
    s.finishLine e tag codeClearBlocked .ok [bitsByte (four.map fun p => freed[p] || wasBlocked[p])]
  | _ => s

/-- ENGINE_READY_FALL (R93, R94, R78): four samples read not ready; the transmitter and the engine's positions in one
step. -/
def execEngineReadyFall (e : Line) (s : State) (samples : Samples := .steady false) :
    Host.Outcome State Fault Refusal :=
  if s.sampling && s.buses[e].ready && allAt samples false then
    let wasBlocked := mapTable (fun x => x == Position.blocked) s.positions[e]
    let t := four.foldl (State.fallAt e) (s.withBus e Transmitter.fall)
    .next ((((t.fallClearBlocked e wasBlocked).offerOver e)).withControl ArrayControl.resumeCheck)
  else .next s

/-- ENGINE_READY_RISE (R93, R95): four samples read ready, a high one being ready; no position changes and no frame is
queued. -/
def execEngineReadyRise (e : Line) (s : State) (samples : Samples := .steady true) : Host.Outcome State Fault Refusal :=
  if s.sampling && !s.buses[e].ready && allAt samples true then .next (s.withBus e fun t => { t with ready := true })
  else .next s

end Sys2Proof.Machine
end

