-- ==== Sys2Proof/Machine/Windows.lean ====
section
/-! DEFINITION. What the windows show (R21, R82, R121, R148, R184, R186, R189 to R192, 11.7), the attention lines (R83,
R193), and what a read clocks out. -/

namespace Sys2Proof.Machine

/-! ## Addresses and windows (R171, R178, R184, R185, R186) -/

/-- The factory address (R178, R184). -/
def factoryAddress : Nat := 0x3C

/-- The address a port answers in the present mode, none where it does not answer (R171, R178, R184). A part HALTED
with no verified record answers at the factory address (log 22). -/
def State.answers (s : State) : Port → Option Nat
  | .line _ => if s.lineServed then some (s.param 0 0) else none
  | .cust =>
    match s.custody.present with
    | .service | .zeroizing | .recovery => some (s.param 1 factoryAddress)
    | .uncommissioned => some factoryAddress
    | .halted => some (s.param 1 factoryAddress)
    | .starting | .backup => none

/-- Whether a transaction with this address byte is acknowledged (R185). -/
def State.acknowledges (s : State) (p : Port) (addr : Address) : Bool := s.answers p == some addr.toNat

/-- The window of a code on a port (R186). -/
def windowOf (p : Port) (code : Byte) : Option Window :=
  if code = 0x01 then some .request
  else if code = 0x02 then some .completion
  else if code = 0x03 then some .portStatus
  else if code = 0x04 then some .directory
  else if code = 0x05 then some .identity
  else if code = 0x06 then (if p = .cust then some .custodyStatus else none)
  else none

/-- Whether the port acknowledges the REQUEST code: a free place at that moment, and not in HALTED (R186, R187). -/
def State.requestOpen (s : State) (p : Port) : Bool :=
  decide ((s.link p).requests.length < capacity p) && s.custody.present != .halted

/-! ## Attention lines (R83, R193) -/

/-- A port's attention line: a completion waits, or a position of the engine is ENDED, or an undelivered cause is
kept; released in STARTING, HALTED and BACKUP (R83, R49, R193). -/
def State.attention (s : State) : Port → Bool
  | .line l => s.lineServed && (!s.lineLinks[l].completions.isEmpty || s.positions[l].toList.any Position.isEnded)
  | .cust => s.custServed && (!s.custLink.completions.isEmpty || s.ceremony.undelivered.isSome)

/-! ## Directory records (R21, R190, R191) -/

/-- The state byte of a directory record (11.7). -/
def SlotState.byte : SlotState → Byte
  | .empty => 0 | .active => 1 | .retired => 2 | .damaged => 3 | .lost => 4

/-- The condition bits (11.7). -/
def BankCondition.code : BankCondition → Nat
  | .ready => 0 | .erasing => 1 | .eraseIncomplete => 2

/-- A header byte shown in a field of a record, where the byte has a shown form; free otherwise (log 23). -/
def shown (field : Nat) (byte : Byte) (code : Option Nat) (bound : Nat) : Nat :=
  match code with
  | some c => c
  | none => Config.shownCode field byte.toNat % bound

/-- Byte 4: domain in bits 0 to 3, class in bits 4 to 7. -/
def keyByte (h : Header) : Byte :=
  let nibble (i : Nat) (b : Byte) := shown i b (if b.toNat < 16 then some b.toNat else none) 16
  BitVec.ofNat 8 (nibble 0 (hDomain h) + 16 * nibble 1 (hClass h))

/-- The length code in bits 0 and 1 of byte 5; 0 for a cleared header copy (R21). A length byte of 00 in a header copy that is
not cleared shows 0 as well (DESIGN CHOICE, log 23). -/
def lengthCode (h : Header) : Nat :=
  shown 2 h[2] (match hLength h with
    | 0 => some 0
    | 16 => some 1
    | 24 => some 2
    | 32 => some 3
    | _ => none) 4

/-- Byte 5: length, parity, component count, bank condition, degraded, lost (R21). A component count byte of 00 shows the bit
of two components, in a header copy that is not cleared as in a cleared one (DESIGN CHOICE, log 23). -/
def shapeByte (h : Header) (b : BankDir) : Byte :=
  let parity := shown 3 (hParity h) (if (hParity h).toNat < 2 then some (hParity h).toNat else none) 2
  let three := shown 4 (hCount h)
    (if hCount h = 3 then some 1 else if hCount h = 2 ∨ hCount h = 0 then some 0 else none) 2
  BitVec.ofNat 8 (lengthCode h + 4 * parity + 8 * three + 16 * b.condition.code + 64 * b.degraded.toNat +
    128 * b.lost.toNat)

/-- The flags byte: retire-pending, held, metered, dated, not yet active, expired (R21). -/
def State.slotFlags (s : State) (n : SlotNo) : Byte :=
  let d := s.directory.slots[n]
  bitsByte [d.retirePending, s.retention.slots[n].hold, s.metered n, hDated d.header, d.shownNotYet, d.shownExpired]

/-- Whether a slot is visible on a port: in full on the custodian port, on a line port when its domain is the
port's (R191). -/
def State.visible (s : State) (p : Port) (n : SlotNo) : Bool :=
  match p with
  | .cust => true
  | .line l => s.allocations[l].domain != 0 && hDomain s.directory.slots[n].header == s.allocations[l].domain

/-- The 24 bytes of a slot's record in either form (R190, R191, 11.7). -/
def State.directoryRecord (s : State) (p : Port) (timeForm : Bool) (n : SlotNo) : List Byte :=
  let d := s.directory.slots[n]
  let b := s.directory.banks[bankOf n]
  let r := s.retention.slots[n]
  let number := BitVec.ofNat 8 n.val
  if s.visible p n = false then [number, 0, 0xFE] ++ List.replicate 21 0
  else
    [number, b.epoch, d.state.byte] ++
    (if d.state = .empty then List.replicate 21 0
     else if timeForm then 0 :: slice d.header 16 6 ++ List.replicate 14 0
     else [s.slotFlags n, keyByte d.header, shapeByte d.header b] ++ slice d.header 5 11 ++
       be24 r.remaining ++ be24 r.issued ++ [BitVec.ofNat 8 (s.liveCount n)])

/-- The record the directory window sends for a pointer; 0xFF past slot 127 (R190). -/
def State.pointedRecord (s : State) (p : Port) (timeForm : Bool) (pointer : Nat) : List Byte :=
  if h : pointer < 128 then s.directoryRecord p timeForm ⟨pointer, h⟩ else List.replicate 24 0xFF

/-! ## Port status (R82, R148, R192) -/

/-- The calendar's seven bytes in a status window: date, time of day, set and counting bits. -/
def State.calendarBytes (s : State) : List Byte :=
  let c := s.retention.calendar
  dateBytes c.date ++ timeBytes c.time ++ [bitsByte [c.set, c.counting]]

/-- The state byte of a position (11.7). -/
def Position.byte : Position → Byte
  | .free => 0 | .loading .. => 1 | .bound _ => 2 | .clearing .. => 3 | .ended .. => 4 | .blocked => 5

/-- The mark bits of a position (11.7). -/
def Position.marks : Position → Byte
  | .loading _ recallPending => bitsByte [recallPending]
  | .clearing _ kind => bitsByte [false, kind == .recall]
  | .ended _ reason unclean => bitsByte [false, false, reason == .engineLost, unclean]
  | .free => 0
  | .bound _ => 0
  | .blocked => 0

/-- The nine bytes of a position (11.7); a FREE or BLOCKED position shows 00 after its state. -/
def Position.bytes (x : Position) : List Byte :=
  match x.binding with
  | none => x.byte :: List.replicate 8 0
  | some b => [x.byte, x.marks] ++ b.handle.bytes ++ [BitVec.ofNat 8 b.slot.val] ++ be24 b.reservation

/-- The PORT STATUS record: 47 bytes on a line port, 11 on the custodian port (11.7). -/
def State.portStatus (s : State) : Port → List Byte
  | .line l =>
    [BitVec.ofNat 8 l.val, s.allocations[l].domain, s.allocations[l].mask,
      bitsByte [s.buses[l].ready, s.lineProgress[l].isSome]] ++ s.calendarBytes ++
      s.positions[l].toList.flatMap Position.bytes
  | .cust =>
    [0x04, bitsByte [s.custody.csa, s.custody.csb]] ++ s.calendarBytes ++
      [BitVec.ofNat 8 s.custLink.requests.length, BitVec.ofNat 8 s.custLink.completions.length]

/-! ## Identity (R178, R192) -/

/-- The record state byte: 0 blank, 1 verified, 2 failed check. -/
def RecordState.byte : RecordState → Byte
  | .notLoaded => 0 | .blank => 0 | .verified => 1 | .failed => 2

/-- The IDENTITY record, 15 bytes (11.7). -/
def State.identityRecord (s : State) (p : Port) : List Byte :=
  ([0x24, 0x60, s.fuses[29]] : List Byte) ++ slice s.fuses 19 7 ++ [s.fuses[26], s.fuses[27], s.fuses[28],
    s.custody.record.byte, (match p with
      | .line l => BitVec.ofNat 8 l.val
      | .cust => 4)]

/-! ## Custody status (R37, R121, R131, R152, R153, R159, R160, R162, R171, R181, R192) -/

/-- Present mode byte (11.7); BACKUP has none, since no port answers there. -/
def Mode.byte : Mode → Byte
  | .uncommissioned => 1 | .starting => 2 | .halted => 3 | .service => 4 | .zeroizing => 5 | .recovery => 6
  | .backup => 0

/-- Resume mode byte (11.7). -/
def ResumeMode.byte : ResumeMode → Byte
  | .service => 4 | .zeroizing => 5 | .recovery => 6

/-- Cause or source byte (11.7). -/
def sourceByte : Option Source → Byte
  | none => 0 | some .command => 1 | some .door => 2 | some .mesh => 3 | some .supplyHigh => 4 | some .clock => 5
  | some .retentionLoss => 6

/-- Place byte (11.7). -/
def placeByte : Option Place → Byte
  | none => 0 | some .running => 1 | some .unpowered => 2

/-- Event outcome byte (11.7). -/
def eventOutcomeByte : Option EventOutcome → Byte
  | none => 0 | some .zeroized => 1 | some .alarmed => 2 | some .recorded => 3

/-- The eleven bytes of a test record (11.7). -/
def TestRecord.bytes (t : TestRecord) : List Byte :=
  ([(match t.last with
    | none => 0
    | some .pass => 1
    | some .fail => 2
    | some .skipped => 3)] : List Byte) ++ be16 t.mismatches ++
  [BitVec.ofNat 8 t.fails, (match t.firstFail with
    | none => 0xFF
    | some i => BitVec.ofNat 8 i)] ++ stampBytes t.time

/-- A bank's byte: condition, degraded, lost, target reservation (11.7). -/
def BankDir.byte (b : BankDir) : Byte :=
  BitVec.ofNat 8 (b.condition.code + 4 * b.degraded.toNat + 8 * b.lost.toNat + 16 * b.reserved.toNat)

/-- The executing operation and its slot number or bank (R121, 11.7). -/
def execBytes : Option ExecOp → List Byte
  | none => [0, 0]
  | some (.readSlot _ n) => [1, BitVec.ofNat 8 n.val]
  | some (.readReference b) => [2, BitVec.ofNat 8 b.val]
  | some (.programRecord r) => [3, BitVec.ofNat 8 r.slot.val]
  | some (.programMark n) => [4, BitVec.ofNat 8 n.val]
  | some (.erase b _) => [5, BitVec.ofNat 8 b.val]

/-- Whole seconds of a timer held in retention-clock cycles, rounded down (DESIGN CHOICE, log 41). -/
def seconds (cycles : Nat) : Nat := cycles / cyclesPerSecond

/-- Bytes 96 to 99, the Array Controller (R121). While an erase is being suspended they show it executing and no bank
suspended (DESIGN CHOICE, log 45). -/
def State.controlBytes (s : State) : List Byte :=
  [boolByte s.control.fault] ++ execBytes s.control.exec ++ [(match s.control.suspended with
    | none => 0xFF
    | some b => BitVec.ofNat 8 b.val)]

/-- Bytes 100 to 113, the ceremony record; the assembly buffer is never shown (R37). In PROGRAMMING, with the timer stopped,
the inactivity seconds show 0 (DESIGN CHOICE, log 48). -/
def Ceremony.statusBytes (c : Ceremony) : List Byte :=
  match c.current with
  | none => List.replicate 14 0
  | some o =>
    ([if o.programming then 2 else 1] : List Byte) ++ o.handle.bytes ++ [BitVec.ofNat 8 o.slot.val, o.domain, o.cls,
      BitVec.ofNat 8 o.len, boolByte o.odd, BitVec.ofNat 8 o.count, (match o.next with
        | .at i => BitVec.ofNat 8 i
        | .complete => 0x0F), BitVec.ofNat 8 o.mismatches] ++
      be16 (if o.programming then 0 else seconds o.timer)

/-- The CUSTODY STATUS record, 115 bytes (11.7). In HALTED and UNCOMMISSIONED the fields of the ceremony, the Array
Controller, the bank states, the clock monitor and the test records read 00 (R192, log 24); the supply-high bit of byte
6 goes on showing the last judgement there (DESIGN CHOICE, log 47). Bytes 8 and 9 show 0 while the window is closed, also
when CLOSE closed it with time left (DESIGN CHOICE, log 51). -/
def State.custodyStatus (s : State) : List Byte :=
  let r := s.retention
  let m := s.monitor
  let t := r.tamper
  let dark := s.custody.present == .halted || s.custody.present == .uncommissioned
  let live (bytes : List Byte) : List Byte := if dark then List.replicate bytes.length 0 else bytes
  [s.custody.present.byte, s.resumeMode.byte, r.resetFlags, r.pendingMarks, r.alarmFlags, r.alarmMask,
    bitsByte [s.custody.csa, s.custody.csb, s.doorOpen, s.meshBroken, m.supplyHigh, r.batteryLow,
      s.enclosure.isSome],
    boolByte m.windowTimer.isSome] ++ be16 (seconds (m.windowTimer.getD 0)) ++ s.calendarBytes ++
  live (be16 r.baseline ++ [BitVec.ofNat 8 m.failCount]) ++
  [BitVec.ofNat 8 t.zCount, sourceByte t.zCause] ++ stampBytes t.zTime ++ [placeByte t.zPlace,
    BitVec.ofNat 8 t.eCount, sourceByte t.eSource, eventOutcomeByte t.eOutcome] ++ stampBytes t.eTime ++
  [bitsByte r.owed.toList, BitVec.ofNat 8 r.nextTest.val] ++
  live (r.tests.toList.flatMap TestRecord.bytes) ++
  live (s.directory.banks.toList.map BankDir.byte) ++
  live (s.array.headers.toList.flatMap fun h => be16 h.eraseCount) ++
  live s.controlBytes ++
  live (s.ceremony.statusBytes ++ [(match s.ceremony.undelivered with
    | none => 0
    | some c => c.byte)])

/-! ## The bytes of a read (R186, R189, R190, R192) -/

/-- The first n bytes of a record, 0xFF past its end (R186). -/
def clocked (record : List Byte) (n : Nat) : List Byte := record.take n ++ List.replicate (n - record.length) 0xFF

/-- What a read sends, judged at its first byte: fill where no window or the REQUEST window is selected or no directory
exists, 0x00 where no completion waits, else the selected window's record as it then stands (R186, R189, R190, R192). -/
def State.source (s : State) (p : Port) : Transfer :=
  match (s.link p).window with
  | none => .fill
  | some .request => .fill
  | some .completion =>
    match (s.link p).completions with
    | [] => .record [0x00]
    | c :: _ => .completion c.bytes
  | some .portStatus => .record (s.portStatus p)
  | some .directory => if s.directory.inUse then .directory [] else .fill
  | some .identity => .record (s.identityRecord p)
  | some .custodyStatus => .record s.custodyStatus

/-- Clock n bytes of a COMPLETION read of which these are left; with the last of them the completion is removed, and
fill follows (R189). -/
def State.clockCompletion (s : State) (p : Port) (left : List Byte) (n : Nat) : State :=
  s.withLink p fun l => { l with
    sent := l.sent ++ clocked left n
    transfer := if left.length ≤ n then .fill else .completion (left.drop n)
    completions := if left.length ≤ n then l.completions.tail else l.completions }

/-- Clock n bytes of a DIRECTORY read of whose present record these are left, none before its first byte. Each further
record is built from the state in which its first byte is clocked, and the pointer advances as a record's last byte is
(R190). -/
def State.clockDirectory (s : State) (p : Port) (left : List Byte) (n : Nat) : State :=
  let l := s.link p
  if n < left.length then
    s.withLink p fun l => { l with sent := l.sent ++ left.take n, transfer := .directory (left.drop n) }
  else
    let more := n - left.length
    let first := if left = [] then l.pointer else min 128 (l.pointer + 1)
    let records := (List.range (more / 24 + 1)).flatMap fun k => s.pointedRecord p l.timeForm (first + k)
    s.withLink p fun l => { l with
      sent := l.sent ++ left ++ records.take more
      pointer := min 128 (first + more / 24)
      transfer := .directory (if more % 24 = 0 then [] else records.drop more) }

/-- Clock n bytes of the read in progress. -/
def State.clock (s : State) (p : Port) (n : Nat) : State :=
  match (s.link p).transfer with
  | .fill => s.withLink p fun l => { l with sent := l.sent ++ List.replicate n 0xFF }
  | .record left => s.withLink p fun l => { l with sent := l.sent ++ clocked left n, transfer := .record (left.drop n) }
  | .completion left => s.clockCompletion p left n
  | .directory left => s.clockDirectory p left n
  | .idle | .addressed | .message | .pointer | .refusing | .opened => s

/-- The master clocks n bytes of a read transaction: at the first its source is judged (R186). No byte is no read. -/
def State.readBytes (s : State) (p : Port) (n : Nat) : State :=
  if n = 0 then s
  else
    ((if (s.link p).transfer = .opened then s.withLink p fun l => { l with transfer := s.source p } else s) : State).clock
      p n

end Sys2Proof.Machine
end

