-- ==== Sys2Proof/Machine/Links.lean ====
section
/-! DEFINITION. The commands of the port links (11): transactions byte by byte, window writes and reads, admission, and
the taking of a message that names no request. -/

namespace Sys2Proof.Machine

/-! ## The beginning and the end of a transaction (R185, R187) -/

/-- Admit the assembled message into the tail of the request queue; a write of the code alone admits nothing (R187). -/
def Link.enqueue (l : Link) : Link :=
  { l with
    requests := if l.assembly = [] then l.requests
      else l.requests ++ [{ bytes := l.assembly, overlong := l.overlong }]
    assembly := []
    overlong := false }

/-- A stop or a repeated start ends the transaction in progress; a message being assembled is admitted (R185, R187). -/
def Link.ended (l : Link) : Link :=
  match l.transfer with
  | .message => { l.enqueue with transfer := .idle }
  | _ => { l with transfer := .idle }

/-- A start or repeated start with an address byte: the transaction in progress ends, and where the address byte is
acknowledged the next one begins as given (R185). -/
def State.address (s : State) (p : Port) (addr : Address) (x : Transfer) : State :=
  let ack := s.acknowledges p addr
  s.withLink p fun l => { l.ended with
    transfer := if ack then x else .idle
    acks := l.acks ++ [ack]
    sent := if ack && x == .opened then [] else l.sent }

/-- The start of a transaction whose acknowledgements are then kept (log 20). -/
def State.start (s : State) (p : Port) (addr : Address) (x : Transfer) : State :=
  (s.withLink p fun l => { l with acks := [] }).address p addr x

/-- The stop of a transaction, where a command carries it. -/
def State.stop (s : State) (p : Port) (part : Part) : State := if part.closes then s.withLink p Link.ended else s

/-! ## Written bytes (R185 to R187, R190) -/

/-- A data byte is refused, and so is every byte after it: by R186 and R190 behind an acknowledged code that takes no more
bytes; behind a code that was not acknowledged by the model's choice (DESIGN CHOICE, log 50). -/
def Link.refuse (l : Link) : Link := { l with transfer := .refusing, acks := l.acks ++ [false] }

/-- A window code is acknowledged and becomes the selected window; the bytes after it go where the window has them
(R186). -/
def Link.choose (l : Link) (w : Window) (x : Transfer) : Link :=
  { l with window := some w, transfer := x, acks := l.acks ++ [true] }

/-- The first data byte of a write, its window code (R186); an acknowledged 0x01 starts a fresh message (R187). A code that
is not acknowledged leaves the window as it was, and the bytes behind it are refused (log 50). -/
def State.writeCode (s : State) (p : Port) (code : Byte) : State :=
  match windowOf p code with
  | none => s.withLink p Link.refuse
  | some .request =>
    if s.requestOpen p then s.withLink p fun l => { l.choose .request .message with assembly := [], overlong := false }
    else s.withLink p Link.refuse
  | some .directory => s.withLink p fun l => l.choose .directory .pointer
  | some w => s.withLink p fun l => l.choose w .refusing

/-- A message byte is acknowledged and stored; one beyond the 64th is discarded and leaves the message overlong
(R187). -/
def Link.store (l : Link) (b : Byte) : Link :=
  if l.assembly.length < 64 then { l with assembly := l.assembly ++ [b], acks := l.acks ++ [true] }
  else { l with overlong := true, acks := l.acks ++ [true] }

/-- The pointer byte: 0x00 to 0x7F names a slot in entry form, 0x80 to 0xFF in time form; bytes after it are refused
(R190). -/
def Link.point (l : Link) (b : Byte) : Link :=
  { l with pointer := b.toNat % 128, timeForm := decide (128 ≤ b.toNat), transfer := .refusing, acks := l.acks ++ [true] }

/-- One data byte of a write transaction. Where no write is in progress it does not reach the port. -/
def State.writeByte (p : Port) (s : State) (b : Byte) : State :=
  match (s.link p).transfer with
  | .addressed => s.writeCode p b
  | .message => s.withLink p fun l => l.store b
  | .pointer => s.withLink p fun l => l.point b
  | .refusing => s.withLink p Link.refuse
  | .idle | .opened | .completion _ | .record _ | .directory _ | .fill => s

/-- Data bytes of a write transaction, in order. -/
def State.writeBytes (s : State) (p : Port) (bytes : List Byte) : State := bytes.foldl (State.writeByte p) s

/-! ## Reads (R185, R186) -/

/-- Whether a write transaction is in progress. -/
def Transfer.isWrite : Transfer → Bool
  | .addressed | .message | .pointer | .refusing => true
  | .idle | .opened | .completion _ | .record _ | .directory _ | .fill => false

/-- A read transaction of a selected window, or the part of it that a command carries. -/
def State.readPart (s : State) (p : Port) (addr : Address) (part : Part) (w : Window) (reads : Nat) : State :=
  if part.opens then
    if (s.link p).window = some w then ((s.start p addr .opened).readBytes p reads).stop p part else s
  else (s.readBytes p reads).stop p part

/-! ## The commands -/

/-- REQUEST_ADMITTED (R187): the write of 0x01 and a message, admitted at its stop. -/
def execRequestAdmitted (p : Port) (addr : Address) (message : List Byte) (s : State) (part : Part := .whole) :
    Host.Outcome State Fault Refusal :=
  let t := if part.opens then (s.start p addr .addressed).writeByte p 0x01 else s
  .next ((t.writeBytes p message).stop p part)

/-- WINDOW_SELECT (R186): a write of a code and the bytes after it, then, where bytes are read, a repeated start and a
read of the window then selected (log 21); with no code a read transaction from its start. -/
def execWindowSelect (p : Port) (addr : Address) (code : Option Byte) (reads : Nat) (s : State)
    (written : List Byte := []) (part : Part := .whole) : Host.Outcome State Fault Refusal :=
  let t := if part.opens then
      match code with
      | some c => (s.start p addr .addressed).writeByte p c
      | none => s.start p addr .opened
    else s
  let u := t.writeBytes p written
  let v := if reads ≠ 0 ∧ (u.link p).transfer.isWrite = true then u.address p addr .opened else u
  .next ((v.readBytes p reads).stop p part)

/-- DIRECTORY_POINTER_WRITE (R190): the write of 0x04 and a pointer byte; further bytes are refused. -/
def execDirectoryPointerWrite (p : Port) (addr : Address) (pointer : Byte) (s : State) (extra : List Byte := []) :
    Host.Outcome State Fault Refusal :=
  .next ((((s.start p addr .addressed).writeByte p 0x04).writeBytes p (pointer :: extra)).stop p .whole)

/-- COMPLETION_READ (R189): a read transaction while the COMPLETION window is selected. -/
def execCompletionRead (p : Port) (addr : Address) (reads : Nat) (s : State) (part : Part := .whole) :
    Host.Outcome State Fault Refusal := .next (s.readPart p addr part .completion reads)

/-- DIRECTORY_READ (R190): a read transaction while the DIRECTORY window is selected. -/
def execDirectoryRead (p : Port) (addr : Address) (reads : Nat) (s : State) (part : Part := .whole) :
    Host.Outcome State Fault Refusal := .next (s.readPart p addr part .directory reads)

/-- UNKNOWN_REQUEST_CODE (R188): a message whose code names no request of its port meets no mode gate and completes
BAD_REQUEST, with its own code byte echoed (log 29). -/
def execUnknownRequestCode (p : Port) (s : State) : Host.Outcome State Fault Refusal :=
  match s.takeable p with
  | none => .next s
  | some m =>
    if m.code ∈ portCodes p then .next s
    else
      .next ((s.popRequest p).pushCompletion p { tag := m.tag, code := m.code, outcome := .badRequest, data := [] })

end Sys2Proof.Machine
end

