-- ==== Sys2Proof/Machine/Tamper.lean ====
section
/-! DEFINITION. The Tamper Monitor's commands (09): the enclosure inputs, the supply and battery monitors, the clock
integrity monitor and the pattern-test scheduler; and the calendar's second (08). -/

namespace Sys2Proof.Machine

/-! ## The enclosure inputs (R149 to R151) -/

/-- The action of a DOOR event at this moment (R151). -/
def State.doorActionNow (s : State) : Action := if s.monitor.windowTimer.isSome then .alarm else s.doorAction

/-- Whether four samples of an input all read its tamper level (tamper true) or its normal level, by the polarities of the
settings copy; without a copy they read nothing (R150). -/
def State.samplesRead (s : State) (input : Enclosure) (samples : Samples) (tamper : Bool) : Bool :=
  match s.enclosure with
  | none => false
  | some c =>
    let high := match input with
      | .door => c.doorHigh
      | .mesh => c.meshHigh
    allAt samples (high == tamper)

/-- DOOR_EVENT (R150, R151): EN0 changes to its tamper level. -/
def execDoorEvent (s : State) (samples : Samples := .steady true) : Host.Outcome State Fault Refusal :=
  if s.samplesRead .door samples true && !s.doorOpen then
    .next ((s.withRetention fun r => { r with doorTamper := true }).raiseTamper .door s.doorActionNow)
  else .next s

/-- MESH_EVENT (R149, R150): EN1 changes to its tamper level. -/
def execMeshEvent (s : State) (samples : Samples := .steady true) : Host.Outcome State Fault Refusal :=
  if s.samplesRead .mesh samples true && !s.meshBroken then
    .next ((s.withRetention fun r => { r with meshTamper := true }).raiseTamper .mesh .zeroize)
  else .next s

/-- ENCLOSURE_NORMAL (R150): a debounced input returns to its normal level and raises nothing. -/
def execEnclosureNormal (input : Enclosure) (s : State) (samples : Samples := .steady false) :
    Host.Outcome State Fault Refusal :=
  if s.samplesRead input samples false then
    match input with
    | .door => .next (s.withRetention fun r => { r with doorTamper := false })
    | .mesh => .next (s.withRetention fun r => { r with meshTamper := false })
  else .next s

/-! ## The supply and battery monitors (R152) -/

/-- Whether the supply monitor runs: a verified record is loaded, and the mode is not BACKUP or HALTED (R152). -/
def State.supplyWatched (s : State) : Bool :=
  s.custody.record == .verified && s.custody.present != .backup && s.custody.present != .halted

/-- SUPPLY_HIGH_EVENT (R152): four samples lie above the overvoltage threshold and the supply is judged high. -/
def execSupplyHighEvent (s : State) (samples : Samples := .steady true) : Host.Outcome State Fault Refusal :=
  if s.supplyWatched && !s.monitor.supplyHigh && allAt samples true then
    .next ((s.withMonitor fun m => { m with supplyHigh := true }).raiseTamper .supplyHigh s.supplyAction)
  else .next s

/-- SUPPLY_NOT_HIGH (R152): four samples lie at or below the overvoltage threshold. -/
def execSupplyNotHigh (s : State) (samples : Samples := .steady false) : Host.Outcome State Fault Refusal :=
  if s.supplyWatched && allAt samples false then .next (s.withMonitor fun m => { m with supplyHigh := false })
  else .next s

/-- BATTERY_LOW (R152): four samples lie below the warning level and the battery is judged low; BATTERY_LOW is latched and
nothing enters the tamper record. -/
def execBatteryLow (s : State) (samples : Samples := .steady true) : Host.Outcome State Fault Refusal :=
  if !s.retention.batteryLow && allAt samples true then
    .next ((s.withRetention fun r => { r with batteryLow := true }).latch .batteryLow)
  else .next s

/-- BATTERY_NOT_LOW (R152): four samples lie at or above the warning level. -/
def execBatteryNotLow (s : State) (samples : Samples := .steady false) : Host.Outcome State Fault Refusal :=
  .next (if allAt samples false then s.withRetention fun r => { r with batteryLow := false } else s)

/-! ## The clock integrity monitor (R153 to R156) -/

/-- The nominal count N (R153). -/
def nominalCount : Nat := 3906

/-- Whether the clock monitor runs: from the end of the crystal start wait until BACKUP, HALTED or a warm reset
(R153). -/
def State.clockWatched (s : State) : Bool :=
  s.custServed || (s.custody.present == .starting && s.custody.phase == .clearAllWait)

/-- A measurement of this many cycles: it stops at 4095 and is then saturated (R154). -/
def measured (cycles : Nat) : Measurement := { count := min 4095 cycles, saturated := decide (4095 ≤ cycles) }

/-- A measurement in progress that counts further cycles (R154). -/
def Measurement.counting (m : Measurement) (cycles : Nat) : Measurement :=
  { count := min 4095 (m.count + cycles), saturated := m.saturated || decide (4095 ≤ m.count + cycles) }

/-- The average of an evaluation: the sum plus 2, divided by 4 (R155). -/
def average (e : List Measurement) : Nat := ((e.map (·.count)).sum + 2) / 4

/-- The deviation of an evaluation from a baseline (R155). -/
def deviation (e : List Measurement) (baseline : Nat) : Int := (average e : Int) - (baseline : Int)

/-- Whether an evaluation passes a band (R155). -/
def passes (e : List Measurement) (baseline band : Nat) : Bool :=
  e.all (!·.saturated) && decide (-(band : Int) ≤ deviation e baseline ∧ deviation e baseline ≤ (band : Int))

/-- The baseline's step for a deviation and a step weight, toward zero (R155). -/
def baselineStep (d : Int) (weight : Nat) : Int := (d * ((weight : Int) + 1)).tdiv 32

/-- A number limited to N - Amax to N + Amax (R155). -/
def limitBaseline (limit : Nat) (b : Int) : Nat :=
  if b < (nominalCount : Int) - (limit : Int) then nominalCount - limit
  else if (nominalCount : Int) + (limit : Int) < b then nominalCount + limit
  else b.toNat

/-- The baseline after a pass (R155). -/
def State.steppedBaseline (s : State) (e : List Measurement) : Nat :=
  limitBaseline s.baselineLimit
    ((s.retention.baseline : Int) + baselineStep (deviation e s.retention.baseline) s.stepWeight)

/-- Judge a completed evaluation; the next measurement begins a new one (R155, R156). On the uncommissioned path no
event is raised (R149, R174). -/
def State.judgeClock (s : State) (e : List Measurement) : State :=
  let t := s.withMonitor fun m => { m with evaluation := [] }
  if passes e s.retention.baseline s.passBand then
    (t.withRetention fun r => { r with baseline := s.steppedBaseline e }).withMonitor fun m =>
      { m with failCount := 0 }
  else
    let fails := min 255 (s.monitor.failCount + 1)
    let u := t.withMonitor fun m => { m with failCount := fails }
    if s.custody.record ≠ .blank ∧ s.monitor.failCount < 255 ∧ fails = s.failLimit then
      u.raiseTamper .clock s.clockAction
    else u

/-- CLOCK_MEASUREMENT (R154): the measurement in progress counts these cycles; at its end it joins the evaluation, the
next begins at 0, and the fourth completes the evaluation. A measurement of no cycle says that the crystal stopped
(R174, log 25). -/
def execClockMeasurement (cycles : Nat) (s : State) (ends : Bool := true) : Host.Outcome State Fault Refusal :=
  if s.clockWatched then
    let x := s.monitor.current.counting cycles
    if ends then
      let t := (s.withCustody fun c => { c with crystalOk := c.crystalOk && x.count != 0 }).withMonitor fun m =>
        { m with current := { count := 0, saturated := false } }
      let e := s.monitor.evaluation ++ [x]
      .next (if e.length < 4 then t.withMonitor fun m => { m with evaluation := e } else t.judgeClock e)
    else .next (s.withMonitor fun m => { m with current := x })
  else .next s

/-! ## The pattern-test scheduler (R157, R158) -/

/-- Whether a test is outstanding: its read waits or executes (R157; log 18). -/
def ArrayControl.testOutstanding (c : ArrayControl) : Bool :=
  c.testWait.isSome || (match c.exec with
    | some (.readReference _) => true
    | _ => false)

/-- PATTERN_TEST_INTERVAL (R157): the timer has reached 0 in SERVICE; it restarts, and a test of the next bank is submitted
unless one is outstanding. -/
def execPatternTestInterval (s : State) : Host.Outcome State Fault Refusal :=
  if s.custody.present == .service && s.monitor.intervalTimer == some 0 then
    let t := s.withMonitor fun m => { m with intervalTimer := some (s.testInterval * cyclesPerSecond) }
    .next (if s.control.testOutstanding then t
      else t.withControl fun c => { c with testWait := some s.retention.nextTest })
  else .next s

/-- The bits in which a reference row as read differs from the pattern, byte by byte (R158). -/
def patternDiff (row : Vector Byte 32) (drift : List Byte) : List Byte :=
  (List.finRange 32).map fun i => row[i] ^^^ drift.getD i.val 0 ^^^ referencePattern[i]

/-- The mismatch count, 0 to 256 (R158). -/
def mismatchCount (diff : List Byte) : Nat := (diff.map ones).sum

/-- The first-fail offset: the lowest byte in which any bit differed (R158). -/
def firstDiffering (diff : List Byte) : Nat := diff.findIdx (· != 0)

/-- Judge a reference row as read (R158). -/
def State.judgeRow (s : State) (b : Bank) (diff : List Byte) : State :=
  let n := mismatchCount diff
  if s.deltaThreshold < n then
    let before := s.retention.tests[b].fails
    let fails := min 255 (before + 1)
    let t := s.writeTest b fun r =>
      { r with last := some .fail, mismatches := n, fails := fails, firstFail := some (firstDiffering diff) }
    if before < 255 ∧ fails = s.testFailThreshold then t.setDegraded b else t
  else s.writeTest b fun r => { r with last := some .pass, mismatches := n }

/-- PATTERN_TEST_RESULT (R158): the executing READ REFERENCE delivers its row, or the read about to start is SKIPPED
(R100, log 30). -/
def execPatternTestResult (drift : List Byte) (s : State) : Host.Outcome State Fault Refusal :=
  match s.control.exec with
  | some (.readReference b) => .next (s.execEnded.judgeRow b (patternDiff s.array.rows[b] drift))
  | _ =>
    match s.skipsTest with
    | some b => .next (s.endSkipped b)
    | none => .next s

/-! ## The calendar (R140, R147) -/

/-- CALENDAR_SECOND (R140): a counting calendar at its last cycle of a second advances; a midnight event sweeps the
directory in use (R147). -/
def execCalendarSecond (s : State) : Host.Outcome State Fault Refusal :=
  if s.retention.calendar.counting && s.retention.calendar.sub == 32767 then
    let (c, midnight) := s.retention.calendar.tick
    let t := s.withRetention fun r => { r with calendar := c }
    .next (if midnight && t.directory.inUse then t.sweep else t)
  else .next s

end Sys2Proof.Machine
end

