-- ==== Sys2Proof/Machine/Power.lean ====
section
/-! DEFINITION. Power, start-up and commissioning (10): the end of the volatile state (R179, R180), the steps of a
start-up (R172 to R178), the directory scan (R9, R10, R176), the loss of retention (R175), and COMMISSION (R182,
R183). -/

namespace Sys2Proof.Machine

/-! ## Fuse programming (R183) -/

/-- The place of a record byte in the programming order: every byte but the marker, then 62 and 63, then the marker 61
(R183); bytes 0 to 60 ascending and 62 before 63 (DESIGN CHOICE, log 46). -/
def fuseRank (i : Nat) : Nat := if i ≤ 60 then i else if i = 61 then 63 else i - 1

/-- The record byte at a place of the programming order (R183). -/
def fuseAt (rank : Nat) : Nat := if rank ≤ 60 then rank else if rank = 63 then 61 else rank + 1

/-- The first place of the order at which a bit that should stay unprogrammed reads programmed; 64 if none (R183). -/
def fuseConflict (old target : Vector Byte 64) : Nat :=
  (List.range 64).findIdx fun rank =>
    (old.toList.getD (fuseAt rank) 0 &&& ~~~ target.toList.getD (fuseAt rank) 0) != 0

/-- The fuses with every byte before a place of the order programmed and the byte there as far as it took; bits once
programmed stay (R183, log 9). -/
def programFuses (d rank : Nat) (old target : Vector Byte 64) : Vector Byte 64 :=
  Vector.ofFn fun i =>
    if fuseRank i.val < rank then old[i] ||| target[i]
    else if fuseRank i.val = rank then old[i] ||| (target[i] &&& freeByte d i.val)
    else old[i]

/-- The places of the order, up to the first at which a bit stands in the way, whose byte differs from its target: those
that can end the programming by not reading back (R183). A byte that equals its target reads back. -/
def fuseFailing (old target : Vector Byte 64) : List Nat :=
  (List.range 64).filter fun rank =>
    rank ≤ fuseConflict old target && old.toList.getD (fuseAt rank) 0 != target.toList.getD (fuseAt rank) 0

/-- The fuses when the byte at a place of the order has not read back: as far as they took, that byte short of its target
(R183, log 9). -/
def failFuses (d rank : Nat) (old target : Vector Byte 64) : Vector Byte 64 :=
  let taken := programFuses d rank old target
  Vector.ofFn fun i => if fuseRank i.val = rank ∧ taken[i] = target[i] then old[i] else taken[i]

/-- What a COMMISSION interrupted while programming leaves in the fuses (R183, log 9). -/
def State.leaveFuses (s : State) : State :=
  match s.custProgress with
  | some (.commission _ record) =>
    let rank := min (freeBelow s.draws 64 65) (fuseConflict s.fuses record)
    ({ s with fuses := programFuses s.draws rank s.fuses record } : State).nextDraw
  | _ => s

/-! ## The end of the volatile state (R179, R180, R81, R98, R53, R117, R194) -/

/-- What becomes of a transaction in progress when its port stops: further bytes of a write are refused, a read returns
0xFF for its remaining bytes (R194). -/
def Transfer.broken : Transfer → Transfer
  | .idle => .idle
  | .addressed | .message | .pointer | .refusing => .refusing
  | .opened | .completion _ | .record _ | .directory _ | .fill => .fill

/-- A port whose link activity ends at once: its values at a start, and a transaction in progress broken (R194). -/
def Link.broken (l : Link) : Link :=
  { Link.initial with transfer := l.transfer.broken, acks := l.acks, sent := l.sent }

/-- How a transmitter's last frame left the bus when all bus activity ends: a frame being sent is left incomplete
(R98). -/
def Transmitter.ended (t : Transmitter) : Transmitter :=
  { Transmitter.initial with lastEnd := if t.state = .sending then .incomplete else t.lastEnd }

/-- Every block ends its volatile state: reservations are charged first (R81), the array and the fuses are left as
the stopped operation made them (R117, R183), and the battery domain is otherwise left as it stands (R179). -/
def State.endVolatile (s : State) : State :=
  let t := s.leaveFuses.endTable.leaveStopped
  { t with
    lineLinks := mapTable Link.broken t.lineLinks
    custLink := t.custLink.broken
    lineProgress := Vector.replicate 4 none
    custProgress := none
    allocations := Vector.replicate 4 { domain := 0, mask := 0 }
    buses := mapTable Transmitter.ended t.buses
    ceremony := Ceremony.initial
    control := ArrayControl.initial
    directory := Directory.initial
    monitor := Monitor.initial
    custody := { t.custody with
      phase := .none, offers := Vector.replicate 4 .toMake, csa := false, csb := false, record := .notLoaded,
      restart := none, commissions := 0 } }

/-- Set the present mode and the start-up's place. -/
def State.enter (s : State) (m : Mode) (phase : StartPhase) : State :=
  s.withCustody fun c => { c with present := m, phase := phase }

/-! ## Step 3: the fuse check (R32, R173) -/

/-- Whether the record's check word verifies (R32). -/
def fusesVerify (fuses : Vector Byte 64) : Bool := checkWord (slice fuses 0 62) == (fuses[62], fuses[63])

/-- What step 3 finds: blank when the marker byte reads 00, else verified or failed (R173). -/
def recordStateOf (fuses : Vector Byte 64) : RecordState :=
  if fuses[61] = 0 then .blank else if fusesVerify fuses then .verified else .failed

/-- Step 3: the record is judged, and a verified record's baseline limit is applied (R173, R153). -/
def State.loadFuses (s : State) : State :=
  let t := s.withCustody fun c => { c with record := recordStateOf s.fuses }
  if t.custody.record = .verified then
    t.withRetention fun r => { r with baseline := limitBaseline t.baselineLimit (r.baseline : Int) }
  else t

/-- Enter HALTED with a halt cause's pending mark (R178). -/
def State.halt (s : State) (mark : Byte) : State := (s.enter .halted .none).pend mark

/-! ## Step 5: the retention check (R175) -/

/-- Add the pending marks to the reset-cause flags and clear them (R181). -/
def Retention.collectMarks (r : Retention) : Retention :=
  { r with resetFlags := r.resetFlags ||| r.pendingMarks, pendingMarks := 0 }

/-- Retention after the check: as it stands, or reinitialised with the POWER_ON and RETENTION_LOSS marks. Marks
pending before a reinitialisation went with retention (log 12). -/
def Retention.checked (r : Retention) : Retention :=
  if r.marker then r.collectMarks
  else ({ Retention.reinitialised true with pendingMarks := markPowerOn ||| markRetentionLoss } : Retention).collectMarks

/-- The enclosure settings of a verified record (R150, 11.7). -/
def enclosureOf (fuses : Vector Byte 64) : EnclosureSettings :=
  { doorHigh := fuses[2].getLsbD 2, meshHigh := fuses[2].getLsbD 3, doorAction := actionOf fuses[3].toNat }

/-- Step 5; off the uncommissioned path the settings copy is written and the debounced states stay (R175). -/
def State.checkRetention (s : State) : State :=
  s.withRetention fun r =>
    if s.custody.record = .verified then { r.checked with enclosure := some (enclosureOf s.fuses) } else r.checked

/-! ## Step 6: the directory scan (R9, R10, R176) -/

/-- The mask of a slot's read in a scan (log 10). -/
def driftOf (drift : List (Nat × List Byte)) (n : SlotNo) : List Byte :=
  match drift.find? fun d => d.1 == n.val with
  | some d => d.2
  | none => []

/-- The judgement of a bank (R9). -/
def State.scanBank (s : State) (b : Bank) : BankDir :=
  let h := s.array.headers[b]
  { condition := if h.erasing then .eraseIncomplete else .ready
    degraded := decide (20000 ≤ h.eraseCount) || decide (s.testFailThreshold ≤ s.retention.tests[b].fails)
    lost := !s.coverValid b
    epoch := BitVec.ofNat 8 h.eraseCount
    reserved := false }

/-- The state and header copy of a slot's record as read, in the first matching line of R10. -/
def State.scanRecord (s : State) (n : SlotNo) (r : SlotRecord) : SlotState × Header :=
  let b := bankOf n
  if r.written = false then (.empty, Vector.replicate 22 0)
  else if s.coverValid b = false then (.lost, r.header)
  else if rcwMatches r = false then (.damaged, Vector.replicate 22 0)
  else if s.array.headers[b].erasing then (.damaged, r.header)
  else if kcwMatches r s.retention.covers[b].value = false then (.damaged, r.header)
  else if r.retire ≠ .blank ∨ s.retention.slots[n].latch = true then (.retired, r.header)
  else (.active, r.header)

/-- A slot's place in the directory after the scan, its shown flags evaluated (R10, R146). -/
def State.scanSlot (s : State) (drift : List (Nat × List Byte)) (n : SlotNo) : SlotDir :=
  let (st, h) := s.scanRecord n (asRead s.array.records[n] (driftOf drift n))
  ({ state := st, retirePending := false, header := h, shownNotYet := false, shownExpired := false } :
    SlotDir).evaluate s.retention.calendar

/-- The scan gives an ACTIVE metered slot with nothing remaining and nothing issued its initial allowance (R10). -/
def scanAllowance (d : SlotDir) (r : SlotRetention) : SlotRetention :=
  if d.state = .active ∧ r.remaining = 0 ∧ r.issued = 0 then { r with remaining := (hAllowance d.header).getD 0 } else r

/-- The scan: the directory is built and in use (R8, R176). -/
def State.scan (s : State) (drift : List (Nat × List Byte)) : State :=
  let slots : Vector SlotDir 128 := Vector.ofFn fun n => s.scanSlot drift n
  { s with
    directory := { inUse := true, slots := slots, banks := Vector.ofFn fun b => s.scanBank b }
    retention := { s.retention with
      slots := Vector.ofFn fun n => scanAllowance slots[n] s.retention.slots[n] } }

/-- Whether any record has its written mark set (R176). -/
def State.anyWritten (s : State) : Bool := s.array.records.toList.any (·.written)

/-! ## Step 7: the start-up CLEAR-ALL (R96) -/

/-- Offer the CLEAR-ALL to a transmitter whose engine is ready and whose offer is to be made (R96). -/
def State.offerClear (s : State) (e : Line) : State :=
  if s.buses[e].ready = true ∧ s.custody.offers[e] = .toMake then
    (s.queueFrame e .clearAll).withCustody fun c => { c with offers := put c.offers e .inFlight }
  else s

/-- A transmitter whose engine is not ready at the offer queues nothing and is done (R96). -/
def State.offerSettled (s : State) (e : Line) : State :=
  if s.custody.offers[e] = .toMake then s.withCustody fun c => { c with offers := put c.offers e .done } else s

/-- The offer of the CLEAR-ALL to every transmitter, after which none is to be made (R96). -/
def State.makeOffers (s : State) : State := four.foldl State.offerSettled (four.foldl State.offerClear s)

/-- Whether an engine is ready, which says that the inputs have been sampled four times since sampling began (R93, R96,
log 17). -/
def State.engineSeen (s : State) : Bool := four.any fun e => s.buses[e].ready

/-! ## The walk of a start-up -/

/-- Steps 5 to 7 (R175 to R177, R169). On the uncommissioned path steps 6 and 7 are not carried out (R173). -/
def State.stepsFiveToSeven (s : State) (drift : List (Nat × List Byte)) : State :=
  let reinitialised := !s.retention.marker
  let t := (s.enter .starting .clearAllWait).checkRetention
  if s.custody.record = .verified then
    let u := t.scan drift
    let v := if reinitialised && u.anyWritten then u.raiseTamper .retentionLoss .zeroize else u
    if v.engineSeen then v.makeOffers else v
  else t.withCustody fun c => { c with offers := Vector.replicate 4 .done }

/-- Step 3 and what follows at once: HALTED with cause FUSE on a failed check (R173), steps 5 to 7 where step 4 is
skipped, and step 4's wait otherwise (R174). -/
def State.fromStepThree (s : State) (skip : Bool) (drift : List (Nat × List Byte)) : State :=
  let t := s.loadFuses
  if t.custody.record = .failed then t.halt markFuse
  else if skip then t.stepsFiveToSeven drift
  else t.enter .starting .crystalWait

/-- MAIN_POWER_VALID (R172): in BACKUP four samples lie above the brownout threshold; steps 1 to 3, and step 4 then always
runs (R174). -/
def execMainPowerValid (s : State) (samples : Samples := .steady true) : Host.Outcome State Fault Refusal :=
  if s.custody.present == .backup && allAt samples true then
    .next (((s.enter .starting .none).pend markBrownout).fromStepThree false [])
  else .next s

/-- CRYSTAL_STARTED (R174): step 4 ends and the start-up goes on with steps 5 to 7. -/
def execCrystalStarted (drift : List (Nat × List Byte)) (s : State) : Host.Outcome State Fault Refusal :=
  if s.custody.present == .starting && s.custody.phase == .crystalWait then
    .next ((s.withCustody fun c => { c with crystalOk := true }).stepsFiveToSeven drift)
  else .next s

/-- CRYSTAL_START_TIMEOUT (R174): HALTED with halt cause CLOCK_START (R178). -/
def execCrystalStartTimeout (s : State) : Host.Outcome State Fault Refusal :=
  if s.custody.present == .starting && s.custody.phase == .crystalWait then
    .next ((s.withCustody fun c => { c with crystalOk := false }).halt markClockStart)
  else .next s

/-- The mode a resume mode enters (R171). -/
def ResumeMode.mode : ResumeMode → Mode
  | .service => .service
  | .zeroizing => .zeroizing
  | .recovery => .recovery

/-- Step 8 off the uncommissioned path: the resume mode is entered; SERVICE starts the interval timer, ZEROIZING
submits the lowest owed bank (R177, R157, R166). -/
def State.enterResume (s : State) : State :=
  let m := s.resumeMode
  let t := s.enter m.mode .none
  match m with
  | .service => t.withMonitor fun x => { x with intervalTimer := some (s.testInterval * cyclesPerSecond) }
  | .zeroizing => t.nextOwed
  | .recovery => t

/-- START_UP_COMPLETE (R177): offers not yet made are made (log 17), and when every CLEAR-ALL has its outcome
step 8 is entered. -/
def execStartUpComplete (s : State) : Host.Outcome State Fault Refusal :=
  if s.custody.present == .starting && s.custody.phase == .clearAllWait then
    if s.custody.record = .verified then
      let t := s.makeOffers
      .next (if t.custody.offers.toList.all (· == .done) then t.enterResume else t)
    else .next (s.enter .uncommissioned .none)
  else .next s

/-! ## Warm reset and brownout (R179, R180) -/

/-- BROWNOUT (R180): in any mode other than BACKUP four samples lie below the brownout threshold. -/
def execBrownout (s : State) (samples : Samples := .steady true) : Host.Outcome State Fault Refusal :=
  if s.custody.present != .backup && allAt samples true then
    .next ((s.endVolatile.enter .backup .none).withCustody fun c => { c with crystalOk := false })
  else .next s

/-- WARM_RESET_ONSET (R179): in any mode other than BACKUP, while RESET is not yet asserted (log 39), four samples find it
asserted. -/
def execWarmResetOnset (s : State) (samples : Samples := .steady true) : Host.Outcome State Fault Refusal :=
  if s.custody.present == .backup || (s.custody.present == .starting && s.custody.phase == .inReset) ||
      !allAt samples true then .next s
  else .next ((s.endVolatile.enter .starting .inReset).pend markResetLine)

/-- RESET_RELEASE (R179): four samples find RESET released and the start-up runs from step 3; step 4 is skipped when the
crystal has run on (R174). -/
def execResetRelease (crystalRan : Bool) (drift : List (Nat × List Byte)) (s : State)
    (samples : Samples := .steady false) : Host.Outcome State Fault Refusal :=
  if s.custody.present == .starting && s.custody.phase == .inReset && allAt samples false then
    .next ((s.enter .starting .none).fromStepThree (s.custody.crystalOk && crystalRan) drift)
  else .next s

/-! ## The loss of retention (R175) -/

/-- A free date that is a valid one (R139). -/
def freeDate (d base : Nat) : Date :=
  let y := 2000 + freeBelow d base 200
  let m := 1 + freeBelow d (base + 1) 12
  ⟨y, m, 1 + freeBelow d (base + 2) (monthLength y m)⟩

/-- A free time of day. -/
def freeTime (d base : Nat) : Time := ⟨freeBelow d base 24, freeBelow d (base + 1) 60, freeBelow d (base + 2) 60⟩

/-- A free recorded moment, or none. -/
def freeStamp (d base : Nat) : Option Stamp :=
  if freeBool d base then some ⟨freeDate d (base + 1), freeTime d (base + 4)⟩ else none

/-- A free source, or none. -/
def freeSource (d i : Nat) : Option Source :=
  [none, some .command, some .door, some .mesh, some .supplyHigh, some .clock, some .retentionLoss].getD
    (freeBelow d i 7) none

/-- What retention reads as once the battery has lost it: free values of each field's kind. The marker is lost; the
settings copy is treated as absent; the battery monitor's judgement, which goes on, and the width of each field
stay (R175, log 11). -/
def Retention.fallen (r : Retention) (d : Nat) : Retention :=
  { marker := false
    covers := Vector.ofFn fun b =>
      { value := Vector.ofFn fun i => freeByte d (32 * b.val + i.val), valid := false }
    slots := Vector.ofFn fun n =>
      { remaining := freeBelow d (200 + n.val) 16777216, issued := freeBelow d (400 + n.val) 16777216
        hold := freeBool d (600 + n.val), latch := freeBool d (800 + n.val) }
    calendar := { date := freeDate d 1000, time := freeTime d 1003, set := freeBool d 1006
                  counting := freeBool d 1007, sub := freeBelow d 1008 32768 }
    baseline := freeBelow d 1010 4096
    alarmFlags := freeByte d 1011
    alarmMask := freeByte d 1012
    tamper := { zCount := freeBelow d 1013 256, zCause := freeSource d 1014, zTime := freeStamp d 1015
                zPlace := [none, some .running, some .unpowered].getD (freeBelow d 1023 3) none
                eCount := freeBelow d 1024 256, eSource := freeSource d 1025
                eOutcome := [none, some .zeroized, some .alarmed, some .recorded].getD (freeBelow d 1026 4) none
                eTime := freeStamp d 1027 }
    tests := Vector.ofFn fun b =>
      { last := [none, some .pass, some .fail, some .skipped].getD (freeBelow d (1040 + b.val) 4) none
        mismatches := freeBelow d (1050 + b.val) 257, fails := freeBelow d (1060 + b.val) 256
        firstFail := if freeBool d (1070 + b.val) then some (freeBelow d (1080 + b.val) 32) else none
        time := freeStamp d (1100 + 10 * b.val) }
    nextTest := BitVec.toFin (BitVec.ofNat 2 (Config.freeNat d 1150))
    owed := Vector.ofFn fun b => freeBool d (1160 + b.val)
    batteryLow := r.batteryLow
    enclosure := none
    doorTamper := false
    meshTamper := false
    resetFlags := freeByte d 1170 &&& 0x3F
    pendingMarks := 0
    resume := [.service, .zeroizing, .recovery].getD (freeBelow d 1180 3) .service }

/-- RETENTION_MARKER_LOST (R175): the marker and the rest of retention are lost; the covers are treated as invalid, and
the directory's lost flags and slots follow them (R6, R14, log 11). -/
def execRetentionMarkerLost (s : State) : Host.Outcome State Fault Refusal :=
  if s.retention.marker then .next ((s.withRetention fun r => r.fallen s.draws).zeroizeDirectory.nextDraw)
  else .next s

/-! ## COMMISSION (R183) -/

/-- A COMMISSION that passes begins to program the fuses and stays in progress (R183). -/
def takeCommission (tag : Byte) (record : Vector Byte 64) (s : State) : State :=
  { s with custProgress := some (.commission tag record) }

/-- COMMISSION (R183). -/
def execCommission (s : State) : Host.Outcome State Fault Refusal :=
  .next (s.takeCust codeCommission gateCommission .both (parseCommission s.fuses) takeCommission)

/-- COMMISSION_PROGRAMMING_END (R183): OK when every byte reads back, the restart then following; else PROGRAM_FAILED at
a byte that does not read back or at a bit in the way, with the fuses as far as they took (log 9) and the part
UNCOMMISSIONED. With the whole record in the fuses already every byte reads back, whatever the command says (log 55). -/
def execCommissionProgrammingEnd (ok : Bool) (s : State) : Host.Outcome State Fault Refusal :=
  match s.custProgress with
  | some (.commission tag record) =>
    let stop := fuseConflict s.fuses record
    let failing := fuseFailing s.fuses record
    if failing.isEmpty || (ok && stop == 64) then
      .next ((({ s with fuses := programFuses s.draws 64 s.fuses record } : State).withCustody fun c =>
        { c with restart := some (c.restart.getD cyclesPerSecond), commissions := c.commissions + 1 }).finishCust tag
          codeCommission .ok [])
    else
      let rank := if ok then stop else failing.getD (freeBelow s.draws 64 failing.length) stop
      .next (({ s with fuses := failFuses s.draws rank s.fuses record } : State).nextDraw.finishCust tag
        codeCommission .programFailed [])
  | _ => .next s

/-- Whether the completion of a COMMISSION that passed has been read out: fewer of them wait than there have been (R183,
R189). -/
def State.commissionRead (s : State) : Bool :=
  decide ((s.custLink.completions.countP fun c => c.code == codeCommission && c.outcome == .ok) <
    s.custody.commissions)

/-- COMMISSION_RESTART (R183): with a completion read out or 1 s passed since the first, the part restarts from step 3,
with no pending mark (log 35). -/
def execCommissionRestart (crystalRan : Bool) (drift : List (Nat × List Byte)) (s : State) :
    Host.Outcome State Fault Refusal :=
  if s.custody.present == .uncommissioned && s.custody.restart.isSome &&
      (s.commissionRead || s.custody.restart == some 0) then
    .next ((s.endVolatile.enter .starting .none).fromStepThree (s.custody.crystalOk && crystalRan) drift)
  else .next s

end Sys2Proof.Machine
end

