-- ==== Sys2Proof/Machine/Dispatch.lean ====
section
/-! DEFINITION. The dispatch: one arm per command, one direct call of its meaning. -/

namespace Sys2Proof.Machine

def exec (i : Instr) (s : State) : Host.Outcome State Fault Refusal :=
  match i with
  -- Port links (11)
  | .requestAdmitted p addr message part => Sys2Proof.Machine.execRequestAdmitted p addr message s part
  | .windowSelect p addr code reads written part => Sys2Proof.Machine.execWindowSelect p addr code reads s written part
  | .directoryPointerWrite p addr pointer extra => Sys2Proof.Machine.execDirectoryPointerWrite p addr pointer s extra
  | .completionRead p addr reads part => Sys2Proof.Machine.execCompletionRead p addr reads s part
  | .directoryRead p addr reads part => Sys2Proof.Machine.execDirectoryRead p addr reads s part
  | .unknownRequestCode p => Sys2Proof.Machine.execUnknownRequestCode p s
  -- Ceremonies (03)
  | .openCeremony => Sys2Proof.Machine.execOpen s
  | .component => Sys2Proof.Machine.execComponent s
  | .commit => Sys2Proof.Machine.execCommit s
  | .abandon => Sys2Proof.Machine.execAbandon s
  | .switchDrop w samples => Sys2Proof.Machine.execSwitchDrop w s samples
  | .switchPresent w samples => Sys2Proof.Machine.execSwitchPresent w s samples
  | .ceremonyTimeout => Sys2Proof.Machine.execCeremonyTimeout s
  -- Administration (07), calendar (08), commissioning (10)
  | .allocate => Sys2Proof.Machine.execAllocate s
  | .hold => Sys2Proof.Machine.execHold s
  | .unhold => Sys2Proof.Machine.execUnhold s
  | .retire => Sys2Proof.Machine.execRetire s
  | .reclaim => Sys2Proof.Machine.execReclaim s
  | .openServiceWindow => Sys2Proof.Machine.execOpenServiceWindow s
  | .closeServiceWindow => Sys2Proof.Machine.execCloseServiceWindow s
  | .serviceWindowExpiry => Sys2Proof.Machine.execServiceWindowExpiry s
  | .setAlarmMask => Sys2Proof.Machine.execSetAlarmMask s
  | .clearAlarms => Sys2Proof.Machine.execClearAlarms s
  | .clearNvFault => Sys2Proof.Machine.execClearNvFault s
  | .clearResetFlags => Sys2Proof.Machine.execClearResetFlags s
  | .zeroize => Sys2Proof.Machine.execZeroize s
  | .rearm => Sys2Proof.Machine.execRearm s
  | .setTime => Sys2Proof.Machine.execSetTime s
  | .commission => Sys2Proof.Machine.execCommission s
  | .commissionRestart crystalRan drift => Sys2Proof.Machine.execCommissionRestart crystalRan drift s
  -- Bindings (04)
  | .bind l => Sys2Proof.Machine.execBind l s
  | .extend l => Sys2Proof.Machine.execExtend l s
  | .release l => Sys2Proof.Machine.execRelease l s
  | .releaseAll l => Sys2Proof.Machine.execReleaseAll l s
  | .clearBlocked l => Sys2Proof.Machine.execClearBlocked l s
  | .readSlotComplete drift => Sys2Proof.Machine.execReadSlotComplete drift s
  -- Key buses (05)
  | .frameSendStart e => Sys2Proof.Machine.execFrameSendStart e s
  | .frameSent e => Sys2Proof.Machine.execFrameSent e s
  | .accept e reply => Sys2Proof.Machine.execAccept e reply s
  | .refuse e reply => Sys2Proof.Machine.execRefuse e reply s
  | .done e reply => Sys2Proof.Machine.execDone e reply s
  | .replyTimeout e => Sys2Proof.Machine.execReplyTimeout e s
  | .engineReadyFall e samples => Sys2Proof.Machine.execEngineReadyFall e s samples
  | .engineReadyRise e samples => Sys2Proof.Machine.execEngineReadyRise e s samples
  -- Array Controller (06)
  | .arrayOperationStart => Sys2Proof.Machine.execArrayOperationStart s
  | .programRecordDone => Sys2Proof.Machine.execProgramRecordDone s
  | .programFailed => Sys2Proof.Machine.execProgramFailed s
  | .programMarkEnd ok => Sys2Proof.Machine.execProgramMarkEnd ok s
  | .eraseComplete => Sys2Proof.Machine.execEraseComplete s
  | .eraseFailed => Sys2Proof.Machine.execEraseFailed s
  | .eraseSuspend ran => Sys2Proof.Machine.execEraseSuspend ran s
  | .eraseSuspended => Sys2Proof.Machine.execEraseSuspended s
  | .suspensionCap => Sys2Proof.Machine.execSuspensionCap s
  -- Tamper Monitor (09)
  | .doorEvent samples => Sys2Proof.Machine.execDoorEvent s samples
  | .meshEvent samples => Sys2Proof.Machine.execMeshEvent s samples
  | .enclosureNormal input samples => Sys2Proof.Machine.execEnclosureNormal input s samples
  | .supplyHighEvent samples => Sys2Proof.Machine.execSupplyHighEvent s samples
  | .supplyNotHigh samples => Sys2Proof.Machine.execSupplyNotHigh s samples
  | .batteryLow samples => Sys2Proof.Machine.execBatteryLow s samples
  | .batteryNotLow samples => Sys2Proof.Machine.execBatteryNotLow s samples
  | .clockMeasurement cycles ends => Sys2Proof.Machine.execClockMeasurement cycles s ends
  | .patternTestInterval => Sys2Proof.Machine.execPatternTestInterval s
  | .patternTestResult drift => Sys2Proof.Machine.execPatternTestResult drift s
  | .calendarSecond => Sys2Proof.Machine.execCalendarSecond s
  -- Power and start-up (10)
  | .brownout samples => Sys2Proof.Machine.execBrownout s samples
  | .mainPowerValid samples => Sys2Proof.Machine.execMainPowerValid s samples
  | .warmResetOnset samples => Sys2Proof.Machine.execWarmResetOnset s samples
  | .resetRelease crystalRan drift samples => Sys2Proof.Machine.execResetRelease crystalRan drift s samples
  | .crystalStarted drift => Sys2Proof.Machine.execCrystalStarted drift s
  | .crystalStartTimeout => Sys2Proof.Machine.execCrystalStartTimeout s
  | .startUpComplete => Sys2Proof.Machine.execStartUpComplete s
  | .retentionMarkerLost => Sys2Proof.Machine.execRetentionMarkerLost s
  | .commissionProgrammingEnd ok => Sys2Proof.Machine.execCommissionProgrammingEnd ok s
  | .disregardedReply e reply => Sys2Proof.Machine.execDisregardedReply e reply s

end Sys2Proof.Machine
end

