-- ==== Sys2Proof/Machine/Tick.lean ====
section
/-! DEFINITION. The tick: one cycle of the retention clock on an empty queue (log 13). -/

namespace Sys2Proof.Machine

/-- Running timers count down, and the sub-second count of a counting calendar advances (R51, R131, R140, R157, R183). -/
def State.countDown (s : State) : State :=
  let down : Nat → Nat := fun n => n - 1
  { s with
    ceremony := { s.ceremony with current := s.ceremony.current.map fun o =>
      if o.programming then o else { o with timer := down o.timer } }
    monitor := { s.monitor with
      windowTimer := s.monitor.windowTimer.map down
      intervalTimer := s.monitor.intervalTimer.map down }
    custody := { s.custody with restart := s.custody.restart.map down }
    retention := { s.retention with calendar := { s.retention.calendar with
      sub := if s.retention.calendar.counting then min 32767 (s.retention.calendar.sub + 1)
             else s.retention.calendar.sub } } }

/-- At step 7 the CLEAR-ALL is offered once an engine is seen ready (R96, log 17). -/
def State.tickOffers (s : State) : State :=
  if s.custody.present = .starting ∧ s.custody.phase = .clearAllWait ∧ s.engineSeen = true ∧
      s.custody.offers.toList.contains .toMake = true then s.makeOffers
  else s

/-- The expiries a tick brings, in a fixed order (DESIGN CHOICE, log 13): those of the timers that stand at 0 after it, and
the second of a calendar whose sub-second count stood at 32,767 before it. -/
def State.due (before after : State) : List Instr :=
  (if after.ceremonyDue then [Instr.ceremonyTimeout] else []) ++
  (if after.monitor.windowTimer = some 0 then [.serviceWindowExpiry] else []) ++
  (if after.custody.present = .service ∧ after.monitor.intervalTimer = some 0 then [.patternTestInterval] else []) ++
  (if before.retention.calendar.counting = true ∧ before.retention.calendar.sub = 32767 then [.calendarSecond] else [])

/-- One cycle of the retention clock: timers and the sub-second count move, an offer that is due is made, and the expiries
it brings are queued as commands (log 13). -/
def State.tick (s : State) : State :=
  let t := s.countDown.tickOffers
  { t with pending := t.pending ++ State.due s t }

end Sys2Proof.Machine
end

