-- ==== Sys2Proof/Machine/Step.lean ====
section
/-! DEFINITION. The step: the command at the front of the queue, or one cycle of the retention clock. -/

namespace Sys2Proof.Machine

/-- Take the command at the front of the queue and run it with the queue's rest. On an empty queue one cycle of the
retention clock passes (DESIGN CHOICE, log 13). -/
def step (s : State) : Host.Outcome State Fault Refusal :=
  match s.pending with
  | [] => .next s.tick
  | c :: rest => exec c { s with pending := rest }

/-- Put the command a table word spells at the front of the queue; no word spells one (Decode.lean). -/
def State.withFetchWord (s : State) (nbits w : Nat) : State :=
  match decodeTableWord nbits w with
  | some c => { s with pending := c :: s.pending }
  | none => s

end Sys2Proof.Machine
end

