-- ==== Sys2Proof/Safety.lean ====
section
/-! DEFINITION. The words the statements are written in: a request that passes, its answer, a zeroization, a scan, an erase
and a refused write as seen from outside, and the invariants every step keeps. -/

namespace Sys2Proof.Machine

/-! ## Requests -/

/-- The line port takes m in SERVICE as the request with this code, and its form is right (R57, R58). -/
def State.linePasses {α : Type} (s : State) (l : Line) (code : Byte) (parse : Message → Option α) (m : Message)
    (q : α) : Prop :=
  s.takeable (.line l) = some m ∧ m.code = code ∧ s.custody.present = .service ∧ parse m = some q

/-- The custodian port takes m as the request with this code; the mode gate passes it, its form is right and its
switch requirement is met (R35, R36). -/
def State.custPasses {α : Type} (s : State) (code : Byte) (gate : Mode → Option OutcomeCode) (need : SwitchNeed)
    (parse : Message → Option α) (m : Message) (q : α) : Prop :=
  s.takeable .cust = some m ∧ m.code = code ∧ gate s.custody.present = none ∧ parse m = some q ∧
    s.switchesMeet need = true

/-- The head message of a line port is gone from its queue, and nothing else has changed. -/
def State.lineTaken (s : State) (l : Line) : State :=
  { s with lineLinks := put s.lineLinks l { s.lineLinks[l] with requests := s.lineLinks[l].requests.tail } }

/-- The head message of a line port is gone and its completion is written; nothing else has changed. -/
def State.lineAnswered (s : State) (l : Line) (tag code : Byte) (oc : OutcomeCode) (data : List Byte) : State :=
  { s with lineLinks := put s.lineLinks l { s.lineLinks[l] with
      requests := s.lineLinks[l].requests.tail
      completions := s.lineLinks[l].completions ++ [{ tag := tag, code := code, outcome := oc, data := data }] } }

/-- The head message of the custodian port is gone, and nothing else has changed. -/
def State.custTaken (s : State) : State :=
  { s with custLink := { s.custLink with requests := s.custLink.requests.tail } }

/-- The head message of the custodian port is gone and its completion is written; nothing else has changed. -/
def State.custAnswered (s : State) (tag code : Byte) (oc : OutcomeCode) (data : List Byte) : State :=
  { s with custLink := { s.custLink with
      requests := s.custLink.requests.tail
      completions := s.custLink.completions ++ [{ tag := tag, code := code, outcome := oc, data := data }] } }

/-- A completion is written into a line port's reserved entry and its request is over; nothing else has changed. -/
def State.lineCompletes (s : State) (l : Line) (tag code : Byte) (oc : OutcomeCode) (data : List Byte) : State :=
  { s with
    lineLinks := put s.lineLinks l { s.lineLinks[l] with
      completions := s.lineLinks[l].completions ++ [{ tag := tag, code := code, outcome := oc, data := data }] }
    lineProgress := put s.lineProgress l none }

/-- A completion is written into the custodian port's reserved entry and its request is over. -/
def State.custCompletes (s : State) (tag code : Byte) (oc : OutcomeCode) (data : List Byte) : State :=
  { s with
    custLink := { s.custLink with
      completions := s.custLink.completions ++ [{ tag := tag, code := code, outcome := oc, data := data }] }
    custProgress := none }

/-- Byte i of a message, 0 the request code and 1 the tag (11.7). -/
def Message.byte (m : Message) (i : Nat) : Byte := m.bytes.getD i 0

/-- The two-byte number at byte i of a message, most significant byte first (11.7). -/
def Message.two (m : Message) (i : Nat) : Nat := 256 * (m.byte i).toNat + (m.byte (i + 1)).toNat

/-- The three-byte number at byte i of a message (11.7). -/
def Message.three (m : Message) (i : Nat) : Nat :=
  65536 * (m.byte i).toNat + 256 * (m.byte (i + 1)).toNat + (m.byte (i + 2)).toNat

/-- The handle at byte i of a message: bank, slot and epoch (11.7). -/
def Message.handle (m : Message) (i : Nat) : Handle := ⟨m.byte i, m.byte (i + 1), m.byte (i + 2)⟩

/-- The date at byte i of a message: year - 2000, month and day (11.7). -/
def Message.date (m : Message) (i : Nat) : Date :=
  ⟨2000 + (m.byte i).toNat, (m.byte (i + 1)).toNat, (m.byte (i + 2)).toNat⟩

/-- A message has this length and is not overlong (R188). -/
def Message.hasLength (m : Message) (length : Nat) : Prop := m.bytes.length = length ∧ m.overlong = false

/-- A row of the custodian requests: the command, its code, mode gate, switch requirement, and whether a message has
its form. -/
structure CustRequest where
  command : Instr
  code : Byte
  gate : Mode → Option OutcomeCode
  need : SwitchNeed
  form : State → Message → Bool

/-- The nineteen custodian requests (R36, R47, R122, R142, R170, R183, 11.7). -/
def custRequests : List CustRequest :=
  [⟨.openCeremony, codeOpen, gateService, .both, fun _ m => (parseOpen m).isSome⟩,
   ⟨.component, codeComponent, gateService, .both, fun _ m => (parseComponent m).isSome⟩,
   ⟨.commit, codeCommit, gateService, .both, fun _ m => (parseCommit m).isSome⟩,
   ⟨.abandon, codeAbandon, gateService, .neither, fun _ m => (parseNone m).isSome⟩,
   ⟨.allocate, codeAllocate, gateService, .either, fun _ m => (parseAllocate m).isSome⟩,
   ⟨.hold, codeHold, gateService, .either, fun _ m => (parseHandle m).isSome⟩,
   ⟨.unhold, codeUnhold, gateService, .either, fun _ m => (parseHandle m).isSome⟩,
   ⟨.retire, codeRetire, gateService, .both, fun _ m => (parseRetire m).isSome⟩,
   ⟨.reclaim, codeReclaim, gateRecovery, .both, fun _ m => (parseReclaim m).isSome⟩,
   ⟨.openServiceWindow, codeOpenWindow, gateService, .both, fun _ m => (parseNone m).isSome⟩] ++
  [⟨.closeServiceWindow, codeCloseWindow, gateService, .either, fun _ m => (parseNone m).isSome⟩,
   ⟨.setAlarmMask, codeSetMask, gateService, .either, fun _ m => (parseFlags m).isSome⟩,
   ⟨.clearAlarms, codeClearAlarms, gateClears, .either, fun _ m => (parseFlags m).isSome⟩,
   ⟨.clearNvFault, codeClearFault, gateRecovery, .either, fun _ m => (parseNone m).isSome⟩,
   ⟨.clearResetFlags, codeClearReset, gateClears, .either, fun _ m => (parseNone m).isSome⟩,
   ⟨.zeroize, codeZeroize, gateService, .both, fun _ m => (parseNone m).isSome⟩,
   ⟨.rearm, codeRearm, gateRearm, .both, fun _ m => (parseNone m).isSome⟩,
   ⟨.setTime, codeSetTime, gateRecovery, .both, fun _ m => (parseSetTime m).isSome⟩,
   ⟨.commission, codeCommission, gateCommission, .both, fun s m => (parseCommission s.fuses m).isSome⟩]

/-- The directory with the target reservation of a slot's bank cleared (R18). -/
def State.unreserved (s : State) (n : SlotNo) : Directory :=
  { s.directory with
    banks := put s.directory.banks (bankOf n) { s.directory.banks[bankOf n] with reserved := false } }

/-- The binding table with one position replaced. -/
def State.positionsWith (s : State) (e : Line) (p : Pos) (x : Position) : Vector (Vector Position 4) 4 :=
  put s.positions e (put s.positions[e] p x)

/-- A reply with its check word (R86). -/
def withCheckWord (body : List Byte) : List Byte := body ++ cwBytes (checkWord body)

/-- A slot may be bound on a line (R63, checks 2 to 5): ACTIVE without retire-pending, in the port's domain and
classes, not held, and valid now. -/
def State.bindable (s : State) (l : Line) (n : SlotNo) : Prop :=
  s.directory.slots[n].state = .active ∧ s.directory.slots[n].retirePending = false ∧
  hDomain s.directory.slots[n].header = s.allocations[l].domain ∧
  classInMask (hClass s.directory.slots[n].header) s.allocations[l].mask = true ∧
  s.retention.slots[n].hold = false ∧
  judge s.retention.calendar s.directory.slots[n].header = .valid

/-! ## Cards (R62) -/

/-- The cards a position has reserved on a slot. -/
def Position.reservedOn (n : SlotNo) (x : Position) : Nat :=
  match x.binding with
  | some b => if b.slot = n then b.reservation else 0
  | none => 0

/-- The cards the live bindings of a slot have reserved. -/
def State.reserved (s : State) (n : SlotNo) : Nat := (s.allPositions.map (·.reservedOn n)).sum

/-- R62 for one slot: while it is metered and ACTIVE or RETIRED, the remaining allowance, the reservations on it and the
issued total make its initial allowance. -/
def State.conserves (s : State) (n : SlotNo) : Prop :=
  ∀ cards : Nat, hAllowance s.directory.slots[n].header = some cards →
    (s.directory.slots[n].state = .active ∨ s.directory.slots[n].state = .retired) →
    s.retention.slots[n].remaining + s.reserved n + s.retention.slots[n].issued = cards

/-- The entry of a RELEASE ALL for a position and its used count, as its taking leaves it (R71, R73, 11.6). -/
def releaseEntry (x : Position) (used : Nat) : ReleaseEntry :=
  match x with
  | .free => .settled 0x00 0 false
  | .blocked => .settled 0x15 0 false
  | .loading _ _ => .settled 0x15 0 false
  | .bound _ => .wait used
  | .clearing _ _ => .wait used
  | .ended b .recalled _ => .settled 0x16 (min used b.reservation) (decide (b.reservation < used))
  | .ended b .engineLost _ => .settled 0x17 (min used b.reservation) (decide (b.reservation < used))

/-- Whether a position is BOUND. -/
def Position.isBound : Position → Bool
  | .bound _ => true
  | _ => false

/-- The position a RELEASE ALL leaves by its taking alone (R71, R73). -/
def Position.released (x : Position) : Position :=
  match x with
  | .bound b => .clearing b .release
  | .ended _ _ unclean => if unclean then .blocked else .free
  | .free => .free
  | .blocked => .blocked
  | .loading b r => .loading b r
  | .clearing b k => .clearing b k

/-! ## What an engine's fall settles (R61, R69, R71, R73, R78) -/

/-- The cards that the loss of an engine returns from a position to a slot's remaining allowance: a LOADING position's
reservation, and of a CLEARING one that a release waits on what its used count leaves. -/
def State.fallReturns (s : State) (n : SlotNo) (e : Line) (p : Pos) : Nat :=
  match s.pos e p, s.waitingUsed e p with
  | .loading b _, _ => if b.slot = n then b.reservation else 0
  | .clearing b _, some used => if b.slot = n then b.reservation - min used b.reservation else 0
  | _, _ => 0

/-- The cards that the loss of an engine charges to a slot for the release that waits on a CLEARING position. -/
def State.fallIssues (s : State) (n : SlotNo) (e : Line) (p : Pos) : Nat :=
  match s.pos e p, s.waitingUsed e p with
  | .clearing b _, some used => if b.slot = n then min used b.reservation else 0
  | _, _ => 0

/-! ## Replies (R88) -/

/-- The kinds and bytes of the replies that answer a frame: they echo the position, and a REFUSE's reason is 1 to 15. -/
def FrameKind.answeredBy (f : FrameKind) (kind : Byte) (body : List Byte) : Prop :=
  match f with
  | .load p _ _ _ =>
    (kind = 0x81 ∧ body = [BitVec.ofNat 8 p.val]) ∨
    (kind = 0x82 ∧ ∃ reason : Byte, body = [BitVec.ofNat 8 p.val, reason] ∧ 1 ≤ reason.toNat ∧ reason.toNat ≤ 15)
  | .clear p => kind = 0x83 ∧ body = [BitVec.ofNat 8 p.val]
  | .clearAll => kind = 0x83 ∧ body = []

/-- The transmitter once the frame at the head of its queue has its outcome (R88 to R90). -/
def State.frameOver (s : State) (e : Line) : Vector Transmitter 4 :=
  put s.buses e { s.buses[e] with queue := s.buses[e].queue.tail, state := .idle, replyTimer := false }

/-! ## What the windows show (11.7) -/

/-- The bytes of a record from an offset on. -/
def fieldAt (record : List Byte) (offset length : Nat) : List Byte := (record.drop offset).take length

/-- The fields of custody status that every mode shows, with their offsets (11.7). Bytes 8 and 9 are 0 with the window closed
(log 51), and a timer shows whole seconds, rounded down (log 41). -/
def State.statusFields (s : State) : List (Nat × List Byte) :=
  let r := s.retention
  [(0, [s.custody.present.byte]), (1, [s.resumeMode.byte]), (2, [r.resetFlags]), (3, [r.pendingMarks]),
   (4, [r.alarmFlags]), (5, [r.alarmMask]),
   (6, [bitsByte [s.custody.csa, s.custody.csb, s.doorOpen, s.meshBroken, s.monitor.supplyHigh, r.batteryLow,
     s.enclosure.isSome]]),
   (7, match s.monitor.windowTimer with
     | none => [0, 0, 0]
     | some left => 1 :: be16 (left / 32768)),
   (10, s.calendarBytes)] ++
  [(20, [BitVec.ofNat 8 r.tamper.zCount]), (21, [sourceByte r.tamper.zCause]), (22, stampBytes r.tamper.zTime),
   (28, [placeByte r.tamper.zPlace]), (29, [BitVec.ofNat 8 r.tamper.eCount]), (30, [sourceByte r.tamper.eSource]),
   (31, [eventOutcomeByte r.tamper.eOutcome]), (32, stampBytes r.tamper.eTime), (38, [bitsByte r.owed.toList]),
   (39, [BitVec.ofNat 8 r.nextTest.val])]

/-- The fields of custody status that read 00 in HALTED and UNCOMMISSIONED (R192, log 24), with their offsets (11.7). While an
erase is being suspended it is shown executing (log 45), and a PROGRAMMING ceremony's inactivity seconds are 0 (log 48). -/
def State.runningFields (s : State) : List (Nat × List Byte) :=
  [(17, be16 s.retention.baseline), (19, [BitVec.ofNat 8 s.monitor.failCount])] ++
  (four.map fun b => (40 + 11 * b.val, s.retention.tests[b].bytes)) ++
  (four.map fun b => (84 + b.val, [s.directory.banks[b].byte])) ++
  (four.map fun b => (88 + 2 * b.val, be16 s.array.headers[b].eraseCount)) ++
  [(96, [boolByte s.control.fault]), (97, execBytes s.control.exec),
   (99, [match s.control.suspended with
     | none => 0xFF
     | some b => BitVec.ofNat 8 b.val]),
   (100, match s.ceremony.current with
     | none => List.replicate 14 0
     | some o => ([if o.programming then 2 else 1] : List Byte) ++ o.handle.bytes ++ [BitVec.ofNat 8 o.slot.val, o.domain, o.cls,
         BitVec.ofNat 8 o.len, boolByte o.odd, BitVec.ofNat 8 o.count, (match o.next with
           | .at i => BitVec.ofNat 8 i
           | .complete => 0x0F), BitVec.ofNat 8 o.mismatches] ++ be16 (if o.programming then 0 else o.timer / 32768)),
   (114, [match s.ceremony.undelivered with
     | none => 0
     | some c => c.byte])]

/-! ## The Array Controller's turns (R100, R108, R111, R158) -/

/-- Client k has the next turn: of the clients from the one after the last served on, none before it has a read waiting. -/
def ArrayControl.turnOf (c : ArrayControl) (k : Fin 5) : Prop :=
  ∃ j < 5, k.val = (c.lastServed.val + 1 + j) % 5 ∧
    ∀ i < j, ∀ k' : Fin 5, k'.val = (c.lastServed.val + 1 + i) % 5 → c.readWaits k' = false

/-- Client k has the next turn of the lines, the scheduler being passed over (R111). -/
def ArrayControl.lineTurnOf (c : ArrayControl) (k : Fin 5) : Prop :=
  ∃ j < 5, k.val = (c.lastServed.val + 1 + j) % 5 ∧
    ∀ i < j, ∀ k' : Fin 5, k'.val < 4 → k'.val = (c.lastServed.val + 1 + i) % 5 → c.readWaits k' = false

/-- The suspended erase executes again, and the times of its suspension are 0 (R111). -/
def ArrayControl.resumedOn (c : ArrayControl) (b : Bank) : ArrayControl :=
  { c with exec := some (.erase b false), suspended := none, capReached := false, runTime := 0, suspendTime := 0 }

/-- The Array Controller once a read has ended or been withdrawn: a suspended erase resumes when nothing executes and no
line read waits, or the cap has been reached (R111). -/
def ArrayControl.afterReads (c : ArrayControl) : ArrayControl :=
  match c.suspended with
  | none => c
  | some b => if c.exec = none ∧ (c.capReached = true ∨ ∀ l : Line, c.lineWait[l] = none) then c.resumedOn b else c

/-- A waiting pattern test of a bank that is ERASING is skipped: its record says so, and its counts stay. -/
def State.skipped (s : State) (b : Bank) : State :=
  { s with
    control := { s.control with testWait := none }
    retention := { s.retention with
      tests := put s.retention.tests b { s.retention.tests[b] with last := some .skipped, time := s.stamp }
      nextTest := s.retention.nextTest + 1 } }

/-! ## Standing sources (R170) -/

/-- A source's condition stands, for a REARM to raise (R170): COMMAND and RETENTION_LOSS have none. -/
def State.stands (s : State) : Source → Prop
  | .door => s.doorOpen = true ∧ s.monitor.windowTimer = none
  | .mesh => s.meshBroken = true
  | .supplyHigh => s.monitor.supplyHigh = true
  | .clock => s.failLimit ≤ s.monitor.failCount
  | .command => False
  | .retentionLoss => False

/-- The action a standing source is raised with (R149, R151, R170). -/
def State.standingAction (s : State) : Source → Action
  | .door => s.doorAction
  | .mesh => .zeroize
  | .supplyHigh => s.supplyAction
  | .clock => s.clockAction
  | .command => .zeroize
  | .retentionLoss => .zeroize

/-! ## A zeroization -/

/-- What t shows after a running zeroization with this source has begun in s (R164, R14, R52, R61, R80, R97, R106, R116,
R162, R166, R187), and what it leaves as it stood. Each transmitter breaks off a frame being sent, keeps the outstanding one as
stale, discards the rest of its queue, and queues a CLEAR-ALL to a ready engine (R97; stale and lastEnd are the model's own fields, logs 27 and 33).
That a RETIRE's or RECLAIM's ZEROIZED completion stands behind a report of the same step is the model's choice (log 16). -/
def Zeroized (s t : State) (src : Source) : Prop :=
  (∀ b : Bank, t.retention.covers[b] = { value := Vector.replicate 32 0, valid := false }) ∧
  t.custody = { s.custody with present := .zeroizing } ∧ t.retention.resume = .zeroizing ∧
  (∀ b : Bank, t.retention.owed[b] = true) ∧
  t.retention.tamper =
    { zCount := min 255 (s.retention.tamper.zCount + 1), zCause := some src, zTime := s.stamp,
      zPlace := some .running, eCount := min 255 (s.retention.tamper.eCount + 1), eSource := some src,
      eOutcome := some .zeroized, eTime := s.stamp } ∧
  t.retention.alarmFlags = s.retention.alarmFlags ||| 0x80 |||
    (match src with
      | .door => 0x01 | .mesh => 0x02 | .supplyHigh => 0x04 | .clock => 0x10
      | .command => 0x00 | .retentionLoss => 0x00) ∧
  (∀ n : SlotNo, t.directory.slots[n] =
    if s.directory.slots[n].state = .empty then s.directory.slots[n]
    else { s.directory.slots[n] with state := .lost, retirePending := false }) ∧
  (∀ n : SlotNo, s.retention.slots[n].issued ≤ 16777215 → t.retention.slots[n] =
    { s.retention.slots[n] with issued := min 16777215 (s.retention.slots[n].issued + s.reserved n) }) ∧
  (∀ b : Bank, t.directory.banks[b].lost = true) ∧ t.directory.banks[(0 : Bank)].condition = .erasing ∧
  (∀ b : Bank, b ≠ 0 → t.directory.banks[b].condition =
    if b ∈ s.control.erasingBanks then .eraseIncomplete else s.directory.banks[b].condition) ∧
  t.control.custodyWait = some 0 ∧ t.control.exec = none ∧ t.control.suspended = none ∧
  t.control.fault = s.control.fault ∧
  (∀ (e : Line) (p : Pos), t.pos e p = .free) ∧ (∀ l : Line, t.lineProgress[l] = none) ∧
  (∀ l : Line, t.lineLinks[l] = { s.lineLinks[l] with completions := s.lineLinks[l].completions ++
    (match s.lineProgress[l] with
      | some x => [{ tag := x.tag, code := x.code, outcome := .zeroized, data := [] }]
      | none => []) }) ∧
  t.custLink = { s.custLink with requests := t.custLink.requests, completions := t.custLink.completions } ∧
  (∀ tag h n recalled, s.custProgress = some (.retire tag h n recalled) → t.custProgress = none ∧
    t.custLink.completions.getLast? = some ⟨tag, codeRetire, .zeroized, []⟩) ∧
  (∀ tag b epoch, s.custProgress = some (.reclaim tag b epoch) → t.custProgress = none ∧
    t.custLink.completions.getLast? = some ⟨tag, codeReclaim, .zeroized, []⟩) ∧
  (∀ tag o, s.custProgress = some (.commit tag) → s.ceremony.current = some o → o.programming = true →
    t.custProgress = none ∧
    t.custLink.completions = s.custLink.completions ++ [⟨tag, codeCommit, .zeroized, []⟩]) ∧
  (∀ o, s.ceremony.current = some o → o.programming = false →
    ⟨o.tag, 0x00, .abandoned, 0x06 :: o.handle.bytes⟩ ∈ t.custLink.completions ∨
      t.ceremony.undelivered = some .zeroization) ∧
  (∀ e : Line, t.buses[e] = { s.buses[e] with
    queue := (if s.buses[e].state = .awaiting
        then (s.buses[e].queue.take 1).map fun f => { f with stale := true } else []) ++
      (if s.buses[e].ready then [{ kind := .clearAll, stale := false }] else [])
    state := if s.buses[e].state = .sending then .idle else s.buses[e].state
    buffer := Vector.replicate 32 0
    lastEnd := if s.buses[e].state = .sending then .sendAbort else s.buses[e].lastEnd }) ∧
  t.ceremony.current = none ∧ (s.ceremony.current ≠ none → t.ceremony.buffer = Vector.replicate 32 0) ∧
  t.allocations = s.allocations ∧ t.fuses = s.fuses ∧ t.retention.calendar = s.retention.calendar ∧
  t.retention.alarmMask = s.retention.alarmMask ∧
  t.monitor.windowTimer = s.monitor.windowTimer ∧ t.monitor.intervalTimer = none

/-- The completions that the beginning of a running zeroization writes on the custodian port (R49, R52, R106): the report
of a COLLECTING ceremony where an entry is free, or a PROGRAMMING one's COMMIT; then a RETIRE or RECLAIM that waits, behind a
report by the model's choice (log 16). -/
def State.zeroizationReports (s : State) (free : Bool) : List Completion :=
  (match s.ceremony.current, s.custProgress with
    | none, _ => []
    | some o, x =>
      if o.programming then
        match x with
        | some (.commit tag) => [⟨tag, codeCommit, .zeroized, []⟩]
        | _ => []
      else if free then [⟨o.tag, 0x00, .abandoned, 0x06 :: o.handle.bytes⟩] else []) ++
  (match s.custProgress with
    | some (.retire tag _ _ _) => [⟨tag, codeRetire, .zeroized, []⟩]
    | some (.reclaim tag _ _) => [⟨tag, codeReclaim, .zeroized, []⟩]
    | _ => [])

/-- The undelivered cause after the beginning of a running zeroization (R49): kept for a COLLECTING ceremony that found no free
entry. -/
def State.zeroizationUndelivered (s : State) (free : Bool) : Option Cause :=
  match s.ceremony.current with
  | none => s.ceremony.undelivered
  | some o => if o.programming = false ∧ free = false then some .zeroization else s.ceremony.undelivered

/-- A running zeroization begun by an event: what Zeroized says, the custodian port's queue kept (R194), and its reports
written where an entry is free. -/
def ZeroizedByEvent (s t : State) (src : Source) : Prop :=
  Zeroized s t src ∧ t.custLink.requests = s.custLink.requests ∧
  t.custLink.completions = s.custLink.completions ++ s.zeroizationReports s.custEntryFree ∧
  t.ceremony.undelivered = s.zeroizationUndelivered s.custEntryFree

/-! ## A tamper event by the mode it finds (R163) -/

/-- The alarm flag of a source (R160). -/
def Source.flag : Source → Byte
  | .door => 0x01
  | .mesh => 0x02
  | .supplyHigh => 0x04
  | .clock => 0x10
  | .command => 0x00
  | .retentionLoss => 0x00

/-- An event that destroys nothing: its flag is latched and the tamper record's event part written (R160, R162). -/
def State.eventEntered (s : State) (src : Source) (oc : EventOutcome) : State :=
  { s with retention := { s.retention with
      alarmFlags := s.retention.alarmFlags ||| src.flag
      tamper := { s.retention.tamper with
        eCount := min 255 (s.retention.tamper.eCount + 1), eSource := some src, eOutcome := some oc, eTime := s.stamp } } }

/-- An unpowered zeroization has begun (R168): the battery domain's part, and the directory where one is in use. -/
def ZeroizedUnpowered (s t : State) (src : Source) : Prop :=
  t = { s with
    retention := { s.retention with
      covers := Vector.replicate 4 { value := Vector.replicate 32 0, valid := false }
      resume := .zeroizing
      owed := Vector.replicate 4 true
      alarmFlags := s.retention.alarmFlags ||| 0x80 ||| src.flag
      tamper :=
        { zCount := min 255 (s.retention.tamper.zCount + 1), zCause := some src, zTime := s.stamp
          zPlace := some .unpowered, eCount := min 255 (s.retention.tamper.eCount + 1), eSource := some src
          eOutcome := some .zeroized, eTime := s.stamp } }
    directory := t.directory } ∧
  (s.directory.inUse = false → t.directory = s.directory) ∧
  (s.directory.inUse = true → t.directory.inUse = true ∧
    (∀ n : SlotNo, t.directory.slots[n] = if s.directory.slots[n].state = .empty then s.directory.slots[n]
      else { s.directory.slots[n] with state := .lost, retirePending := false }) ∧
    ∀ b : Bank, t.directory.banks[b] = { s.directory.banks[b] with lost := true })

/-- What t shows after an event with this action in s, whose judgement s has already taken up (R163): in SERVICE it alarms or
begins a zeroization; in ZEROIZING and RECOVERY it is recorded; in BACKUP, STARTING and HALTED it alarms or begins an
unpowered zeroization when the resume mode is SERVICE, and is recorded otherwise; in UNCOMMISSIONED there are no events
(R149). -/
def JudgedByMode (s t : State) (src : Source) (act : Action) : Prop :=
  (s.custody.present = .service →
    (act = .alarm → t = s.eventEntered src .alarmed) ∧ (act = .zeroize → ZeroizedByEvent s t src)) ∧
  (s.custody.present = .zeroizing ∨ s.custody.present = .recovery → t = s.eventEntered src .recorded) ∧
  (s.custody.present = .backup ∨ s.custody.present = .starting ∨ s.custody.present = .halted →
    (s.retention.resume = .service →
      (act = .alarm → t = s.eventEntered src .alarmed) ∧ (act = .zeroize → ZeroizedUnpowered s t src)) ∧
    (s.retention.resume ≠ .service → t = s.eventEntered src .recorded)) ∧
  (s.custody.present = .uncommissioned → t = s)

/-! ## A write refused by the fault flag (R46, R114, R126, R129) -/

/-- What becomes, from s to t, of the writes that wait when a failed write sets the fault flag: the flag, the NV_FAULT
latch, and both waiting slots empty, each refusal with its effect on its client and the held request behind it. -/
def WaitingRefused (s t : State) : Prop :=
  t.control.fault = true ∧ t.retention.alarmFlags = s.retention.alarmFlags ||| 0x40 ∧
  t.control.ceremonyWait = none ∧ t.control.adminWait = none ∧
  (∀ r o tag, s.control.ceremonyWait = some r → s.ceremony.current = some o → s.custProgress = some (.commit tag) →
    t.ceremony = { s.ceremony with current := none, buffer := Vector.replicate 32 0 } ∧
    t.directory.banks[bankOf o.slot].reserved = false ∧ t.custProgress = none ∧
    t.custLink.completions = s.custLink.completions ++ [⟨tag, codeCommit, .nvFault, []⟩]) ∧
  (∀ n, s.control.adminWait = some (.mark n) →
    t.directory.slots[n].retirePending = false ∧
    (s.directory.slots[n].state = .active → t.directory.slots[n].state = .retired ∧ t.retention.slots[n].latch = true)) ∧
  (∀ b prior, s.control.adminWait = some (.erase b prior) → t.directory.banks[b].condition = prior) ∧
  (∀ tag h n recalled, s.control.adminWait.isSome = true → s.custProgress = some (.retire tag h n recalled) →
    t.custProgress = none ∧ t.directory.slots[n].retirePending = false ∧
    t.custLink.completions = s.custLink.completions ++
      [⟨tag, codeRetire, .ok, h.bytes ++ [BitVec.ofNat 8 recalled, 2]⟩]) ∧
  (∀ tag b epoch, s.control.adminWait.isSome = true → s.custProgress = some (.reclaim tag b epoch) →
    t.custProgress = none ∧
    t.custLink.completions = s.custLink.completions ++ [⟨tag, codeReclaim, .nvFault, []⟩])

/-! ## A completed erase (R2, R15, R103, R119, R120) -/

/-- What t shows of a bank whose erase has completed in s while the validity marker stands, and of the other banks. -/
def BankErased (s t : State) (b : Bank) : Prop :=
  (∀ n : SlotNo, t.array.records[n] = if bankOf n = b then SlotRecord.blank else s.array.records[n]) ∧
  t.array.headers = put s.array.headers b
    { eraseCount := min 65535 (s.array.headers[b].eraseCount + 1), erasing := false } ∧
  t.array.rows = put s.array.rows b referencePattern ∧
  (∀ n : SlotNo, t.directory.slots[n] = if bankOf n = b then SlotDir.cleared else s.directory.slots[n]) ∧
  (∀ n : SlotNo, t.retention.slots[n] = if bankOf n = b
    then { remaining := 0, issued := 0, hold := false, latch := false } else s.retention.slots[n]) ∧
  t.retention.covers[b].valid = true ∧ (∀ b', b' ≠ b → t.retention.covers[b'] = s.retention.covers[b']) ∧
  t.retention.tests = put s.retention.tests b TestRecord.initial ∧
  t.directory.banks[b] = { s.directory.banks[b] with
    condition := .ready, lost := false
    epoch := BitVec.ofNat 8 (min 65535 (s.array.headers[b].eraseCount + 1))
    degraded := decide (20000 ≤ min 65535 (s.array.headers[b].eraseCount + 1)) }

/-! ## A scan (R9, R10, R146, R176) -/

/-- What the scan that ends in t makes of a slot whose record reads r, line by line of R10. -/
def SlotScanned (t : State) (n : SlotNo) (r : SlotRecord) : Prop :=
  t.directory.slots[n].retirePending = false ∧
  t.directory.slots[n].shownNotYet = (judge t.retention.calendar t.directory.slots[n].header == .notYetActive) ∧
  t.directory.slots[n].shownExpired = (judge t.retention.calendar t.directory.slots[n].header == .expired) ∧
  (r.written = false →
    t.directory.slots[n].state = .empty ∧ t.directory.slots[n].header = Vector.replicate 22 0) ∧
  (r.written = true → t.retention.covers[bankOf n].valid = false →
    t.directory.slots[n].state = .lost ∧ t.directory.slots[n].header = r.header) ∧
  (r.written = true → t.retention.covers[bankOf n].valid = true →
    (rcwMatches r = false →
      t.directory.slots[n].state = .damaged ∧ t.directory.slots[n].header = Vector.replicate 22 0) ∧
    (rcwMatches r = true → t.directory.slots[n].header = r.header ∧ t.directory.slots[n].state =
      if t.array.headers[bankOf n].erasing = true ∨ kcwMatches r t.retention.covers[bankOf n].value = false then .damaged
      else if r.retire ≠ .blank ∨ t.retention.slots[n].latch = true then .retired
      else .active))

/-- Retention as step 5 reinitialises it, its marks collected (R175, R181). That marks pending before a reinitialisation went
with retention is log 12. -/
def freshRetention : Retention :=
  { marker := true
    covers := Vector.replicate 4 { value := Vector.replicate 32 0, valid := false }
    slots := Vector.replicate 128 { remaining := 0, issued := 0, hold := false, latch := false }
    calendar := { date := ⟨2000, 1, 1⟩, time := ⟨0, 0, 0⟩, set := false, counting := false, sub := 0 }
    baseline := 3906, alarmFlags := 0, alarmMask := 0xFF
    tamper :=
      { zCount := 0, zCause := none, zTime := none, zPlace := none, eCount := 0, eSource := none, eOutcome := none
        eTime := none }
    tests := Vector.replicate 4 { last := none, mismatches := 0, fails := 0, firstFail := none, time := none }
    nextTest := 0, owed := Vector.replicate 4 false, batteryLow := false, enclosure := none, doorTamper := false
    meshTamper := false, resetFlags := 0x03, pendingMarks := 0, resume := .service }

/-- The enclosure settings of a verified record (R150). -/
def settingsOf (fuses : Vector Byte 64) : EnclosureSettings :=
  { doorHigh := fuses[2].getLsbD 2, meshHigh := fuses[2].getLsbD 3
    doorAction := if fuses[3] = 2 then .alarm else .zeroize }

/-- What steps 5 to 7 with a verified record make of s (R9, R10, R150, R169, R175 to R177, R181), given how the slots'
reads differ from the cells (log 10). -/
def Scanned (s t : State) (drift : List (Nat × List Byte)) : Prop :=
  t.custody.present = .starting ∧ t.custody.phase = .clearAllWait ∧ t.custody.record = .verified ∧
  t.directory.inUse = true ∧ t.retention.marker = true ∧ t.retention.pendingMarks = 0 ∧ t.array = s.array ∧
  t.fuses = s.fuses ∧
  t.retention.enclosure = some (settingsOf s.fuses) ∧
  (∀ b : Bank, t.directory.banks[b].epoch = BitVec.ofNat 8 s.array.headers[b].eraseCount ∧
    t.directory.banks[b].condition = (if s.array.headers[b].erasing then .eraseIncomplete else .ready) ∧
    t.directory.banks[b].lost = (!t.retention.covers[b].valid) ∧ t.directory.banks[b].reserved = false ∧
    (t.directory.banks[b].degraded = true ↔
      20000 ≤ s.array.headers[b].eraseCount ∨ t.testFailThreshold ≤ t.retention.tests[b].fails)) ∧
  (∀ n : SlotNo, SlotScanned t n (asRead s.array.records[n] (driftOf drift n))) ∧
  (s.retention.marker = true →
    t.retention = { s.retention with
      resetFlags := s.retention.resetFlags ||| s.retention.pendingMarks, pendingMarks := 0
      enclosure := some (settingsOf s.fuses), slots := t.retention.slots, baseline := t.retention.baseline } ∧
    ∀ n : SlotNo, t.retention.slots[n] =
      if t.directory.slots[n].state = .active ∧ s.retention.slots[n].remaining = 0 ∧ s.retention.slots[n].issued = 0
      then { s.retention.slots[n] with remaining := (hAllowance t.directory.slots[n].header).getD 0 }
      else s.retention.slots[n]) ∧
  (s.retention.marker = false →
    ((∃ n : SlotNo, s.array.records[n].written = true) → t.retention = { freshRetention with
      enclosure := some (settingsOf s.fuses), resume := .zeroizing, owed := Vector.replicate 4 true, alarmFlags := 0x80
      tamper :=
        { zCount := 1, zCause := some .retentionLoss, zTime := none, zPlace := some .unpowered, eCount := 1
          eSource := some .retentionLoss, eOutcome := some .zeroized, eTime := none } }) ∧
    ((∀ n : SlotNo, s.array.records[n].written = false) →
      t.retention = { freshRetention with enclosure := some (settingsOf s.fuses) }))

/-! ## Invariants -/

/-- Nothing of a key outside the array is left open: no line request in progress, no ceremony, transfer buffers and
assembly buffer at 00, no binding in the table. -/
def State.quiet (s : State) : Prop :=
  (∀ l : Line, s.lineProgress[l] = none) ∧ (∀ e : Line, s.buses[e].buffer = Vector.replicate 32 0) ∧
  s.ceremony.current = none ∧ (∀ (e : Line) (p : Pos), (s.pos e p).binding = none)

/-- The clear keys of the part are confined to SERVICE (the Note after R164, R167): outside it the part is quiet, an
idle ceremony's assembly buffer is 00, and Custody Control erases only in ZEROIZING, one bank at a time (R166). -/
def State.keySafe (s : State) : Prop :=
  (s.custody.present ≠ .service → s.quiet) ∧
  (s.ceremony.current = none → s.ceremony.buffer = Vector.replicate 32 0) ∧
  (s.control.custodyBusy = true → s.custody.present = .zeroizing) ∧
  (s.control.custodyWait.isSome = true → ∀ b : Bank, s.control.exec ≠ some (.erase b true))

/-- The directory is in use only with a verified record, in a served mode or at the end of a start-up (R8, R147),
and there each bank's lost flag says that its cover is invalid (R6) and its slots are then LOST or EMPTY (R14). -/
def State.directoryCoherent (s : State) : Prop :=
  s.directory.inUse = true →
    s.custody.record = .verified ∧
    (s.lineServed = true ∨ (s.custody.present = .starting ∧ s.custody.phase = .clearAllWait)) ∧
    (∀ b : Bank, s.directory.banks[b].lost = !s.coverValid b) ∧
    ∀ n : SlotNo, s.directory.banks[bankOf n].lost = true →
      s.directory.slots[n].state = .lost ∨ s.directory.slots[n].state = .empty

/-- The calendar holds a valid date and time and a sub-second count below 32,768 (R139, R141). -/
def State.calendarLegal (s : State) : Prop :=
  validDate s.retention.calendar.date = true ∧ validTime s.retention.calendar.time = true ∧
    s.retention.calendar.sub < 32768

/-- In SERVICE, ZEROIZING and RECOVERY the present mode equals the resume mode while retention is held (R171). -/
def State.modesAgree (s : State) : Prop :=
  s.retention.marker = true → s.lineServed = true → s.custody.present = s.retention.resume.mode

end Sys2Proof.Machine
end

