-- ==== Sys2Proof/Certificates/Slice0/Obligations.lean ====
section
/-! DEFINITION. The statements for the provers. A statement that gives the next state as an update of s says with it
that every other field is as before. -/

open Sys2Proof Sys2Proof.Machine

/-! ## The machine -/

/-- The values of State.reset: the part is off, nothing is queued, and the blocks stand as R37, R84, R105, R108, R157
have them after a start-up. That it is a new part whose retention was never valid is the model's choice (log 4). -/
def Obligations.ResetIsAnUnpoweredIdlePart : Prop :=
  State.reset.pending = [] ∧ State.reset.custody.present = .backup ∧ State.reset.positions = noPositions ∧
  (∀ e : Line, State.reset.buses[e].queue = [] ∧ State.reset.buses[e].state = .idle ∧
    State.reset.buses[e].buffer = Vector.replicate 32 0 ∧ State.reset.buses[e].frameNumber = 0 ∧
    State.reset.buses[e].replyTimer = false ∧ State.reset.buses[e].ready = false) ∧
  State.reset.ceremony.current = none ∧ State.reset.ceremony.buffer = Vector.replicate 32 0 ∧
  State.reset.control.exec = none ∧ State.reset.control.suspended = none ∧ State.reset.control.fault = false ∧
  State.reset.control.lastServed = 4 ∧ (∀ l : Line, State.reset.allocations[l] = { domain := 0, mask := 0 }) ∧
  State.reset.directory.inUse = false ∧ State.reset.retention.marker = false ∧
  (∀ n : SlotNo, State.reset.array.records[n].written = false) ∧ State.reset.fuses[61] = 0

/-- The command at the front of the queue runs on the queue's rest. On an empty queue one cycle of the retention clock
passes (the model's choice, log 13): every running timer falls by one, the sub-second count of a counting calendar rises by
one, and the expiries of the timers that the cycle brings to 0 or finds there are queued; the CLEAR-ALL of a start-up's step 7
is offered once an engine is ready (log 17); what does not count with the clock stays. -/
def Obligations.StepRunsTheFrontCommand : Prop :=
  (∀ (s : State) (c : Instr) (rest : List Instr), s.pending = c :: rest →
    step s = exec c { s with pending := rest }) ∧
  (∀ s : State, s.pending = [] → ∃ t, step s = .next t ∧
    (Instr.ceremonyTimeout ∈ t.pending ↔
      ∃ o, s.ceremony.current = some o ∧ o.programming = false ∧ o.timer ≤ 1) ∧
    (Instr.serviceWindowExpiry ∈ t.pending ↔ ∃ k, s.monitor.windowTimer = some k ∧ k ≤ 1) ∧
    (Instr.patternTestInterval ∈ t.pending ↔
      s.custody.present = .service ∧ ∃ k, s.monitor.intervalTimer = some k ∧ k ≤ 1) ∧
    (Instr.calendarSecond ∈ t.pending ↔
      s.retention.calendar.counting = true ∧ s.retention.calendar.sub = 32767) ∧
    (∀ c ∈ t.pending, c ∈ [Instr.ceremonyTimeout, .serviceWindowExpiry, .patternTestInterval, .calendarSecond]) ∧
    t.ceremony = { s.ceremony with current := s.ceremony.current.map fun o =>
      if o.programming then o else { o with timer := o.timer - 1 } } ∧
    t.monitor = { s.monitor with
      windowTimer := s.monitor.windowTimer.map fun k => k - 1
      intervalTimer := s.monitor.intervalTimer.map fun k => k - 1 } ∧
    t.custody = { s.custody with
      restart := s.custody.restart.map fun k => k - 1
      offers := t.custody.offers } ∧
    t.retention = { s.retention with calendar := { s.retention.calendar with
      sub := if s.retention.calendar.counting then min 32767 (s.retention.calendar.sub + 1)
        else s.retention.calendar.sub } } ∧
    (∀ e : Line, s.custody.present = .starting → s.custody.phase = .clearAllWait →
      (∃ e' : Line, s.buses[e'].ready = true) →
      t.custody.offers[e] = (if s.custody.offers[e] = .toMake
        then (if s.buses[e].ready then .inFlight else .done) else s.custody.offers[e]) ∧
      t.buses[e] = (if s.custody.offers[e] = .toMake ∧ s.buses[e].ready = true
        then { s.buses[e] with queue := s.buses[e].queue ++ [{ kind := .clearAll, stale := false }] } else s.buses[e])) ∧
    (s.custody.present ≠ .starting ∨ s.custody.phase ≠ .clearAllWait ∨ (∀ e : Line, s.buses[e].ready = false) →
      t.custody.offers = s.custody.offers ∧ t.buses = s.buses) ∧
    t.lineProgress = s.lineProgress ∧ t.custProgress = s.custProgress ∧ t.draws = s.draws ∧
    t.array = s.array ∧ t.directory = s.directory ∧ t.positions = s.positions ∧ t.lineLinks = s.lineLinks ∧
    t.custLink = s.custLink ∧ t.control = s.control ∧ t.fuses = s.fuses ∧ t.allocations = s.allocations)

/-- No command faults or refuses, and none touches the queue behind it. That a command whose event cannot take place
changes nothing is the model's choice (log 1), and so is the one queue itself (log 3). -/
def Obligations.EveryCommandCompletesAndKeepsTheQueue : Prop :=
  ∀ (c : Instr) (s : State), ∃ t, exec c s = .next t ∧ t.pending = s.pending

/-- keySafe is kept by every step. -/
def Obligations.KeySafeIsKept : Prop :=
  ∀ s t : State, s.keySafe → step s = .next t → t.keySafe

/-- The directory's lost flags keep mirroring the covers, and the slots of a bank without a valid one LOST or EMPTY. -/
def Obligations.DirectoryCoherenceIsKept : Prop :=
  ∀ s t : State, s.directoryCoherent → step s = .next t → t.directoryCoherent

/-- The calendar stays legal. -/
def Obligations.CalendarStaysLegal : Prop :=
  ∀ s t : State, s.calendarLegal → step s = .next t → t.calendarLegal

/-- The present and the resume mode keep agreeing. -/
def Obligations.ModesKeepAgreeing : Prop :=
  ∀ s t : State, s.modesAgree → step s = .next t → t.modesAgree

/-- The invariants hold at State.reset. -/
def Obligations.InvariantsHoldAtReset : Prop :=
  State.reset.keySafe ∧ State.reset.directoryCoherent ∧ State.reset.calendarLegal ∧ State.reset.modesAgree

/-! ## Port links -/

/-- REQUEST_ADMITTED (R185, R187): a transaction from its start, whole or in part, with what the port acknowledges of
its address, its code and each message byte; a later part of one in progress; and a start that finds a message being
assembled, which it ends and admits. What is kept of the acknowledgements is log 20; that bytes behind a refused code are
refused is the model's choice (log 50). First, where and when each port answers (R171, R178, R184, R185) and when it takes the
request code (R186, R187): that a part halted with no verified record answers at the factory address is log 22. -/
def Obligations.RequestAdmittedQueuesTheMessage : Prop :=
  (∀ (s : State) (addr : Address),
    (s.custody.present = .service ∨ s.custody.present = .zeroizing ∨ s.custody.present = .recovery →
      s.custody.record = .verified →
      (∀ l : Line, s.acknowledges (.line l) addr = true ↔ addr.toNat = s.fuses[0].toNat) ∧
      (s.acknowledges .cust addr = true ↔ addr.toNat = s.fuses[1].toNat)) ∧
    (s.custody.present ≠ .service → s.custody.present ≠ .zeroizing → s.custody.present ≠ .recovery →
      ∀ l : Line, s.acknowledges (.line l) addr = false) ∧
    (s.custody.present = .uncommissioned → (s.acknowledges .cust addr = true ↔ addr = 0x3C)) ∧
    (s.custody.present = .halted → (s.acknowledges .cust addr = true ↔
      addr.toNat = if s.custody.record = .verified then s.fuses[1].toNat else 0x3C)) ∧
    (s.custody.present = .starting ∨ s.custody.present = .backup → s.acknowledges .cust addr = false)) ∧
  (∀ s : State,
    (∀ l : Line, s.requestOpen (.line l) = true ↔
      s.lineLinks[l].requests.length < 4 ∧ s.custody.present ≠ .halted) ∧
    (s.requestOpen .cust = true ↔ s.custLink.requests.length < 2 ∧ s.custody.present ≠ .halted)) ∧
  ∀ (s : State) (p : Port) (addr : Address) (part : Part) (message : List Byte),
    (part.opens = true → (s.link p).transfer ≠ .message →
      (s.acknowledges p addr = true → s.requestOpen p = true →
        exec (.requestAdmitted p addr message part) s = .next (s.withLink p fun l => { l with
          window := some .request
          acks := true :: true :: List.replicate message.length true
          assembly := if part.closes then [] else message.take 64
          overlong := if part.closes then false else decide (64 < message.length)
          transfer := if part.closes then .idle else .message
          requests := if part.closes = true ∧ message ≠ []
            then l.requests ++ [{ bytes := message.take 64, overlong := decide (64 < message.length) }]
            else l.requests })) ∧
      (s.acknowledges p addr = true → s.requestOpen p = false →
        exec (.requestAdmitted p addr message part) s = .next (s.withLink p fun l => { l with
          acks := true :: false :: List.replicate message.length false
          transfer := if part.closes then .idle else .refusing })) ∧
      (s.acknowledges p addr = false →
        exec (.requestAdmitted p addr message part) s = .next (s.withLink p fun l => { l with
          acks := [false], transfer := .idle }))) ∧
    (part.opens = false → (s.link p).transfer = .message → (s.link p).assembly.length ≤ 64 →
      exec (.requestAdmitted p addr message part) s = .next (s.withLink p fun l => { l with
        acks := l.acks ++ List.replicate message.length true
        assembly := if part.closes then [] else (l.assembly ++ message).take 64
        overlong := if part.closes then false else l.overlong || decide (64 < (l.assembly ++ message).length)
        transfer := if part.closes then .idle else .message
        requests := if part.closes = true ∧ l.assembly ++ message ≠ []
          then l.requests ++ [{ bytes := (l.assembly ++ message).take 64
                                overlong := l.overlong || decide (64 < (l.assembly ++ message).length) }]
          else l.requests })) ∧
    (part.opens = false → (s.link p).transfer = .refusing →
      exec (.requestAdmitted p addr message part) s = .next (s.withLink p fun l => { l with
        acks := l.acks ++ List.replicate message.length false
        transfer := if part.closes then .idle else .refusing })) ∧
    (part.opens = true → (s.link p).transfer = .message →
      exec (.requestAdmitted p addr message part) s =
        exec (.requestAdmitted p addr message part) (s.withLink p fun l => { l with
          requests := if l.assembly = [] then l.requests
            else l.requests ++ [{ bytes := l.assembly, overlong := l.overlong }]
          assembly := [], overlong := false, transfer := .idle }))

/-- WINDOW_SELECT (R185, R186, R192): a write of a code, with the bytes after it refused where the window takes none; a
read of the window selected; and a write with a read behind it, which is the one and then the other. That bytes behind a
refused code are refused is the model's choice (log 50). -/
def Obligations.WindowSelectSelectsAndShows : Prop :=
  ∀ (s : State) (p : Port) (addr : Address),
    ((s.link p).transfer ≠ .message → s.acknowledges p addr = true → ∀ written : List Byte,
      (∀ cw ∈ [((0x02 : Byte), Window.completion), (0x03, .portStatus), (0x05, .identity), (0x06, .custodyStatus)],
        (cw.1 = 0x06 → p = .cust) →
        exec (.windowSelect p addr (some cw.1) 0 written .whole) s = .next (s.withLink p fun l => { l with
          window := some cw.2, transfer := .idle
          acks := true :: true :: List.replicate written.length false })) ∧
      exec (.windowSelect p addr (some 0x04) 0 [] .whole) s = .next (s.withLink p fun l => { l with
        window := some .directory, transfer := .idle, acks := [true, true] }) ∧
      (∀ code : Byte, code = 0 ∨ 6 < code.toNat ∨ (code = 0x06 ∧ p ≠ .cust) →
        exec (.windowSelect p addr (some code) 0 written .whole) s = .next (s.withLink p fun l => { l with
          transfer := .idle, acks := true :: false :: List.replicate written.length false }))) ∧
    (∀ (part : Part) (message : List Byte), part.opens = true →
      exec (.windowSelect p addr (some 0x01) 0 message part) s = exec (.requestAdmitted p addr message part) s) ∧
    (∀ (b : Byte) (extra : List Byte), exec (.windowSelect p addr (some 0x04) 0 (b :: extra) .whole) s =
      exec (.directoryPointerWrite p addr b extra) s) ∧
    ((s.link p).transfer ≠ .message → s.acknowledges p addr = true → ∀ n, 0 < n →
      ((s.link p).window = none ∨ (s.link p).window = some .request →
        exec (.windowSelect p addr none n [] .whole) s = .next (s.withLink p fun l => { l with
          transfer := .idle, acks := [true], sent := List.replicate n 0xFF })) ∧
      (∀ wr ∈ [(Window.portStatus, s.portStatus p), (.identity, s.identityRecord p), (.custodyStatus, s.custodyStatus)],
        (s.link p).window = some wr.1 →
        exec (.windowSelect p addr none n [] .whole) s = .next (s.withLink p fun l => { l with
          transfer := .idle, acks := [true], sent := clocked wr.2 n })) ∧
      ((s.link p).window = some .completion →
        exec (.windowSelect p addr none n [] .whole) s = exec (.completionRead p addr n .whole) s) ∧
      ((s.link p).window = some .directory →
        exec (.windowSelect p addr none n [] .whole) s = exec (.directoryRead p addr n .whole) s)) ∧
    (s.acknowledges p addr = true → ∀ (code : Byte) (written : List Byte) (n : Nat), 0 < n → ∃ t u,
      exec (.windowSelect p addr (some code) 0 written .whole) s = .next t ∧
      exec (.windowSelect p addr none n [] .whole) t = .next u ∧
      exec (.windowSelect p addr (some code) n written .whole) s =
        .next (u.withLink p fun l => { l with acks := (t.link p).acks ++ l.acks })) ∧
    ((s.link p).transfer ≠ .message → s.acknowledges p addr = false →
      ∀ (code : Option Byte) (written : List Byte) (n : Nat),
        exec (.windowSelect p addr code n written .whole) s = .next (s.withLink p fun l => { l with
          transfer := .idle, acks := [false] })) ∧
    (∀ (left : List Byte) (n : Nat), (s.link p).transfer = .record left → 0 < n →
      exec (.windowSelect p addr none n [] { opens := false, closes := false }) s = .next (s.withLink p fun l => { l with
        transfer := .record (left.drop n), sent := l.sent ++ clocked left n }))

/-- DIRECTORY_POINTER_WRITE and DIRECTORY_READ (R190, R191): a record read to its last byte moves the pointer by one, a
record begun in a later part of the read is built from the state of that part, and without a directory the fill is
sent. -/
def Obligations.DirectoryWindowFollowsItsPointer : Prop :=
  (∀ (s : State) (p : Port) (addr : Address) (b : Byte) (extra : List Byte), (s.link p).transfer ≠ .message →
    (s.acknowledges p addr = true → exec (.directoryPointerWrite p addr b extra) s = .next (s.withLink p fun l => { l with
      window := some .directory, pointer := b.toNat % 128, timeForm := decide (128 ≤ b.toNat), transfer := .idle
      acks := true :: true :: true :: List.replicate extra.length false })) ∧
    (s.acknowledges p addr = false → exec (.directoryPointerWrite p addr b extra) s = .next (s.withLink p fun l =>
      { l with transfer := .idle, acks := [false] }))) ∧
  (∀ (s : State) (p : Port) (time : Bool), (∀ k : SlotNo, s.pointedRecord p time k.val = s.directoryRecord p time k) ∧
    ∀ k, 128 ≤ k → s.pointedRecord p time k = List.replicate 24 0xFF) ∧
  (∀ (s : State) (p : Port) (addr : Address) (n : Nat), s.acknowledges p addr = true →
    (s.link p).window = some .directory → (s.link p).transfer ≠ .message → 0 < n →
    (s.directory.inUse = true → exec (.directoryRead p addr n .whole) s = .next (s.withLink p fun l => { l with
      transfer := .idle, acks := [true], pointer := min 128 (l.pointer + n / 24)
      sent := ((List.range (n / 24 + 1)).flatMap fun k => s.pointedRecord p l.timeForm (l.pointer + k)).take n })) ∧
    (s.directory.inUse = true → n < 24 → (s.link p).pointer ≤ 128 →
      exec (.directoryRead p addr n { opens := true, closes := false }) s = .next (s.withLink p fun l => { l with
        transfer := .directory ((s.pointedRecord p l.timeForm l.pointer).drop n), acks := [true]
        sent := (s.pointedRecord p l.timeForm l.pointer).take n })) ∧
    (s.directory.inUse = false → exec (.directoryRead p addr n .whole) s = .next (s.withLink p fun l => { l with
      transfer := .idle, acks := [true], sent := List.replicate n 0xFF }))) ∧
  (∀ (s : State) (p : Port) (addr : Address) (left : List Byte) (n : Nat), (s.link p).transfer = .directory left → 0 < n →
    (n < left.length → exec (.directoryRead p addr n { opens := false, closes := false }) s =
      .next (s.withLink p fun l => { l with transfer := .directory (left.drop n), sent := l.sent ++ left.take n })) ∧
    (n = left.length → exec (.directoryRead p addr n { opens := false, closes := false }) s =
      .next (s.withLink p fun l => { l with
        transfer := .directory [], sent := l.sent ++ left, pointer := min 128 (l.pointer + 1) })) ∧
    (left = [] → n < 24 → (s.link p).pointer ≤ 128 →
      exec (.directoryRead p addr n { opens := false, closes := false }) s = .next (s.withLink p fun l => { l with
        transfer := .directory ((s.pointedRecord p l.timeForm l.pointer).drop n)
        sent := l.sent ++ (s.pointedRecord p l.timeForm l.pointer).take n })))

/-- COMPLETION_READ (R189, R194): a read from its start and a later part of one in progress; the completion leaves the
queue with its last byte, and after it, or once the port has stopped, the fill is sent. -/
def Obligations.CompletionReadSendsTheOldestCompletion : Prop :=
  ∀ (s : State) (p : Port) (addr : Address) (part : Part) (n : Nat), 0 < n →
    (part.opens = true → s.acknowledges p addr = true → (s.link p).window = some .completion →
      (s.link p).transfer ≠ .message →
      (∀ c rest, (s.link p).completions = c :: rest →
        exec (.completionRead p addr n part) s = .next (s.withLink p fun l => { l with
          acks := [true], sent := clocked c.bytes n
          transfer := if part.closes then .idle
            else if c.bytes.length ≤ n then .fill else .completion (c.bytes.drop n)
          completions := if c.bytes.length ≤ n then rest else c :: rest })) ∧
      ((s.link p).completions = [] → exec (.completionRead p addr n .whole) s = .next (s.withLink p fun l => { l with
        acks := [true], sent := clocked [0x00] n, transfer := .idle }))) ∧
    (part.opens = false →
      (∀ left, (s.link p).transfer = .completion left →
        exec (.completionRead p addr n part) s = .next (s.withLink p fun l => { l with
          sent := l.sent ++ clocked left n
          transfer := if part.closes then .idle else if left.length ≤ n then .fill else .completion (left.drop n)
          completions := if left.length ≤ n then l.completions.tail else l.completions })) ∧
      ((s.link p).transfer = .fill → exec (.completionRead p addr n part) s = .next (s.withLink p fun l => { l with
        sent := l.sent ++ List.replicate n 0xFF, transfer := if part.closes then .idle else .fill })))

/-- The lengths and the fields of what the windows show (11.7, R21, R82, R121, R178, R189 to R192), what a line port sees of a
slot outside its domain (R191), and the attention lines (R83, R193). A header byte outside R4's values is shown free (log 23).
Of custody status, what HALTED and UNCOMMISSIONED show is log 24, the supply-high bit there log 47, a suspending erase log 45, a
PROGRAMMING ceremony's seconds log 48, a closed window's log 51, and the rounding of seconds log 41. -/
def Obligations.WindowRecordsHaveTheirShape : Prop :=
  (∀ s : State,
    (∀ l : Line, s.attention (.line l) = true ↔
      (s.custody.present = .service ∨ s.custody.present = .zeroizing ∨ s.custody.present = .recovery) ∧
      (s.lineLinks[l].completions ≠ [] ∨ ∃ (p : Pos) (b : Binding) (r : EndReason) (u : Bool),
        s.pos l p = .ended b r u)) ∧
    (s.attention .cust = true ↔
      (s.custody.present = .service ∨ s.custody.present = .zeroizing ∨ s.custody.present = .recovery ∨
        s.custody.present = .uncommissioned) ∧
      (s.custLink.completions ≠ [] ∨ s.ceremony.undelivered ≠ none))) ∧
  (∀ (s : State) (p : Port) (n : SlotNo) (d : SlotDir) (b : BankDir) (c : Nat), d = s.directory.slots[n] →
    b = s.directory.banks[bankOf n] →
    c = (match b.condition with | .ready => 0 | .erasing => 1 | .eraseIncomplete => 2) →
    (p = .cust ∨ ∃ l, p = .line l ∧ s.allocations[l].domain ≠ 0 ∧ hDomain d.header = s.allocations[l].domain) →
    (d.state = .empty → ∀ time, s.directoryRecord p time n =
      [BitVec.ofNat 8 n.val, b.epoch, 0] ++ List.replicate 21 0) ∧
    (d.state ≠ .empty → s.directoryRecord p true n =
      [BitVec.ofNat 8 n.val, b.epoch, d.state.byte, 0] ++ slice d.header 16 6 ++ List.replicate 14 0) ∧
    (d.state ≠ .empty → ∃ flags key shape : Byte,
      s.directoryRecord p false n = [BitVec.ofNat 8 n.val, b.epoch, d.state.byte, flags, key, shape] ++
        slice d.header 5 11 ++ be24 s.retention.slots[n].remaining ++ be24 s.retention.slots[n].issued ++
        [BitVec.ofNat 8 (s.liveCount n)] ∧
      flags.getLsbD 0 = d.retirePending ∧ flags.getLsbD 1 = s.retention.slots[n].hold ∧
      flags.getLsbD 2 = (hAllowance d.header).isSome ∧ flags.getLsbD 3 = hDated d.header ∧
      flags.getLsbD 4 = d.shownNotYet ∧ flags.getLsbD 5 = d.shownExpired ∧ flags.toNat < 64 ∧
      ((hDomain d.header).toNat < 16 → (hClass d.header).toNat < 16 →
        key.toNat = (hDomain d.header).toNat + 16 * (hClass d.header).toNat) ∧
      (∀ kc ∈ [(16, 1), (24, 2), (32, 3)], ∀ nc ∈ [((2 : Byte), 0), (3, 1)], hLength d.header = kc.1 →
        hCount d.header = nc.1 → (hParity d.header).toNat < 2 → shape.toNat = kc.2 +
          4 * (hParity d.header).toNat + 8 * nc.2 + 16 * c + 64 * b.degraded.toNat + 128 * b.lost.toNat) ∧
      (d.header = Vector.replicate 22 0 →
        key = 0 ∧ shape.toNat = 16 * c + 64 * b.degraded.toNat + 128 * b.lost.toNat))) ∧
  (∀ s : State, s.calendarBytes = dateBytes s.retention.calendar.date ++ timeBytes s.retention.calendar.time ++
    [BitVec.ofNat 8 (s.retention.calendar.set.toNat + 2 * s.retention.calendar.counting.toNat)]) ∧
  (∀ (s : State) (l : Line), s.portStatus (.line l) =
    [BitVec.ofNat 8 l.val, s.allocations[l].domain, s.allocations[l].mask,
      BitVec.ofNat 8 (s.buses[l].ready.toNat + 2 * s.lineProgress[l].isSome.toNat)] ++ s.calendarBytes ++
    four.flatMap fun p => match s.pos l p with
      | .free => List.replicate 9 0
      | .loading b rp => [1, boolByte rp] ++ b.handle.bytes ++ [BitVec.ofNat 8 b.slot.val] ++ be24 b.reservation
      | .bound b => [2, 0] ++ b.handle.bytes ++ [BitVec.ofNat 8 b.slot.val] ++ be24 b.reservation
      | .clearing b kind => [3, match kind with | .release => 0 | .recall => 2] ++ b.handle.bytes ++
        [BitVec.ofNat 8 b.slot.val] ++ be24 b.reservation
      | .ended b reason unclean => [4, BitVec.ofNat 8 ((match reason with | .recalled => 0 | .engineLost => 4) +
          8 * unclean.toNat)] ++ b.handle.bytes ++ [BitVec.ofNat 8 b.slot.val] ++ be24 b.reservation
      | .blocked => 5 :: List.replicate 8 0) ∧
  (∀ s : State, s.portStatus .cust = [4, BitVec.ofNat 8 (s.custody.csa.toNat + 2 * s.custody.csb.toNat)] ++
    s.calendarBytes ++ [BitVec.ofNat 8 s.custLink.requests.length, BitVec.ofNat 8 s.custLink.completions.length]) ∧
  (∀ (s : State) (p : Port), s.identityRecord p = ([0x24, 0x60, s.fuses[29]] : List Byte) ++ slice s.fuses 19 7 ++
    [s.fuses[26], s.fuses[27], s.fuses[28],
      (match s.custody.record with | .verified => 1 | .failed => 2 | .blank => 0 | .notLoaded => 0),
      (match p with | .line l => BitVec.ofNat 8 l.val | .cust => 4)]) ∧
  (∀ s : State, (∀ f ∈ s.statusFields, fieldAt s.custodyStatus f.1 f.2.length = f.2) ∧
    (s.custody.present ≠ .halted → s.custody.present ≠ .uncommissioned →
      ∀ f ∈ s.runningFields, fieldAt s.custodyStatus f.1 f.2.length = f.2) ∧
    (s.custody.present = .halted ∨ s.custody.present = .uncommissioned →
      ∀ f ∈ s.runningFields, fieldAt s.custodyStatus f.1 f.2.length = List.replicate f.2.length 0)) ∧
  ([Mode.uncommissioned, .starting, .halted, .service, .zeroizing, .recovery].map Mode.byte = [1, 2, 3, 4, 5, 6] ∧
    [ResumeMode.service, .zeroizing, .recovery].map ResumeMode.byte = [4, 5, 6] ∧
    [none, some Source.command, some .door, some .mesh, some .supplyHigh, some .clock, some .retentionLoss].map
      sourceByte = [0, 1, 2, 3, 4, 5, 6] ∧
    [none, some Place.running, some .unpowered].map placeByte = [0, 1, 2] ∧
    [none, some EventOutcome.zeroized, some .alarmed, some .recorded].map eventOutcomeByte = [0, 1, 2, 3] ∧
    [SlotState.empty, .active, .retired, .damaged, .lost].map SlotState.byte = [0, 1, 2, 3, 4] ∧
    [Cause.request, .mismatches, .keyCheck, .switchDrop, .timeout, .zeroization].map Cause.byte = [1, 2, 3, 4, 5, 6] ∧
    (∀ (l : Line) (n : SlotNo) (b : Bank) (r : ProgramRequest) (custody : Bool), execBytes none = [0, 0] ∧
      execBytes (some (.readSlot l n)) = [1, BitVec.ofNat 8 n.val] ∧
      execBytes (some (.readReference b)) = [2, BitVec.ofNat 8 b.val] ∧
      execBytes (some (.programRecord r)) = [3, BitVec.ofNat 8 r.slot.val] ∧
      execBytes (some (.programMark n)) = [4, BitVec.ofNat 8 n.val] ∧
      execBytes (some (.erase b custody)) = [5, BitVec.ofNat 8 b.val]) ∧
    (∀ t : TestRecord, t.bytes =
      (match t.last with | none => 0 | some .pass => 1 | some .fail => 2 | some .skipped => 3) :: be16 t.mismatches ++
      [BitVec.ofNat 8 t.fails, (match t.firstFail with | none => 0xFF | some i => BitVec.ofNat 8 i)] ++
      stampBytes t.time) ∧
    ∀ b : BankDir, b.byte.toNat = (match b.condition with | .ready => 0 | .erasing => 1 | .eraseIncomplete => 2) +
      4 * b.degraded.toNat + 8 * b.lost.toNat + 16 * b.reserved.toNat) ∧
  (∀ s : State,
    (∀ (p : Port) (time : Bool) (n : SlotNo), (s.directoryRecord p time n).length = 24) ∧
    (∀ l : Line, (s.portStatus (.line l)).length = 47) ∧ (s.portStatus .cust).length = 11 ∧
    (∀ p : Port, (s.identityRecord p).length = 15) ∧ s.custodyStatus.length = 115 ∧
    (∀ c : Completion, c.data.length < 252 →
      c.bytes.length = 4 + c.data.length ∧ c.bytes.head? = some (BitVec.ofNat 8 c.bytes.length))) ∧
  (∀ (s : State) (l : Line) (time : Bool) (n : SlotNo),
    (s.allocations[l].domain = 0 ∨ hDomain s.directory.slots[n].header ≠ s.allocations[l].domain) →
    s.directoryRecord (.line l) time n = [BitVec.ofNat 8 n.val, 0, 0xFE] ++ List.replicate 21 0)

/-- UNKNOWN_REQUEST_CODE (R188); that its own code byte is echoed is log 29. -/
def Obligations.UnknownRequestCodeAnswersBadRequest : Prop :=
  ∀ (s : State) (m : Message),
    (∀ l : Line, s.takeable (.line l) = some m → m.code ∉ [(0x10 : Byte), 0x11, 0x12, 0x13, 0x14] →
      exec (.unknownRequestCode (.line l)) s = .next (s.lineAnswered l m.tag m.code .badRequest [])) ∧
    (s.takeable .cust = some m → (m.code.toNat < 0x20 ∨ (0x23 < m.code.toNat ∧ m.code.toNat < 0x30) ∨
        0x3E < m.code.toNat) →
      exec (.unknownRequestCode .cust) s = .next (s.custAnswered m.tag m.code .badRequest []))

/-! ## What every request meets first -/

/-- When a line port takes the head of its queue (R57), the codes, lengths, fields and ranges of its requests (R58, R188, 11.7),
and what meets each first: outside SERVICE it completes ZEROIZED, and in SERVICE a malformed one BAD_REQUEST (R58, R165). -/
def Obligations.LineRequestsMeetTheGateAndTheForm : Prop :=
  (∀ (s : State) (l : Line) (m : Message), s.takeable (.line l) = some m ↔
    (s.custody.present = .service ∨ s.custody.present = .zeroizing ∨ s.custody.present = .recovery) ∧
    s.lineProgress[l] = none ∧ s.lineLinks[l].completions.length < 4 ∧ s.lineLinks[l].requests.head? = some m) ∧
  [codeBind, codeExtend, codeRelease, codeReleaseAll, codeClearBlocked] = [0x10, 0x11, 0x12, 0x13, 0x14] ∧
  (∀ m : Message, m.code = m.byte 0 ∧ m.tag = m.byte 1 ∧
    (∀ h n, parseBind m = some (h, n) ↔ m.hasLength 7 ∧ h = m.handle 2 ∧ n = m.two 5 ∧ 1 ≤ n) ∧
    (∀ p n, parseExtend m = some (p, n) ↔ m.hasLength 5 ∧ (m.byte 2).toNat = p.val ∧ n = m.two 3 ∧ 1 ≤ n) ∧
    (∀ p u, parseRelease m = some (p, u) ↔ m.hasLength 6 ∧ (m.byte 2).toNat = p.val ∧ u = m.three 3) ∧
    (∀ u, parseReleaseAll m = some u ↔ m.hasLength 14 ∧ ∀ p : Pos, u[p] = m.three (2 + 3 * p.val)) ∧
    (parseNone m = some () ↔ m.hasLength 2)) ∧
  ∀ (s : State) (l : Line) (m : Message), s.takeable (.line l) = some m →
    ∀ row ∈ [(codeBind, Instr.bind l, (parseBind m).isSome), (codeExtend, .extend l, (parseExtend m).isSome),
        (codeRelease, .release l, (parseRelease m).isSome), (codeReleaseAll, .releaseAll l, (parseReleaseAll m).isSome),
        (codeClearBlocked, .clearBlocked l, (parseNone m).isSome)],
      m.code = row.1 →
      (s.custody.present ≠ .service →
        exec row.2.1 s = .next (s.lineAnswered l m.tag row.1 .zeroized [])) ∧
      (s.custody.present = .service → row.2.2 = false →
        exec row.2.1 s = .next (s.lineAnswered l m.tag row.1 .badRequest []))

/-- When the custodian port takes the head of its queue (R35); of each request its code, its switch requirement and the modes
that pass it, ZEROIZING answering ZEROIZED and the others MODE where they do not (R36, R122, R142, R170, R183); the lengths,
fields and ranges of the messages (R38, R40, R42, R122, R182, R183, R188, 11.7); and that each request meets its mode gate,
then its form, then its switch requirement (R34, R36). -/
def Obligations.CustodianRequestsMeetGateFormAndSwitches : Prop :=
  (∀ (s : State) (m : Message), s.takeable .cust = some m ↔
    (s.custody.present = .service ∨ s.custody.present = .zeroizing ∨ s.custody.present = .recovery ∨
      s.custody.present = .uncommissioned) ∧
    s.custProgress = none ∧ s.custLink.completions.length < 2 ∧ s.custLink.requests.head? = some m) ∧
  (custRequests.map fun r => (r.command, r.code, r.need,
      [Mode.service, .zeroizing, .recovery, .uncommissioned].filter fun mode => (r.gate mode).isNone)) =
    [(.openCeremony, 0x20, .both, [.service]), (.component, 0x21, .both, [.service]), (.commit, 0x22, .both, [.service]),
      (.abandon, 0x23, .neither, [.service]), (.allocate, 0x30, .either, [.service]), (.hold, 0x31, .either, [.service]),
      (.unhold, 0x32, .either, [.service]), (.retire, 0x33, .both, [.service]),
      (.reclaim, 0x34, .both, [.service, .recovery]), (.openServiceWindow, 0x35, .both, [.service])] ++
    [(.closeServiceWindow, 0x36, .either, [.service]), (.setAlarmMask, 0x37, .either, [.service]),
      (.clearAlarms, 0x38, .either, [.service, .zeroizing, .recovery]),
      (.clearNvFault, 0x39, .either, [.service, .recovery]),
      (.clearResetFlags, 0x3A, .either, [.service, .zeroizing, .recovery]), (.zeroize, 0x3B, .both, [.service]),
      (.rearm, 0x3C, .both, [.recovery]), (.setTime, 0x3D, .both, [.service, .recovery]),
      (.commission, 0x3E, .both, [.uncommissioned])] ∧
  (∀ r ∈ custRequests, ∀ mode : Mode,
    r.gate mode = none ∨ r.gate mode = some (if mode = .zeroizing then .zeroized else .mode)) ∧
  (∀ s : State, (s.switchesMeet .both = true ↔ s.custody.csa = true ∧ s.custody.csb = true) ∧
    (s.switchesMeet .either = true ↔ s.custody.csa = true ∨ s.custody.csb = true) ∧ s.switchesMeet .neither = true) ∧
  (∀ m : Message, m.code = m.byte 0 ∧ m.tag = m.byte 1 ∧
    (∀ q, parseOpen m = some q ↔
      m.hasLength 10 ∧ q.handle = m.handle 2 ∧ q.domain = m.byte 5 ∧ (1 ≤ q.domain.toNat ∧ q.domain.toNat ≤ 15) ∧
      q.cls = m.byte 6 ∧ (1 ≤ q.cls.toNat ∧ q.cls.toNat ≤ 4) ∧ q.len = (m.byte 7).toNat ∧
      (q.len = 16 ∨ q.len = 24 ∨ q.len = 32) ∧ (m.byte 8).toNat ≤ 1 ∧ q.odd = decide (m.byte 8 = 1) ∧
      q.count = (m.byte 9).toNat ∧ (q.count = 2 ∨ q.count = 3) ∧ ¬ (q.len = 32 ∧ q.odd = true)) ∧
    (∀ q, parseComponent m = some q ↔
      (m.hasLength 21 ∨ m.hasLength 29 ∨ m.hasLength 37) ∧ q.index = (m.byte 2).toNat ∧ 1 ≤ q.index ∧ q.index ≤ 3 ∧
      q.word = (m.byte 3, m.byte 4) ∧ q.bytes = m.bytes.drop 5) ∧
    (∀ q, parseCommit m = some q ↔
      m.hasLength 14 ∧ (m.byte 2).toNat < 8 ∧ q.kcw = (m.byte 3, m.byte 4) ∧
      q.activation = (if (m.byte 2).getLsbD 0 then some (m.date 5) else none) ∧
      q.expiry = (if (m.byte 2).getLsbD 1 then some (m.date 8) else none) ∧
      q.allowance = (if (m.byte 2).getLsbD 2 then some (m.three 11) else none) ∧ q.allowance ≠ some 0) ∧
    (∀ l d k, parseAllocate m = some (l, d, k) ↔
      m.hasLength 5 ∧ (m.byte 2).toNat = l.val ∧ d = m.byte 3 ∧ d.toNat ≤ 15 ∧ k = m.byte 4 ∧ k.toNat ≤ 15) ∧
    (∀ h, parseHandle m = some h ↔ m.hasLength 5 ∧ h = m.handle 2) ∧
    (∀ h rc, parseRetire m = some (h, rc) ↔
      m.hasLength 6 ∧ h = m.handle 2 ∧ (m.byte 5).toNat ≤ 1 ∧ rc = decide (m.byte 5 = 1)) ∧
    (∀ b, parseReclaim m = some b ↔ m.hasLength 3 ∧ (m.byte 2).toNat = b.val) ∧
    (∀ b, parseFlags m = some b ↔ m.hasLength 3 ∧ b = m.byte 2) ∧
    (∀ d time, parseSetTime m = some (d, time) ↔
      m.hasLength 8 ∧ d = m.date 2 ∧ time = ⟨(m.byte 5).toNat, (m.byte 6).toNat, (m.byte 7).toNat⟩) ∧
    (parseNone m = some () ↔ m.hasLength 2)) ∧
  (∀ (fuses : Vector Byte 64) (m : Message) (r : Vector Byte 64), parseCommission fuses m = some r ↔
    m.hasLength 64 ∧ (∀ i : Fin 62, r[i.val] = m.byte (i.val + 2)) ∧ (r[62], r[63]) = checkWord (m.bytes.drop 2) ∧
    (8 ≤ r[0].toNat ∧ r[0].toNat ≤ 0x77) ∧ (8 ≤ r[1].toNat ∧ r[1].toNat ≤ 0x77) ∧ r[2].toNat ≤ 15 ∧
    (r[3] = 1 ∨ r[3] = 2) ∧ (r[4] = 1 ∨ r[4] = 2) ∧ (r[5] = 1 ∨ r[5] = 2) ∧ r[6].toNat ≤ 31 ∧ 1 ≤ r[7].toNat ∧
    256 * r[8].toNat + r[9].toNat ≤ 1023 ∧ (1 ≤ r[10].toNat ∧ r[10].toNat ≤ 15) ∧
    60 ≤ 256 * r[11].toNat + r[12].toNat ∧ 1 ≤ r[14].toNat ∧
    (60 ≤ 256 * r[15].toNat + r[16].toNat ∧ 256 * r[15].toNat + r[16].toNat ≤ 3600) ∧
    (60 ≤ 256 * r[17].toNat + r[18].toNat ∧ 256 * r[17].toNat + r[18].toNat ≤ 7200) ∧
    (∀ i : Fin 64, 19 ≤ i.val → i.val ≤ 29 → r[i] = fuses[i]) ∧
    (∀ i : Fin 64, 30 ≤ i.val → i.val ≤ 60 → r[i] = 0) ∧ r[61] = 0x5A) ∧
  ∀ r ∈ custRequests, ∀ (s : State) (m : Message), s.takeable .cust = some m → m.code = r.code →
    (∀ oc, r.gate s.custody.present = some oc →
      exec r.command s = .next (s.custAnswered m.tag r.code oc [])) ∧
    (r.gate s.custody.present = none → r.form s m = false →
      exec r.command s = .next (s.custAnswered m.tag r.code .badRequest [])) ∧
    (r.gate s.custody.present = none → r.form s m = true → s.switchesMeet r.need = false →
      exec r.command s = .next (s.custAnswered m.tag r.code .switches []))

/-! ## Ceremonies -/

/-- OPEN that passes every check (R38, R39), and the first check of R38 that one fails: with a ceremony open CEREMONY_STATE,
which restarts the timer of a COLLECTING one (R51); then the handle, the slot and the bank. -/
def Obligations.OpenBeginsACeremony : Prop :=
  (∀ (s : State) (m : Message) (q : OpenRequest), s.custPasses codeOpen gateService .both parseOpen m q →
    (∀ o, s.ceremony.current = some o →
      (o.programming = false → exec .openCeremony s = .next { s.custAnswered m.tag codeOpen .ceremonyState [] with
        ceremony := { s.ceremony with current := some { o with timer := s.ceremonyTimeout * cyclesPerSecond } } }) ∧
      (o.programming = true →
        exec .openCeremony s = .next (s.custAnswered m.tag codeOpen .ceremonyState []))) ∧
    (s.ceremony.current = none →
      (s.resolve q.handle = none → exec .openCeremony s = .next (s.custAnswered m.tag codeOpen .staleHandle [])) ∧
      (∀ n, s.resolve q.handle = some n →
        (s.directory.slots[n].state ≠ .empty →
          exec .openCeremony s = .next (s.custAnswered m.tag codeOpen .slotOccupied [])) ∧
        (s.directory.slots[n].state = .empty →
          (s.directory.banks[bankOf n].condition ≠ .ready ∨ s.directory.banks[bankOf n].degraded = true ∨
            s.directory.banks[bankOf n].lost = true) →
          exec .openCeremony s = .next (s.custAnswered m.tag codeOpen .bankUnavailable []))))) ∧
  ∀ (s : State) (m : Message) (q : OpenRequest) (n : SlotNo),
    s.custPasses codeOpen gateService .both parseOpen m q → s.ceremony.current = none → s.resolve q.handle = some n →
    s.directory.slots[n].state = .empty → s.directory.banks[bankOf n].condition = .ready →
    s.directory.banks[bankOf n].degraded = false → s.directory.banks[bankOf n].lost = false →
    exec .openCeremony s = .next
      { s.custAnswered m.tag codeOpen .ok q.handle.bytes with
        ceremony :=
          { current := some
              { programming := false, handle := q.handle, slot := n, domain := q.domain, cls := q.cls, len := q.len,
                odd := q.odd, count := q.count, next := .at 1, mismatches := 0,
                timer := s.ceremonyTimeout * cyclesPerSecond, tag := m.tag }
            buffer := Vector.replicate 32 0
            undelivered := none }
        directory := { s.directory with
          banks := put s.directory.banks (bankOf n) { s.directory.banks[bankOf n] with reserved := true } } }

/-- COMPONENT (R24, R25, R40, R41): with no COLLECTING ceremony it is answered CEREMONY_STATE, with another length
BAD_REQUEST, with another index COMPONENT_ORDER; one whose check word matches is XORed into the buffer; of those that differ
two are counted and the third abandons the ceremony. -/
def Obligations.ComponentIsCombinedOrCounted : Prop :=
  (∀ (s : State) (m : Message) (q : ComponentRequest),
    s.custPasses codeComponent gateService .both parseComponent m q →
    ((∀ o, s.ceremony.current = some o → o.programming = true) →
      exec .component s = .next (s.custAnswered m.tag codeComponent .ceremonyState [])) ∧
    (∀ o, s.ceremony.current = some o → o.programming = false →
      (q.bytes.length ≠ o.len → exec .component s = .next { s.custAnswered m.tag codeComponent .badRequest [] with
        ceremony := { s.ceremony with current := some { o with timer := s.ceremonyTimeout * cyclesPerSecond } } }) ∧
      (q.bytes.length = o.len → o.next ≠ .at q.index →
        exec .component s = .next { s.custAnswered m.tag codeComponent .componentOrder [] with
          ceremony := { s.ceremony with
            current := some { o with timer := s.ceremonyTimeout * cyclesPerSecond } } }))) ∧
  (∀ (s : State) (m : Message) (q : ComponentRequest) (o : OpenRecord),
    s.custPasses codeComponent gateService .both parseComponent m q → s.ceremony.current = some o → o.programming = false →
    q.bytes.length = o.len → o.next = .at q.index → checkWord q.bytes = q.word →
    ∃ buffer : Vector Byte 32,
      (∀ i : Fin 32, buffer[i] =
        if i.val < o.len then s.ceremony.buffer[i] ^^^ q.bytes.getD i.val 0 else s.ceremony.buffer[i]) ∧
      exec .component s = .next
        { s.custAnswered m.tag codeComponent .ok [BitVec.ofNat 8 q.index, BitVec.ofNat 8 (o.count - q.index)] with
          ceremony := { s.ceremony with
            current := some { o with
              next := if q.index = o.count then .complete else .at (q.index + 1)
              mismatches := 0, timer := s.ceremonyTimeout * cyclesPerSecond }
            buffer := buffer } }) ∧
  (∀ (s : State) (m : Message) (q : ComponentRequest) (o : OpenRecord),
    s.custPasses codeComponent gateService .both parseComponent m q → s.ceremony.current = some o → o.programming = false →
    q.bytes.length = o.len → o.next = .at q.index → checkWord q.bytes ≠ q.word →
    (o.mismatches < 2 → exec .component s = .next
      { s.custAnswered m.tag codeComponent .componentCheck [BitVec.ofNat 8 (o.mismatches + 1)] with
        ceremony := { s.ceremony with current := some { o with
          mismatches := o.mismatches + 1, timer := s.ceremonyTimeout * cyclesPerSecond } } }) ∧
    (2 ≤ o.mismatches → exec .component s = .next
      { s.custAnswered m.tag codeComponent .abandoned [2] with
        ceremony := { s.ceremony with current := none, buffer := Vector.replicate 32 0 }
        directory := s.unreserved o.slot }))

/-- COMMIT (R26 to R29, R42, R43): a key is weak when all its bytes are equal, and a repeated parity adjustment changes
nothing; a key that is not weak and has the expected KCW is submitted masked under its bank's cover, with the check
word of its covered sequence; a weak key leaves the ceremony COLLECTING; a wrong KCW abandons it. That the stopped timer
of a submitted ceremony holds 0 is the model's choice (log 48). The checks of R42 come first, in their order: the ceremony's
state, the components, the dates (R145) and the fault flag. -/
def Obligations.CommitJudgesAndMasksTheKey : Prop :=
  (∀ (set : Bool) (q : CommitRequest),
    (set = false → (q.activation ≠ none ∨ q.expiry ≠ none) → commitDates set q = some .clockUnset) ∧
    (set = true ∨ (q.activation = none ∧ q.expiry = none) →
      (commitDates set q = some .badTime ∨ commitDates set q = none) ∧
      (commitDates set q = none ↔
        (∀ d, q.activation = some d ∨ q.expiry = some d → validDate d = true) ∧
        (∀ a x, q.activation = some a → q.expiry = some x → dateBefore x a = false)))) ∧
  (∀ (s : State) (m : Message) (q : CommitRequest),
    s.custPasses codeCommit gateService .both parseCommit m q →
    ((∀ o, s.ceremony.current = some o → o.programming = true) →
      exec .commit s = .next (s.custAnswered m.tag codeCommit .ceremonyState [])) ∧
    (∀ o, s.ceremony.current = some o → o.programming = false →
      (o.next ≠ .complete → exec .commit s = .next { s.custAnswered m.tag codeCommit .componentOrder [] with
        ceremony := { s.ceremony with current := some { o with timer := s.ceremonyTimeout * cyclesPerSecond } } }) ∧
      (o.next = .complete → ∀ oc, commitDates s.retention.calendar.set q = some oc →
        exec .commit s = .next { s.custAnswered m.tag codeCommit oc [] with
          ceremony := { s.ceremony with
            current := some { o with timer := s.ceremonyTimeout * cyclesPerSecond } } }) ∧
      (o.next = .complete → commitDates s.retention.calendar.set q = none → s.control.fault = true →
        exec .commit s = .next { s.custAnswered m.tag codeCommit .nvFault [] with
          ceremony := { s.ceremony with
            current := some { o with timer := s.ceremonyTimeout * cyclesPerSecond } } }))) ∧
  (∀ key : List Byte, weak key = true ↔ ∀ a ∈ key, ∀ b ∈ key, a = b) ∧
  (∀ (k : Nat) (odd : Bool) (v : Vector Byte 32), adjust k odd (adjust k odd v) = adjust k odd v) ∧
  (∀ (s : State) (m : Message) (q : CommitRequest) (o : OpenRecord),
    s.custPasses codeCommit gateService .both parseCommit m q → s.ceremony.current = some o → o.programming = false →
    o.next = .complete → commitDates s.retention.calendar.set q = none → s.control.fault = false →
    weak ((adjust o.len o.odd s.ceremony.buffer).toList.take o.len) = false →
    checkWord ((adjust o.len o.odd s.ceremony.buffer).toList.take o.len) = q.kcw →
    ∃ r : SlotRecord,
      r.written = true ∧ r.retire = .blank ∧ r.header = commitHeader o q s.stamp ∧
      (∀ i : Fin 32, r.value[i] =
        if i.val < o.len then
          (adjust o.len o.odd s.ceremony.buffer)[i] ^^^ s.retention.covers[bankOf o.slot].value[i]
        else 0) ∧
      r.rcw = checkWord (coveredSequence r.header r.value) ∧
      exec .commit s = .next
        { s.custTaken with
          custProgress := some (.commit m.tag)
          ceremony := { s.ceremony with
            current := some { o with programming := true, timer := 0 }
            buffer := adjust o.len o.odd s.ceremony.buffer }
          control := { s.control with ceremonyWait := some { slot := o.slot, record := r } } }) ∧
  (∀ (s : State) (m : Message) (q : CommitRequest) (o : OpenRecord),
    s.custPasses codeCommit gateService .both parseCommit m q → s.ceremony.current = some o → o.programming = false →
    o.next = .complete → commitDates s.retention.calendar.set q = none → s.control.fault = false →
    (weak ((adjust o.len o.odd s.ceremony.buffer).toList.take o.len) = true →
      exec .commit s = .next
        { s.custAnswered m.tag codeCommit .weakKey [] with
          ceremony := { s.ceremony with
            current := some { o with timer := s.ceremonyTimeout * cyclesPerSecond }
            buffer := adjust o.len o.odd s.ceremony.buffer } }) ∧
    (weak ((adjust o.len o.odd s.ceremony.buffer).toList.take o.len) = false →
      checkWord ((adjust o.len o.odd s.ceremony.buffer).toList.take o.len) ≠ q.kcw →
      exec .commit s = .next
        { s.custAnswered m.tag codeCommit .keyCheck [] with
          ceremony := { s.ceremony with current := none, buffer := Vector.replicate 32 0 }
          directory := s.unreserved o.slot }))

/-- ABANDON (R47, R48), which no COMMIT in progress lets in, SWITCH_PRESENT, SWITCH_DROP and CEREMONY_TIMEOUT (R33, R48
to R51): a switch changes only after four samples at the level, which the verified record gives or else is high; a
COLLECTING ceremony is abandoned and reported, by its request, in a free entry or as the undelivered cause; a timeout
acts only once the timer stands at 0. -/
def Obligations.AbandonSwitchesAndTimeoutEndCeremonies : Prop :=
  (∀ (s : State) (m : Message), s.custPasses codeAbandon gateService .neither parseNone m () →
    (∀ o, s.ceremony.current = some o → o.programming = false →
      exec .abandon s = .next
        { s.custAnswered m.tag codeAbandon .ok [] with
          ceremony := { s.ceremony with current := none, buffer := Vector.replicate 32 0 }
          directory := s.unreserved o.slot }) ∧
    (s.ceremony.current = none → exec .abandon s = .next (s.custAnswered m.tag codeAbandon .ceremonyState []))) ∧
  (∀ (s : State) (x : CustProgress), s.custProgress = some x → exec .abandon s = .next s) ∧
  (∀ s : State, s.activeHigh .csa = (if s.custody.record = .verified then s.fuses[2].getLsbD 0 else true) ∧
    s.activeHigh .csb = (if s.custody.record = .verified then s.fuses[2].getLsbD 1 else true)) ∧
  (∀ (s : State) (samples : Samples), s.sampling = true →
    (s.custody.csa = false → (∀ i : Fin 4, samples[i] = s.activeHigh .csa) →
      exec (.switchPresent .csa samples) s = .next { s with custody := { s.custody with csa := true } }) ∧
    (s.custody.csb = false → (∀ i : Fin 4, samples[i] = s.activeHigh .csb) →
      exec (.switchPresent .csb samples) s = .next { s with custody := { s.custody with csb := true } }) ∧
    ((∀ o, s.ceremony.current = some o → o.programming = true) →
      (s.custody.csa = true → (∀ i : Fin 4, samples[i] = !s.activeHigh .csa) →
        exec (.switchDrop .csa samples) s = .next { s with custody := { s.custody with csa := false } }) ∧
      (s.custody.csb = true → (∀ i : Fin 4, samples[i] = !s.activeHigh .csb) →
        exec (.switchDrop .csb samples) s = .next { s with custody := { s.custody with csb := false } })) ∧
    ∀ w : Switch, ((∃ i : Fin 4, samples[i] ≠ s.activeHigh w) → exec (.switchPresent w samples) s = .next s) ∧
      ((∃ i : Fin 4, samples[i] = s.activeHigh w) → exec (.switchDrop w samples) s = .next s)) ∧
  (∀ (s : State) (o : OpenRecord) (samples : Samples), s.ceremony.current = some o → o.programming = false →
    (∀ row ∈ [(Instr.ceremonyTimeout, o.timer = 0, s, Cause.timeout, (0x05 : Byte)),
        (.switchDrop .csa samples,
          s.sampling = true ∧ s.custody.csa = true ∧ ∀ i : Fin 4, samples[i] = !s.activeHigh .csa,
          { s with custody := { s.custody with csa := false } }, .switchDrop, 0x04),
        (.switchDrop .csb samples,
          s.sampling = true ∧ s.custody.csb = true ∧ ∀ i : Fin 4, samples[i] = !s.activeHigh .csb,
          { s with custody := { s.custody with csb := false } }, .switchDrop, 0x04)],
      row.2.1 →
      (s.custEntryFree = true → exec row.1 s = .next
        { row.2.2.1 with
          ceremony := { s.ceremony with current := none, buffer := Vector.replicate 32 0 }
          directory := s.unreserved o.slot
          custLink := { s.custLink with completions := s.custLink.completions ++
            [{ tag := o.tag, code := 0x00, outcome := .abandoned, data := row.2.2.2.2 :: o.handle.bytes }] } }) ∧
      (s.custEntryFree = false → exec row.1 s = .next
        { row.2.2.1 with
          ceremony := { current := none, buffer := Vector.replicate 32 0, undelivered := some row.2.2.2.1 }
          directory := s.unreserved o.slot })) ∧
    (o.timer ≠ 0 → exec .ceremonyTimeout s = .next s)) ∧
  (∀ s : State, (∀ o, s.ceremony.current = some o → o.programming = true) → exec .ceremonyTimeout s = .next s)

/-- PROGRAM_RECORD_DONE and PROGRAM_FAILED (R11, R31, R44 to R46, R101, R113, R114, R146): the slot is ACTIVE with its shown
flags judged, or DAMAGED with the fault flag set, NV_FAULT latched and the waiting administration operation refused. In a bank
whose cover the loss of the validity marker has made invalid meanwhile the slot is LOST instead (the model's reading, log 11),
its shown flags judged all the same (the model's choice, log 52). -/
def Obligations.ProgramRecordEndsFillTheSlot : Prop :=
  (∀ (s : State) (r : ProgramRequest) (o : OpenRecord) (tag : Byte),
    s.control.exec = some (.programRecord r) → s.ceremony.current = some o → s.custProgress = some (.commit tag) →
    ∃ t, exec .programRecordDone s = .next t ∧
      t.array = { s.array with records := put s.array.records r.slot r.record } ∧
      t.control = { s.control with exec := none } ∧
      t.directory.slots[r.slot] = { s.directory.slots[r.slot] with
        state := if s.coverValid (bankOf r.slot) then .active else .lost
        header := r.record.header
        shownNotYet := judge s.retention.calendar r.record.header == .notYetActive
        shownExpired := judge s.retention.calendar r.record.header == .expired } ∧
      (∀ n, n ≠ r.slot → t.directory.slots[n] = s.directory.slots[n]) ∧
      t.directory.banks = (s.unreserved o.slot).banks ∧
      (∀ n, t.retention.slots[n] = if n = r.slot
        then { remaining := (hAllowance r.record.header).getD 0, issued := 0, hold := false, latch := false }
        else s.retention.slots[n]) ∧
      t.retention = { s.retention with slots := t.retention.slots } ∧
      t.ceremony = { s.ceremony with current := none, buffer := Vector.replicate 32 0 } ∧
      t.custLink = (s.custCompletes tag codeCommit .ok
        (o.handle.bytes ++ cwBytes (hKcw r.record.header))).custLink ∧
      t.custProgress = none ∧ t.buses = s.buses ∧ t.positions = s.positions ∧ t.lineLinks = s.lineLinks ∧
      t.lineProgress = s.lineProgress ∧ t.custody = s.custody ∧ t.monitor = s.monitor ∧
      t.allocations = s.allocations ∧ t.fuses = s.fuses) ∧
  (∀ (s : State) (r : ProgramRequest) (o : OpenRecord) (tag : Byte),
    s.control.exec = some (.programRecord r) → s.ceremony.current = some o → s.custProgress = some (.commit tag) →
    s.control.ceremonyWait = none →
    (s.control.adminWait = none → s.retention.marker = true → s.coverValid (bankOf r.slot) = true →
      ∃ t, exec .programFailed s = .next t ∧
        t.control = { s.control with exec := none, fault := true } ∧
        t.retention = { s.retention with alarmFlags := s.retention.alarmFlags ||| 0x40 } ∧
        t.directory.slots = put s.directory.slots r.slot
          { s.directory.slots[r.slot] with state := .damaged, header := r.record.header } ∧
        t.array.records[r.slot].written = true ∧
        (∀ n, n ≠ r.slot → t.array.records[n] = s.array.records[n]) ∧ t.array.headers = s.array.headers ∧
        t.array.rows = s.array.rows ∧
        t.ceremony = { s.ceremony with current := none, buffer := Vector.replicate 32 0 } ∧
        t.custLink = (s.custCompletes tag codeCommit .programFailed o.handle.bytes).custLink ∧ t.custProgress = none ∧
        t.buses = s.buses ∧ t.positions = s.positions ∧ t.lineLinks = s.lineLinks ∧
        t.lineProgress = s.lineProgress ∧ t.custody = s.custody ∧ t.monitor = s.monitor ∧
        t.allocations = s.allocations ∧ t.fuses = s.fuses) ∧
    (s.retention.marker = true → s.directory.slots[r.slot].state = .empty →
      ∃ t, exec .programFailed s = .next t ∧ WaitingRefused s t) ∧
    (s.coverValid (bankOf r.slot) = false →
      ∃ t, exec .programFailed s = .next t ∧ t.directory.slots[r.slot].state = .lost ∧
        t.directory.slots[r.slot].header = r.record.header))

/-! ## Administration and the calendar -/

/-- ALLOCATE (R56, R123): a binding outside the new domain or mask refuses it. -/
def Obligations.AllocateChangesTheRowOrNothing : Prop :=
  ∀ (s : State) (m : Message) (l : Line) (domain mask : Byte),
    s.custPasses codeAllocate gateService .either parseAllocate m (l, domain, mask) →
    ((∀ (p : Pos) (b : Binding), (s.pos l p).binding = some b →
        hDomain s.directory.slots[b.slot].header = domain ∧
        classInMask (hClass s.directory.slots[b.slot].header) mask = true) →
      exec .allocate s = .next
        { s.custAnswered m.tag codeAllocate .ok [BitVec.ofNat 8 l.val, domain, mask] with
          allocations := put s.allocations l { domain := domain, mask := mask } }) ∧
    (∀ (p : Pos) (b : Binding), (s.pos l p).binding = some b →
      (hDomain s.directory.slots[b.slot].header ≠ domain ∨
        classInMask (hClass s.directory.slots[b.slot].header) mask = false) →
      (∀ (p' : Pos) (b' : Binding), p' < p → (s.pos l p').binding = some b' →
        hDomain s.directory.slots[b'.slot].header = domain ∧
        classInMask (hClass s.directory.slots[b'.slot].header) mask = true) →
      exec .allocate s = .next
        (s.custAnswered m.tag codeAllocate .portBusy [BitVec.ofNat 8 l.val, BitVec.ofNat 8 p.val]))

/-- HOLD and UNHOLD (R124): on a slot that is neither EMPTY nor LOST they write its hold flag; a handle that does not
resolve, an EMPTY and a LOST slot are refused. -/
def Obligations.HoldAndUnholdSetTheHoldFlag : Prop :=
  (∀ row ∈ [(Instr.hold, codeHold), (.unhold, codeUnhold)], ∀ (s : State) (m : Message) (h : Handle),
    s.custPasses row.2 gateService .either parseHandle m h →
    (s.resolve h = none → exec row.1 s = .next (s.custAnswered m.tag row.2 .staleHandle [])) ∧
    (∀ n, s.resolve h = some n →
      (s.directory.slots[n].state = .empty → exec row.1 s = .next (s.custAnswered m.tag row.2 .slotEmpty [])) ∧
      (s.directory.slots[n].state = .lost → exec row.1 s = .next (s.custAnswered m.tag row.2 .keyLost [])))) ∧
  ∀ (s : State) (m : Message) (h : Handle) (n : SlotNo),
    s.resolve h = some n → s.directory.slots[n].state ≠ .empty → s.directory.slots[n].state ≠ .lost →
    (s.custPasses codeHold gateService .either parseHandle m h → exec .hold s = .next
      { s.custAnswered m.tag codeHold .ok (h.bytes ++ [boolByte s.retention.slots[n].hold]) with
        retention := { s.retention with
          slots := put s.retention.slots n { s.retention.slots[n] with hold := true } } }) ∧
    (s.custPasses codeUnhold gateService .either parseHandle m h → exec .unhold s = .next
      { s.custAnswered m.tag codeUnhold .ok (h.bytes ++ [boolByte s.retention.slots[n].hold]) with
        retention := { s.retention with
          slots := put s.retention.slots n { s.retention.slots[n] with hold := false } } })

/-- RETIRE (R76, R85, R106, R125, R126): the checks of R125 in their order; without recall into an empty administration slot
its mark is submitted, or refused by a set fault flag, which retires the slot at once; into a full one it waits. With recall
every BOUND position on the slot becomes CLEARING (RECALL), a LOADING one whose LOAD is queued or outstanding takes a pending
recall, each with a CLEAR at the tail of its bus's queue; every other position stays; and the completion, or the request that
waits, carries the number of positions recalled. -/
def Obligations.RetireSubmitsItsMarkAndRecalls : Prop :=
  (∀ (s : State) (m : Message) (h : Handle) (withRecall : Bool),
    s.custPasses codeRetire gateService .both parseRetire m (h, withRecall) →
    (s.resolve h = none → exec .retire s = .next (s.custAnswered m.tag codeRetire .staleHandle [])) ∧
    (∀ n, s.resolve h = some n →
      (s.directory.slots[n].state = .empty →
        exec .retire s = .next (s.custAnswered m.tag codeRetire .slotEmpty [])) ∧
      (s.directory.slots[n].state = .lost →
        exec .retire s = .next (s.custAnswered m.tag codeRetire .keyLost [])) ∧
      (s.directory.slots[n].state = .damaged →
        exec .retire s = .next (s.custAnswered m.tag codeRetire .keyDamaged [])) ∧
      (s.directory.slots[n].state = .retired ∨
          (s.directory.slots[n].state = .active ∧ s.directory.slots[n].retirePending = true) →
        exec .retire s = .next (s.custAnswered m.tag codeRetire .keyRetired [])))) ∧
  (∀ (s : State) (m : Message) (h : Handle) (n : SlotNo),
    s.custPasses codeRetire gateService .both parseRetire m (h, false) → s.resolve h = some n →
    s.directory.slots[n].state = .active → s.directory.slots[n].retirePending = false →
    (s.control.adminWait = none → s.control.fault = false → exec .retire s = .next
      { s.custAnswered m.tag codeRetire .ok (h.bytes ++ [0, 1]) with
        directory := { s.directory with
          slots := put s.directory.slots n { s.directory.slots[n] with retirePending := true } }
        control := { s.control with adminWait := some (.mark n) } }) ∧
    (s.control.adminWait = none → s.control.fault = true → exec .retire s = .next
      { s.custAnswered m.tag codeRetire .ok (h.bytes ++ [0, 2]) with
        directory := { s.directory with
          slots := put s.directory.slots n { s.directory.slots[n] with state := .retired } }
        retention := { s.retention with
          slots := put s.retention.slots n { s.retention.slots[n] with latch := true } } }) ∧
    (s.control.adminWait ≠ none → exec .retire s = .next
      { s.custTaken with
        custProgress := some (.retire m.tag h n 0)
        directory := { s.directory with
          slots := put s.directory.slots n { s.directory.slots[n] with retirePending := true } } })) ∧
  (∀ (s : State) (n : SlotNo) (e : Line) (p : Pos), s.recallActs n e p = true ↔
    (∃ b, s.pos e p = .bound b ∧ b.slot = n) ∨
    ∃ b rp cls len kcw, s.pos e p = .loading b rp ∧ b.slot = n ∧
      { kind := FrameKind.load p cls len kcw, stale := false } ∈ s.buses[e].queue) ∧
  (∀ (s : State) (m : Message) (h : Handle) (n : SlotNo) (k : Nat),
    s.custPasses codeRetire gateService .both parseRetire m (h, true) → s.resolve h = some n →
    s.directory.slots[n].state = .active → s.directory.slots[n].retirePending = false →
    k = (four.map fun e => (four.filter fun p => s.recallActs n e p).length).sum →
    ∃ (positions : Vector (Vector Position 4) 4) (buses : Vector Transmitter 4),
      (∀ (e : Line) (p : Pos),
        (s.recallActs n e p = false → positions[e][p] = s.pos e p) ∧
        (s.recallActs n e p = true →
          (∀ b, s.pos e p = .bound b → positions[e][p] = .clearing b .recall) ∧
          (∀ b rp, s.pos e p = .loading b rp → positions[e][p] = .loading b true))) ∧
      (∀ e : Line, buses[e] = { s.buses[e] with queue := s.buses[e].queue ++
        (four.filter fun p => s.recallActs n e p).map fun p => { kind := .clear p, stale := false } }) ∧
      (s.control.adminWait = none → s.control.fault = false → exec .retire s = .next
        { s.custAnswered m.tag codeRetire .ok (h.bytes ++ [BitVec.ofNat 8 k, 1]) with
          positions := positions, buses := buses
          directory := { s.directory with
            slots := put s.directory.slots n { s.directory.slots[n] with retirePending := true } }
          control := { s.control with adminWait := some (.mark n) } }) ∧
      (s.control.adminWait = none → s.control.fault = true → exec .retire s = .next
        { s.custAnswered m.tag codeRetire .ok (h.bytes ++ [BitVec.ofNat 8 k, 2]) with
          positions := positions, buses := buses
          directory := { s.directory with
            slots := put s.directory.slots n { s.directory.slots[n] with state := .retired } }
          retention := { s.retention with
            slots := put s.retention.slots n { s.retention.slots[n] with latch := true } } }) ∧
      (s.control.adminWait ≠ none → exec .retire s = .next
        { s.custTaken with
          positions := positions, buses := buses
          custProgress := some (.retire m.tag h n k)
          directory := { s.directory with
            slots := put s.directory.slots n { s.directory.slots[n] with retirePending := true } } }))

/-- RECLAIM (R106, R128, R129): into an empty administration slot its erase is submitted and the bank is ERASING; into a
full one it waits with the epoch it was taken in. The checks of R128 come first, in their order: the bank ERASING, in use
(an ACTIVE slot, a live binding or the target reservation), and the fault flag. -/
def Obligations.ReclaimSubmitsItsErase : Prop :=
  (∀ (s : State) (m : Message) (b : Bank), s.custPasses codeReclaim gateRecovery .both parseReclaim m b →
    (s.directory.banks[b].condition = .erasing →
      exec .reclaim s = .next (s.custAnswered m.tag codeReclaim .bankUnavailable [])) ∧
    (s.directory.banks[b].condition ≠ .erasing →
      ((∃ n : SlotNo, bankOf n = b ∧ (s.directory.slots[n].state = .active ∨ 0 < s.liveCount n)) ∨
        s.directory.banks[b].reserved = true →
        exec .reclaim s = .next (s.custAnswered m.tag codeReclaim .bankInUse [])) ∧
      ((∀ n : SlotNo, bankOf n = b → s.directory.slots[n].state ≠ .active ∧ s.liveCount n = 0) →
        s.directory.banks[b].reserved = false → s.control.fault = true →
        exec .reclaim s = .next (s.custAnswered m.tag codeReclaim .nvFault [])))) ∧
  ∀ (s : State) (m : Message) (b : Bank),
    s.custPasses codeReclaim gateRecovery .both parseReclaim m b → s.directory.banks[b].condition ≠ .erasing →
    (∀ n : SlotNo, bankOf n = b → s.directory.slots[n].state ≠ .active ∧ s.liveCount n = 0) →
    s.directory.banks[b].reserved = false → s.control.fault = false →
    (s.control.adminWait = none → exec .reclaim s = .next
      { s.custAnswered m.tag codeReclaim .ok [BitVec.ofNat 8 b.val, s.directory.banks[b].epoch] with
        control := { s.control with adminWait := some (.erase b s.directory.banks[b].condition) }
        directory := { s.directory with
          banks := put s.directory.banks b { s.directory.banks[b] with condition := .erasing } } }) ∧
    (s.control.adminWait ≠ none → exec .reclaim s = .next
      { s.custTaken with custProgress := some (.reclaim m.tag b s.directory.banks[b].epoch) })

/-- OPEN and CLOSE SERVICE WINDOW and the window's expiry (R131, R132, R151, R163): with the door at its normal level the
window closes alone; a door found at its tamper level raises a DOOR event with its commissioned action, which alarms, begins
a zeroization, or in ZEROIZING and RECOVERY is recorded. The expiry acts only once the timer stands at 0. That the CLOSE's
completion stands behind a report of the same step is the model's choice (log 16); the stale mark and lastEnd of a transmitter
are fields of the model's own (logs 27 and 33). -/
def Obligations.ServiceWindowOpensAndCloses : Prop :=
  (∀ (s : State) (m : Message),
    (s.custPasses codeOpenWindow gateService .both parseNone m () → exec .openServiceWindow s = .next
      { s.custAnswered m.tag codeOpenWindow .ok (be16 s.windowMaximum) with
        monitor := { s.monitor with windowTimer := some (s.windowMaximum * cyclesPerSecond) } }) ∧
    (s.custPasses codeCloseWindow gateService .either parseNone m () →
      (s.monitor.windowTimer = none →
        exec .closeServiceWindow s = .next (s.custAnswered m.tag codeCloseWindow .ok [0])) ∧
      (s.monitor.windowTimer ≠ none → s.doorOpen = false → exec .closeServiceWindow s = .next
        { s.custAnswered m.tag codeCloseWindow .ok [1] with monitor := { s.monitor with windowTimer := none } }) ∧
      (s.monitor.windowTimer ≠ none → s.doorOpen = true → s.doorAction = .alarm → exec .closeServiceWindow s = .next
        { s.custAnswered m.tag codeCloseWindow .ok [1] with
          monitor := { s.monitor with windowTimer := none }
          retention := { s.retention with
            alarmFlags := s.retention.alarmFlags ||| 0x01
            tamper := { s.retention.tamper with
              eCount := min 255 (s.retention.tamper.eCount + 1), eSource := some .door
              eOutcome := some .alarmed, eTime := s.stamp } } }) ∧
      (s.monitor.windowTimer ≠ none → s.doorOpen = true → s.doorAction = .zeroize →
        ∃ t, exec .closeServiceWindow s = .next t ∧
          Zeroized { s with monitor := { s.monitor with windowTimer := none } } t .door ∧ t.custProgress = none ∧
          t.custLink.requests = s.custLink.requests.tail ∧
          t.custLink.completions = s.custLink.completions ++
            s.zeroizationReports (decide (s.custLink.completions = [])) ++ [⟨m.tag, codeCloseWindow, .ok, [1]⟩] ∧
          t.ceremony.undelivered = s.zeroizationUndelivered (decide (s.custLink.completions = []))))) ∧
  (∀ s : State,
    (s.monitor.windowTimer ≠ some 0 → exec .serviceWindowExpiry s = .next s) ∧
    (s.monitor.windowTimer = some 0 → s.doorOpen = false → exec .serviceWindowExpiry s = .next
      { s with monitor := { s.monitor with windowTimer := none } }) ∧
    (s.monitor.windowTimer = some 0 → s.doorOpen = true →
      (s.custody.present = .service → s.doorAction = .alarm → exec .serviceWindowExpiry s = .next
        { s with
          monitor := { s.monitor with windowTimer := none }
          retention := { s.retention with
            alarmFlags := s.retention.alarmFlags ||| 0x01
            tamper := { s.retention.tamper with
              eCount := min 255 (s.retention.tamper.eCount + 1), eSource := some .door
              eOutcome := some .alarmed, eTime := s.stamp } } }) ∧
      (s.custody.present = .service → s.doorAction = .zeroize → ∃ t, exec .serviceWindowExpiry s = .next t ∧
        ZeroizedByEvent { s with monitor := { s.monitor with windowTimer := none } } t .door) ∧
      (s.custody.present = .zeroizing ∨ s.custody.present = .recovery → exec .serviceWindowExpiry s = .next
        { s with
          monitor := { s.monitor with windowTimer := none }
          retention := { s.retention with
            alarmFlags := s.retention.alarmFlags ||| 0x01
            tamper := { s.retention.tamper with
              eCount := min 255 (s.retention.tamper.eCount + 1), eSource := some .door
              eOutcome := some .recorded, eTime := s.stamp } } })))

/-- SET ALARM MASK (R133), CLEAR NV FAULT (R115, R135), CLEAR RESET FLAGS (R136). -/
def Obligations.MaskFaultAndResetRequestsWrite : Prop :=
  (∀ (s : State) (m : Message) (mask : Byte),
    s.custPasses codeSetMask gateService .either parseFlags m mask → exec .setAlarmMask s = .next
      { s.custAnswered m.tag codeSetMask .ok [s.retention.alarmMask, mask] with
        retention := { s.retention with alarmMask := mask } }) ∧
  (∀ (s : State) (m : Message),
    (s.custPasses codeClearFault gateRecovery .either parseNone m () → exec .clearNvFault s = .next
      { s.custAnswered m.tag codeClearFault .ok [boolByte s.control.fault] with
        control := { s.control with fault := false } }) ∧
    (s.custPasses codeClearReset gateClears .either parseNone m () → exec .clearResetFlags s = .next
      { s.custAnswered m.tag codeClearReset .ok [s.retention.resetFlags] with
        retention := { s.retention with resetFlags := 0 } }))

/-- CLEAR ALARMS (R134): a selected latched flag is cleared exactly when its condition no longer holds; the conditions
of the eight flags; and the alarm line as the flags and the mask then have it. -/
def Obligations.ClearAlarmsClearsWhatHasCeased : Prop :=
  (∀ s : State,
    (s.alarmHolds .door = true ↔ s.doorOpen = true) ∧ (s.alarmHolds .mesh = true ↔ s.meshBroken = true) ∧
    (s.alarmHolds .supplyHigh = true ↔ s.monitor.supplyHigh = true) ∧
    (s.alarmHolds .batteryLow = true ↔ s.retention.batteryLow = true) ∧
    (s.alarmHolds .clock = true ↔ s.failLimit ≤ s.monitor.failCount) ∧
    (s.alarmHolds .bankDegraded = true ↔ ∃ b : Bank, s.directory.banks[b].degraded = true) ∧
    (s.alarmHolds .nvFault = true ↔ s.control.fault = true) ∧
    (s.alarmHolds .zeroized = true ↔ s.custody.present = .zeroizing) ∧
    (s.lineServed = true →
      (s.alarmOutput = true ↔ s.retention.alarmFlags &&& s.retention.alarmMask ≠ 0))) ∧
  ∀ (s : State) (m : Message) (selection : Byte),
    s.custPasses codeClearAlarms gateClears .either parseFlags m selection →
    ∃ flags cleared kept : Byte,
      exec .clearAlarms s = .next
        { s.custAnswered m.tag codeClearAlarms .ok [cleared, kept] with
          retention := { s.retention with alarmFlags := flags } } ∧
      ∀ a : Alarm,
        flags.getLsbD a.bit = (s.retention.alarmFlags.getLsbD a.bit &&
          !(selection.getLsbD a.bit && !s.alarmHolds a)) ∧
        cleared.getLsbD a.bit = (s.retention.alarmFlags.getLsbD a.bit && selection.getLsbD a.bit &&
          !s.alarmHolds a) ∧
        kept.getLsbD a.bit = (s.retention.alarmFlags.getLsbD a.bit && selection.getLsbD a.bit && s.alarmHolds a)

/-- SET TIME (R142, R143, R146): the four steps of its checks in their order; one that passes them sets the calendar and
refreshes the shown flags. -/
def Obligations.SetTimeSetsTheCalendar : Prop :=
  (∀ (s : State) (m : Message), s.takeable .cust = some m → m.code = codeSetTime →
    (s.custody.present = .zeroizing →
      exec .setTime s = .next (s.custAnswered m.tag codeSetTime .zeroized [])) ∧
    (s.custody.present = .uncommissioned →
      exec .setTime s = .next (s.custAnswered m.tag codeSetTime .mode [])) ∧
    (s.custody.present = .service ∨ s.custody.present = .recovery →
      (m.bytes.length ≠ 8 ∨ m.overlong = true →
        exec .setTime s = .next (s.custAnswered m.tag codeSetTime .badRequest [])) ∧
      (m.bytes.length = 8 → m.overlong = false → (s.custody.csa = false ∨ s.custody.csb = false) →
        exec .setTime s = .next (s.custAnswered m.tag codeSetTime .switches [])))) ∧
  ∀ (s : State) (m : Message) (d : Date) (t : Time),
    s.custPasses codeSetTime gateRecovery .both parseSetTime m (d, t) →
    (validDate d = true → validTime t = true → ∃ u, exec .setTime s = .next u ∧
      u.retention = { s.retention with calendar :=
        { date := d, time := t, set := true, counting := true, sub := 0 } } ∧
      u.custLink = (s.custAnswered m.tag codeSetTime .ok
        (dateBytes s.retention.calendar.date ++ timeBytes s.retention.calendar.time ++
          [boolByte s.retention.calendar.set] ++ dateBytes d ++ timeBytes t)).custLink ∧
      (∀ n : SlotNo, s.directory.slots[n].state ≠ .active → u.directory.slots[n] = s.directory.slots[n]) ∧
      (∀ n : SlotNo, s.directory.slots[n].state = .active → u.directory.slots[n] = { s.directory.slots[n] with
        shownNotYet := judge u.retention.calendar s.directory.slots[n].header == .notYetActive
        shownExpired := judge u.retention.calendar s.directory.slots[n].header == .expired }) ∧
      u.directory.banks = s.directory.banks ∧ u.positions = s.positions ∧ u.control = s.control ∧
      u.ceremony = s.ceremony ∧ u.custody = s.custody ∧ u.monitor = s.monitor ∧ u.array = s.array ∧
      u.buses = s.buses ∧ u.lineProgress = s.lineProgress ∧ u.fuses = s.fuses) ∧
    ((validDate d = false ∨ validTime t = false) →
      exec .setTime s = .next (s.custAnswered m.tag codeSetTime .badTime []))

/-- REARM (R170, R163): with no source standing, SERVICE again and the interval timer running. Sources that stand, all with
the ALARM action, are alarmed in SERVICE; one with the ZEROIZE action begins a zeroization, and by itself leaves what
Zeroized says, with its order of reports (log 16), stale mark and lastEnd (logs 27 and 33). The REARM completes in each case.
One draw is used up for the order of standing sources (log 26). -/
def Obligations.RearmReturnsToService : Prop :=
  ∀ (s : State) (m : Message),
    s.custPasses codeRearm gateRearm .both parseNone m () →
    ∃ banks : Byte,
      (∀ b : Bank, banks.getLsbD b.val = (s.directory.banks[b].condition == .eraseIncomplete)) ∧
      (s.doorOpen = false → s.meshBroken = false → s.monitor.supplyHigh = false → s.monitor.failCount < s.failLimit →
        exec .rearm s = .next
          { s.custAnswered m.tag codeRearm .ok [banks] with
            draws := s.draws + 1
            retention := { s.retention with resume := .service }
            custody := { s.custody with present := .service }
            monitor := { s.monitor with intervalTimer := some (s.testInterval * cyclesPerSecond) } }) ∧
      (s.retention.marker = true → (∀ src, s.stands src → s.standingAction src = .alarm) →
        ∃ t, exec .rearm s = .next t ∧ t.custody = { s.custody with present := .service } ∧
          t.retention.resume = .service ∧ t.retention.covers = s.retention.covers ∧
          t.directory = s.directory ∧ t.custLink = (s.custAnswered m.tag codeRearm .ok [banks]).custLink ∧
          (∀ src a, src.alarm = some a →
            (s.stands src → t.retention.alarmFlags.getLsbD a.bit = true) ∧
            (¬ s.stands src → t.retention.alarmFlags.getLsbD a.bit = s.retention.alarmFlags.getLsbD a.bit)) ∧
          ((∃ src, s.stands src) → t.retention.tamper.eOutcome = some .alarmed)) ∧
      (s.retention.marker = true → (∃ src, s.stands src ∧ s.standingAction src = .zeroize) →
        ∃ t, exec .rearm s = .next t ∧ t.custody.present = .zeroizing ∧ t.retention.resume = .zeroizing ∧
          (∀ b : Bank, t.retention.covers[b].valid = false ∧ t.retention.owed[b] = true) ∧
          (∀ src a, src.alarm = some a → s.stands src → t.retention.alarmFlags.getLsbD a.bit = true) ∧
          t.retention.alarmFlags.getLsbD 7 = true ∧
          ⟨m.tag, codeRearm, .ok, [banks]⟩ ∈ t.custLink.completions) ∧
      (∀ src, s.retention.marker = true → s.stands src → s.standingAction src = .zeroize →
        (∀ other, s.stands other → other = src) → ∃ t, exec .rearm s = .next t ∧ Zeroized s t src)

/-! ## Tamper events and zeroization -/

/-- ZEROIZE (R137, R164) begins a COMMAND zeroization and completes OK with the count after it; that its completion stands
behind a report of the same step is the model's choice (log 16), as it is for the ZEROIZED completion of a request in
progress. In SERVICE so do a DOOR event with the window closed and the ZEROIZE door action, a MESH event, and a SUPPLY_HIGH
event with the ZEROIZE action (R149 to R152, R163); the custodian port's queue is kept (R194). Each transmitter breaks off a
frame being sent, keeps the outstanding one and discards the rest (R97); its stale mark and lastEnd are fields of the model's
own (logs 27 and 33). An ABANDONED report is written exactly when a completion entry is free and not reserved, and else
its cause is kept (R49); the ZEROIZE's own entry is reserved (R35). -/
def Obligations.EventsInServiceBeginAZeroization : Prop :=
  (∀ s : State, s.custEntryFree = true ↔
    s.custLink.completions = [] ∨ (s.custLink.completions.length = 1 ∧ s.custProgress = none)) ∧
  (∀ (s : State) (m : Message), s.custPasses codeZeroize gateService .both parseNone m () →
    s.retention.marker = true →
    ∃ t, exec .zeroize s = .next t ∧ Zeroized s t .command ∧ t.custProgress = none ∧
      t.custLink.requests = s.custLink.requests.tail ∧
      t.custLink.completions = s.custLink.completions ++
        s.zeroizationReports (decide (s.custLink.completions = [])) ++
        [⟨m.tag, codeZeroize, .ok, [BitVec.ofNat 8 (min 255 (s.retention.tamper.zCount + 1))]⟩] ∧
      t.ceremony.undelivered = s.zeroizationUndelivered (decide (s.custLink.completions = []))) ∧
  (∀ (s : State) (c : EnclosureSettings) (samples : Samples), s.custody.present = .service →
    s.retention.marker = true → s.retention.enclosure = some c →
    (s.retention.doorTamper = false → s.monitor.windowTimer = none → c.doorAction = .zeroize →
      (∀ i : Fin 4, samples[i] = c.doorHigh) →
      ∃ t, exec (.doorEvent samples) s = .next t ∧ ZeroizedByEvent s t .door ∧ t.retention.doorTamper = true) ∧
    (s.retention.meshTamper = false → (∀ i : Fin 4, samples[i] = c.meshHigh) →
      ∃ t, exec (.meshEvent samples) s = .next t ∧ ZeroizedByEvent s t .mesh ∧ t.retention.meshTamper = true) ∧
    (s.custody.record = .verified → s.monitor.supplyHigh = false → s.supplyAction = .zeroize →
      (∀ i : Fin 4, samples[i] = true) →
      ∃ t, exec (.supplyHighEvent samples) s = .next t ∧ ZeroizedByEvent s t .supplyHigh ∧
        t.monitor.supplyHigh = true))

/-- DOOR_EVENT, MESH_EVENT, SUPPLY_HIGH_EVENT and a CLOCK_MEASUREMENT whose evaluation fails at the limit F are judged by the
mode they find (R163), with the action of their source: the door's commissioned one, or ALARM while the window is open
(R131, R151); ZEROIZE for the mesh (R149); the commissioned ones for supply and clock (R149, R152, R156). Each judgement is
taken up first. Samples of which one is at the normal level raise nothing (R150). That a zeroization's ABANDONED report stands
before a ZEROIZED completion of the same step is the model's choice (log 16), and so is that the commands bring the cycles and
say when the measurement ends (log 40); a transmitter's stale mark and lastEnd are fields of its own (logs 27 and 33). -/
def Obligations.TamperEventsElsewhereAreJudgedByMode : Prop :=
  (∀ (s : State) (c : EnclosureSettings) (samples : Samples), s.retention.marker = true →
    s.retention.enclosure = some c →
    (s.retention.doorTamper = false → (∀ i : Fin 4, samples[i] = c.doorHigh) →
      ∀ act : Action, act = (if s.monitor.windowTimer.isSome then .alarm else c.doorAction) →
      ∃ t, exec (.doorEvent samples) s = .next t ∧
        JudgedByMode { s with retention := { s.retention with doorTamper := true } } t .door act) ∧
    (s.retention.meshTamper = false → (∀ i : Fin 4, samples[i] = c.meshHigh) →
      ∃ t, exec (.meshEvent samples) s = .next t ∧
        JudgedByMode { s with retention := { s.retention with meshTamper := true } } t .mesh .zeroize) ∧
    ((∃ i : Fin 4, samples[i] ≠ c.doorHigh) → exec (.doorEvent samples) s = .next s) ∧
    ((∃ i : Fin 4, samples[i] ≠ c.meshHigh) → exec (.meshEvent samples) s = .next s)) ∧
  (∀ (s : State) (samples : Samples), s.retention.marker = true → s.custody.record = .verified →
    s.custody.present ≠ .backup → s.custody.present ≠ .halted → s.monitor.supplyHigh = false →
    (∀ i : Fin 4, samples[i] = true) → ∀ act : Action, act = (if s.fuses[4] = 2 then .alarm else .zeroize) →
    ∃ t, exec (.supplyHighEvent samples) s = .next t ∧
      JudgedByMode { s with monitor := { s.monitor with supplyHigh := true } } t .supplyHigh act) ∧
  (∀ (s : State) (cycles : Nat) (x y z w : Measurement) (d : Int), s.retention.marker = true →
    s.custody.record = .verified →
    s.custServed = true ∨ (s.custody.present = .starting ∧ s.custody.phase = .clearAllWait) →
    s.monitor.evaluation = [x, y, z] →
    w = ⟨min 4095 (s.monitor.current.count + cycles),
      s.monitor.current.saturated || decide (4095 ≤ s.monitor.current.count + cycles)⟩ → 0 < w.count →
    d = ((x.count + y.count + z.count + w.count + 2) / 4 : Nat) - (s.retention.baseline : Int) →
    x.saturated = true ∨ y.saturated = true ∨ z.saturated = true ∨ w.saturated = true ∨ d < -(s.passBand : Int) ∨
      (s.passBand : Int) < d →
    s.monitor.failCount < 255 → s.monitor.failCount + 1 = s.failLimit →
    ∀ act : Action, act = (if s.fuses[5] = 2 then .alarm else .zeroize) →
    ∃ t, exec (.clockMeasurement cycles true) s = .next t ∧
      JudgedByMode { s with monitor := { s.monitor with
        current := ⟨0, false⟩, evaluation := [], failCount := s.monitor.failCount + 1 } } t .clock act)

/-- The monitors' other judgements (R150, R152): what returns to normal raises nothing, an enclosure input by four samples
at its normal level; without a settings copy the inputs are not judged; a low battery latches its flag and enters nothing
in the tamper record. The supply and the battery are judged by four samples of their comparisons, and samples that differ
change nothing. -/
def Obligations.MonitorsJudgeWithoutEvents : Prop :=
  ∀ s : State,
    (∀ (c : EnclosureSettings) (samples : Samples), s.retention.marker = true → s.retention.enclosure = some c →
      ((∀ i : Fin 4, samples[i] = !c.doorHigh) → exec (.enclosureNormal .door samples) s =
        .next { s with retention := { s.retention with doorTamper := false } }) ∧
      ((∀ i : Fin 4, samples[i] = !c.meshHigh) → exec (.enclosureNormal .mesh samples) s =
        .next { s with retention := { s.retention with meshTamper := false } }) ∧
      ((∃ i : Fin 4, samples[i] = c.doorHigh) → exec (.enclosureNormal .door samples) s = .next s) ∧
      ((∃ i : Fin 4, samples[i] = c.meshHigh) → exec (.enclosureNormal .mesh samples) s = .next s)) ∧
    (s.retention.marker = false ∨ s.retention.enclosure = none → ∀ (input : Enclosure) (samples : Samples),
      exec (.enclosureNormal input samples) s = .next s) ∧
    (∀ samples : Samples, (∀ i : Fin 4, samples[i] = false) →
      s.custody.record = .verified → s.custody.present ≠ .backup → s.custody.present ≠ .halted →
      exec (.supplyNotHigh samples) s = .next { s with monitor := { s.monitor with supplyHigh := false } }) ∧
    (∀ samples : Samples, (∀ i : Fin 4, samples[i] = true) →
      s.retention.batteryLow = false → s.retention.marker = true →
      exec (.batteryLow samples) s = .next { s with retention := { s.retention with
        batteryLow := true, alarmFlags := s.retention.alarmFlags ||| 0x08 } }) ∧
    (∀ samples : Samples, (∀ i : Fin 4, samples[i] = false) →
      exec (.batteryNotLow samples) s = .next { s with retention := { s.retention with batteryLow := false } }) ∧
    (∀ samples : Samples,
      ((∃ i : Fin 4, samples[i] = false) →
        exec (.supplyHighEvent samples) s = .next s ∧ exec (.batteryLow samples) s = .next s) ∧
      ((∃ i : Fin 4, samples[i] = true) →
        exec (.supplyNotHigh samples) s = .next s ∧ exec (.batteryNotLow samples) s = .next s))

/-- CLOCK_MEASUREMENT (R153 to R156): the measurement in progress counts, to 4095 and then saturated; at its end the first
three only join the evaluation; a fourth that passes moves the baseline by d times s + 1 over 32 toward zero, within
N - Amax to N + Amax, and clears the fail count; one that fails raises the fail count, at most to 255, as one over a stopped
clock does, and at F raises a CLOCK event, which with the ZEROIZE action begins a zeroization in SERVICE, and none on a
blank record (R149, R174). That commands bring the cycles and say when the measurement ends is the model's choice
(log 40), and so is the order of a zeroization's reports (log 16); a transmitter's stale mark and lastEnd are fields of its own
(logs 27 and 33). -/
def Obligations.ClockEvaluationPassesOrFails : Prop :=
  (∀ (s : State) (cycles : Nat) (w : Measurement),
    s.custServed = true ∨ (s.custody.present = .starting ∧ s.custody.phase = .clearAllWait) →
    w = ⟨min 4095 (s.monitor.current.count + cycles),
      s.monitor.current.saturated || decide (4095 ≤ s.monitor.current.count + cycles)⟩ →
    exec (.clockMeasurement cycles false) s = .next { s with monitor := { s.monitor with current := w } } ∧
    (0 < w.count → s.monitor.evaluation.length < 3 →
      exec (.clockMeasurement cycles true) s = .next { s with monitor := { s.monitor with
        current := ⟨0, false⟩, evaluation := s.monitor.evaluation ++ [w] } }) ∧
    (∀ x y z : Measurement, 0 < w.count → s.monitor.evaluation = [x, y, z] →
      ∀ d : Int, d = ((x.count + y.count + z.count + w.count + 2) / 4 : Nat) - (s.retention.baseline : Int) →
      (x.saturated = false → y.saturated = false → z.saturated = false → w.saturated = false →
        s.baselineLimit ≤ 1023 → -(s.passBand : Int) ≤ d → d ≤ s.passBand →
        ∃ baseline : Nat,
          (baseline : Int) = max (3906 - (s.baselineLimit : Int)) (min (3906 + (s.baselineLimit : Int))
            ((s.retention.baseline : Int) + (d * ((s.stepWeight : Int) + 1)).tdiv 32)) ∧
          exec (.clockMeasurement cycles true) s = .next { s with
            retention := { s.retention with baseline := baseline }
            monitor := { s.monitor with current := ⟨0, false⟩, evaluation := [], failCount := 0 } }) ∧
      (x.saturated = true ∨ y.saturated = true ∨ z.saturated = true ∨ w.saturated = true ∨ d < -(s.passBand : Int) ∨
          (s.passBand : Int) < d →
        s.monitor.failCount = 255 ∨ s.monitor.failCount + 1 ≠ s.failLimit ∨ s.custody.record = .blank →
        exec (.clockMeasurement cycles true) s = .next { s with monitor := { s.monitor with
          current := ⟨0, false⟩, evaluation := [], failCount := min 255 (s.monitor.failCount + 1) } }))) ∧
  (∀ s : State, s.lineServed = true → s.monitor.evaluation = [⟨0, false⟩, ⟨0, false⟩, ⟨0, false⟩] →
    s.monitor.current = ⟨0, false⟩ →
    s.passBand < s.retention.baseline → s.monitor.failCount = 255 ∨ s.monitor.failCount + 1 ≠ s.failLimit →
    ∃ t, exec (.clockMeasurement 0 true) s = .next t ∧ t.retention = s.retention ∧
      t.monitor = { s.monitor with evaluation := [], failCount := min 255 (s.monitor.failCount + 1) }) ∧
  (∀ (s : State) (cycles : Nat) (x y z w : Measurement), s.custody.present = .service → s.retention.marker = true →
    s.custody.record = .verified → s.monitor.evaluation = [x, y, z] →
    w = ⟨min 4095 (s.monitor.current.count + cycles),
      s.monitor.current.saturated || decide (4095 ≤ s.monitor.current.count + cycles)⟩ →
    passes [x, y, z, w] s.retention.baseline s.passBand = false →
    s.monitor.failCount < 255 → s.monitor.failCount + 1 = s.failLimit → s.clockAction = .zeroize → 0 < w.count →
    ∃ t, exec (.clockMeasurement cycles true) s = .next t ∧ Zeroized s t .clock ∧
      t.monitor.failCount = s.monitor.failCount + 1 ∧ t.retention.baseline = s.retention.baseline)

/-- PATTERN_TEST_INTERVAL (R157), which acts only once its timer stands at 0, and PATTERN_TEST_RESULT (R158, R159, R17, R160):
the mismatches of the row as read are counted; at most the delta threshold they pass, above it they fail; the fail that
reaches the test fail threshold sets the degraded flag, and latches BANK_DEGRADED where the flag was clear; the next bank
advances. With the bank ERASING when its read's turn comes the test is skipped (R100), by either command (log 30). -/
def Obligations.PatternTestsRunAndAreJudged : Prop :=
  (∀ s : State,
    (s.custody.present = .service → s.monitor.intervalTimer = some 0 →
      (s.control.testWait = none → (∀ b : Bank, s.control.exec ≠ some (.readReference b)) →
        exec .patternTestInterval s = .next { s with
          monitor := { s.monitor with intervalTimer := some (s.testInterval * cyclesPerSecond) }
          control := { s.control with testWait := some s.retention.nextTest } }) ∧
      (s.control.testWait.isSome = true ∨ (∃ b : Bank, s.control.exec = some (.readReference b)) →
        exec .patternTestInterval s = .next { s with
          monitor := { s.monitor with intervalTimer := some (s.testInterval * cyclesPerSecond) } })) ∧
    (s.custody.present ≠ .service ∨ s.monitor.intervalTimer ≠ some 0 →
      exec .patternTestInterval s = .next s)) ∧
  (∀ (s : State) (b : Bank) (drift : List Byte), s.control.exec = some (.readReference b) →
    ∃ t, exec (.patternTestResult drift) s = .next t ∧ t.control = { s.control with exec := none } ∧
      t.retention.nextTest = s.retention.nextTest + 1 ∧ t.array = s.array ∧
      (∀ b', b' ≠ b → t.retention.tests[b'] = s.retention.tests[b']) ∧
      t.retention.tests[b].mismatches = mismatchCount (patternDiff s.array.rows[b] drift) ∧
      t.retention.tests[b].time = s.stamp ∧
      (mismatchCount (patternDiff s.array.rows[b] drift) ≤ s.deltaThreshold →
        t.retention.tests[b].last = some .pass ∧ t.retention.tests[b].fails = s.retention.tests[b].fails ∧
        t.retention.tests[b].firstFail = s.retention.tests[b].firstFail ∧ t.directory = s.directory ∧
        t.retention.alarmFlags = s.retention.alarmFlags) ∧
      (s.deltaThreshold < mismatchCount (patternDiff s.array.rows[b] drift) →
        t.retention.tests[b].last = some .fail ∧
        t.retention.tests[b].fails = min 255 (s.retention.tests[b].fails + 1) ∧
        t.retention.tests[b].firstFail = some (firstDiffering (patternDiff s.array.rows[b] drift))) ∧
      (s.deltaThreshold < mismatchCount (patternDiff s.array.rows[b] drift) →
        (s.retention.tests[b].fails = 255 ∨ s.retention.tests[b].fails + 1 ≠ s.testFailThreshold →
          t.directory = s.directory ∧ t.retention.alarmFlags = s.retention.alarmFlags) ∧
        (s.retention.tests[b].fails < 255 → s.retention.tests[b].fails + 1 = s.testFailThreshold →
          t.directory = { s.directory with
            banks := put s.directory.banks b { s.directory.banks[b] with degraded := true } } ∧
          t.retention.alarmFlags = if s.directory.banks[b].degraded = false ∧ s.lineServed = true ∧
            s.retention.marker = true then s.retention.alarmFlags ||| 0x20 else s.retention.alarmFlags)) ∧
      t.retention = { s.retention with
        tests := t.retention.tests, nextTest := t.retention.nextTest, alarmFlags := t.retention.alarmFlags } ∧
      t.positions = s.positions ∧ t.buses = s.buses ∧
      t.ceremony = s.ceremony ∧ t.custody = s.custody ∧ t.monitor = s.monitor ∧ t.custLink = s.custLink ∧
      t.lineLinks = s.lineLinks ∧ t.lineProgress = s.lineProgress ∧ t.custProgress = s.custProgress ∧
      t.fuses = s.fuses) ∧
  (∀ (s : State) (b : Bank) (drift : List Byte), s.control.exec = none → s.control.suspended = none →
    s.control.testWait = some b → s.control.turnOf 4 → s.directory.banks[b].condition = .erasing →
    exec (.patternTestResult drift) s = .next (s.skipped b) ∧ exec .arrayOperationStart s = .next (s.skipped b))

/-- CALENDAR_SECOND (R140), which acts only on a counting calendar at the last cycle of a second: within a day the time
advances by one second; at midnight the next day begins and a directory in use is swept (R147); the latest moment stays and
stops the calendar. The next day carries into the month and the year, with February of 29 days in the years divisible by 4 but
2100. -/
def Obligations.CalendarSecondAdvancesTheTime : Prop :=
  (∀ y m d : Nat,
    (d < monthLength y m → nextDay ⟨y, m, d⟩ = ⟨y, m, d + 1⟩) ∧
    (monthLength y m ≤ d → m < 12 → nextDay ⟨y, m, d⟩ = ⟨y, m + 1, 1⟩) ∧
    (monthLength y m ≤ d → 12 ≤ m → nextDay ⟨y, m, d⟩ = ⟨y + 1, 1, 1⟩)) ∧
  (∀ y : Nat, (monthLength y 2 = if y % 4 = 0 ∧ y ≠ 2100 then 29 else 28) ∧
    (∀ m ∈ [4, 6, 9, 11], monthLength y m = 30) ∧ (∀ m ∈ [1, 3, 5, 7, 8, 10, 12], monthLength y m = 31)) ∧
  (∀ (s : State) (h mi sec : Nat), s.retention.calendar.counting = true → s.retention.calendar.sub = 32767 →
    s.retention.calendar.time = ⟨h, mi, sec⟩ → validTime ⟨h, mi, sec⟩ = true →
    (3600 * h + 60 * mi + sec + 1 < 86400 → ∃ h' mi' sec' : Nat, validTime ⟨h', mi', sec'⟩ = true ∧
      3600 * h' + 60 * mi' + sec' = 3600 * h + 60 * mi + sec + 1 ∧
      exec .calendarSecond s = .next { s with retention := { s.retention with
        calendar := { s.retention.calendar with time := ⟨h', mi', sec'⟩, sub := 0 } } }) ∧
    (3600 * h + 60 * mi + sec + 1 = 86400 → s.retention.calendar.date ≠ ⟨2199, 12, 31⟩ →
      ∃ t, exec .calendarSecond s = .next t ∧
        t.retention = { s.retention with calendar :=
          { s.retention.calendar with date := nextDay s.retention.calendar.date, time := ⟨0, 0, 0⟩, sub := 0 } } ∧
        (s.directory.inUse = false → t.directory = s.directory) ∧
        (s.directory.inUse = true → ∀ n : SlotNo, t.directory.slots[n] =
          if s.directory.slots[n].state = .active then { s.directory.slots[n] with
            shownNotYet := judge t.retention.calendar s.directory.slots[n].header == .notYetActive
            shownExpired := judge t.retention.calendar s.directory.slots[n].header == .expired }
          else s.directory.slots[n]) ∧
        t.directory.banks = s.directory.banks ∧ t.positions = s.positions ∧ t.control = s.control ∧
        t.lineProgress = s.lineProgress ∧ t.buses = s.buses ∧ t.ceremony = s.ceremony ∧ t.custody = s.custody) ∧
    (s.retention.calendar.date = ⟨2199, 12, 31⟩ → h = 23 → mi = 59 → sec = 59 →
      exec .calendarSecond s = .next { s with retention := { s.retention with
        calendar := { s.retention.calendar with counting := false, sub := 0 } } })) ∧
  (∀ s : State, s.retention.calendar.counting = false ∨ s.retention.calendar.sub ≠ 32767 →
    exec .calendarSecond s = .next s)

/-! ## Bindings -/

/-- BIND that passes every check (R63, R64, R59): the lowest FREE position becomes LOADING with the grant, and the
read is submitted. -/
def Obligations.BindReservesAndReads : Prop :=
  ∀ (s : State) (l : Line) (m : Message) (h : Handle) (asked : Nat) (n : SlotNo) (p : Pos) (grant : Nat),
    s.linePasses l codeBind parseBind m (h, asked) → s.resolve h = some n → s.bindable l n →
    s.buses[l].ready = true → s.pos l p = .free → (∀ p' : Pos, p' < p → s.pos l p' ≠ .free) →
    grant = (if (hAllowance s.directory.slots[n].header).isSome then min asked s.retention.slots[n].remaining
      else min asked 16777215) → 0 < grant →
    ∃ remaining : Nat,
      remaining = (if (hAllowance s.directory.slots[n].header).isSome then s.retention.slots[n].remaining - grant
        else s.retention.slots[n].remaining) ∧
      exec (.bind l) s = .next { s.lineTaken l with
        retention := { s.retention with
          slots := put s.retention.slots n { s.retention.slots[n] with remaining := remaining } }
        positions := s.positionsWith l p (.loading { handle := h, slot := n, reservation := grant } false)
        control := { s.control with lineWait := put s.control.lineWait l (some n) }
        lineProgress := put s.lineProgress l (some (.bindReading m.tag p asked grant)) }

/-- BIND refused by a check of R63 completes with the first failing check's outcome and changes nothing else: the handle
(check 1), the slot's state (2), domain and class (3), the hold flag (4), the key's validity by R144 (5), the engine (6),
a FREE position (7) and the cards left (8). -/
def Obligations.BindIsRefusedInOrder : Prop :=
  ∀ (s : State) (l : Line) (m : Message) (h : Handle) (asked : Nat),
    s.linePasses l codeBind parseBind m (h, asked) →
    (s.resolve h = none → exec (.bind l) s = .next (s.lineAnswered l m.tag codeBind .staleHandle [])) ∧
    (∀ n, s.resolve h = some n →
      (s.directory.slots[n].state = .empty →
        exec (.bind l) s = .next (s.lineAnswered l m.tag codeBind .slotEmpty [])) ∧
      (s.directory.slots[n].state = .lost →
        exec (.bind l) s = .next (s.lineAnswered l m.tag codeBind .keyLost [])) ∧
      (s.directory.slots[n].state = .damaged →
        exec (.bind l) s = .next (s.lineAnswered l m.tag codeBind .keyDamaged [])) ∧
      (s.directory.slots[n].state = .retired ∨
          (s.directory.slots[n].state = .active ∧ s.directory.slots[n].retirePending = true) →
        exec (.bind l) s = .next (s.lineAnswered l m.tag codeBind .keyRetired [])) ∧
      (s.directory.slots[n].state = .active → s.directory.slots[n].retirePending = false →
        (hDomain s.directory.slots[n].header ≠ s.allocations[l].domain ∨
          classInMask (hClass s.directory.slots[n].header) s.allocations[l].mask = false →
          exec (.bind l) s = .next (s.lineAnswered l m.tag codeBind .notAllocated [])) ∧
        (hDomain s.directory.slots[n].header = s.allocations[l].domain →
          classInMask (hClass s.directory.slots[n].header) s.allocations[l].mask = true →
          (s.retention.slots[n].hold = true →
            exec (.bind l) s = .next (s.lineAnswered l m.tag codeBind .keyHeld [])) ∧
          (s.retention.slots[n].hold = false → hDated s.directory.slots[n].header = true →
            (s.retention.calendar.set = false →
              exec (.bind l) s = .next (s.lineAnswered l m.tag codeBind .clockUnset [])) ∧
            (s.retention.calendar.set = true →
              (∀ a, hActivation s.directory.slots[n].header = some a → dateBefore s.retention.calendar.date a = true →
                exec (.bind l) s = .next (s.lineAnswered l m.tag codeBind .keyNotActive [])) ∧
              ((∀ a, hActivation s.directory.slots[n].header = some a →
                  dateBefore s.retention.calendar.date a = false) →
                ∀ x, hExpiry s.directory.slots[n].header = some x → dateBefore x s.retention.calendar.date = true →
                exec (.bind l) s = .next (s.lineAnswered l m.tag codeBind .keyExpired [])))))) ∧
      (s.bindable l n → s.buses[l].ready = false →
        exec (.bind l) s = .next (s.lineAnswered l m.tag codeBind .engineAbsent [])) ∧
      (s.bindable l n → s.buses[l].ready = true → (∀ p : Pos, s.pos l p ≠ .free) →
        exec (.bind l) s = .next (s.lineAnswered l m.tag codeBind .noPosition [])) ∧
      (s.bindable l n → s.buses[l].ready = true → (∃ p : Pos, s.pos l p = .free) →
        (hAllowance s.directory.slots[n].header).isSome = true → s.retention.slots[n].remaining = 0 →
        exec (.bind l) s = .next (s.lineAnswered l m.tag codeBind .exhausted [])))

/-- READ_SLOT_COMPLETE (R13, R65 to R67, R69, R87): a record that verifies, on a slot that still passes, has its LOAD queued
with the unmasked key in the transfer buffer (its class from the header copy, its length and KCW from the record as read,
the model's choice of log 43); one that fails leaves the slot DAMAGED and completes KEY_DAMAGED; one whose slot no longer
passes completes with that check's outcome; in both the position is FREE and the reservation returned. A BIND whose engine
was lost completes ENGINE_ABSENT. Only an ACTIVE slot becomes DAMAGED. A suspended erase resumes when no line read is left or its
cap has been reached (R111). Under a cover that the loss of the validity marker has made invalid the BIND fails
KEY_LOST (the model's choice, log 11). -/
def Obligations.ReadSlotCompleteLoadsOrDamages : Prop :=
  (∀ (s : State) (l : Line) (n : SlotNo) (tag : Byte) (p : Pos) (asked grant : Nat) (b : Binding) (rp : Bool)
      (drift : List Byte),
    s.control.exec = some (.readSlot l n) →
    s.lineProgress[l] = some (.bindReading tag p asked grant) → s.pos l p = .loading b rp → b.slot = n →
    (s.coverValid (bankOf n) = true → rcwMatches (asRead s.array.records[n] drift) = true →
      kcwMatches (asRead s.array.records[n] drift) s.retention.covers[bankOf n].value = true →
      s.slotRecheck n = none →
      ∃ key : Vector Byte 32,
        (∀ i : Fin 32, key[i] = if i.val < hLength (asRead s.array.records[n] drift).header
          then (asRead s.array.records[n] drift).value[i] ^^^ s.retention.covers[bankOf n].value[i] else 0) ∧
        exec (.readSlotComplete drift) s = .next { s with
          control := ({ s.control with exec := none } : ArrayControl).afterReads
          lineProgress := put s.lineProgress l (some (.bindLoading tag p asked grant))
          buses := put s.buses l { s.buses[l] with
            buffer := key
            queue := s.buses[l].queue ++ [⟨.load p (hClass s.directory.slots[n].header)
              (hLength (asRead s.array.records[n] drift).header) (hKcw (asRead s.array.records[n] drift).header),
              false⟩] } }) ∧
    ∃ remaining : Nat,
      remaining = (if (hAllowance s.directory.slots[n].header).isSome
        then s.retention.slots[n].remaining + b.reservation else s.retention.slots[n].remaining) ∧
      (s.coverValid (bankOf n) = true → rcwMatches (asRead s.array.records[n] drift) = false ∨
          kcwMatches (asRead s.array.records[n] drift) s.retention.covers[bankOf n].value = false →
        exec (.readSlotComplete drift) s = .next { s.lineCompletes l tag codeBind .keyDamaged [] with
          control := ({ s.control with exec := none } : ArrayControl).afterReads
          positions := s.positionsWith l p .free
          directory := if s.directory.slots[n].state = .active then { s.directory with
            slots := put s.directory.slots n { s.directory.slots[n] with state := .damaged } } else s.directory
          retention := { s.retention with
            slots := put s.retention.slots n { s.retention.slots[n] with remaining := remaining } } }) ∧
      (∀ oc, s.coverValid (bankOf n) = true → rcwMatches (asRead s.array.records[n] drift) = true →
        kcwMatches (asRead s.array.records[n] drift) s.retention.covers[bankOf n].value = true →
        s.slotRecheck n = some oc →
        exec (.readSlotComplete drift) s = .next { s.lineCompletes l tag codeBind oc [] with
          control := ({ s.control with exec := none } : ArrayControl).afterReads
          positions := s.positionsWith l p .free
          retention := { s.retention with
            slots := put s.retention.slots n { s.retention.slots[n] with remaining := remaining } } }) ∧
      (s.coverValid (bankOf n) = false →
        exec (.readSlotComplete drift) s = .next { s.lineCompletes l tag codeBind .keyLost [] with
          control := ({ s.control with exec := none } : ArrayControl).afterReads
          positions := s.positionsWith l p .free
          retention := { s.retention with
            slots := put s.retention.slots n { s.retention.slots[n] with remaining := remaining } } })) ∧
  (∀ (s : State) (l : Line) (n : SlotNo) (tag : Byte) (drift : List Byte),
    s.control.exec = some (.readSlot l n) → s.lineProgress[l] = some (.bindLost tag) →
    exec (.readSlotComplete drift) s = .next { s.lineCompletes l tag codeBind .engineAbsent [] with
      control := ({ s.control with exec := none } : ArrayControl).afterReads })

/-- EXTEND of a BOUND position (R70, R59); of any other it is answered NOT_BOUND, and of one whose slot no longer passes
checks 2, 4 and 5 of R63 with the failing check's outcome, which this statement spells out. -/
def Obligations.ExtendGrowsTheReservation : Prop :=
  (∀ (s : State) (n : SlotNo),
    (s.directory.slots[n].state = .empty → s.slotRecheck n = some .slotEmpty) ∧
    (s.directory.slots[n].state = .lost → s.slotRecheck n = some .keyLost) ∧
    (s.directory.slots[n].state = .damaged → s.slotRecheck n = some .keyDamaged) ∧
    (s.directory.slots[n].state = .retired ∨
        (s.directory.slots[n].state = .active ∧ s.directory.slots[n].retirePending = true) →
      s.slotRecheck n = some .keyRetired) ∧
    (s.directory.slots[n].state = .active → s.directory.slots[n].retirePending = false →
      (s.retention.slots[n].hold = true → s.slotRecheck n = some .keyHeld) ∧
      (s.retention.slots[n].hold = false →
        (hDated s.directory.slots[n].header = false → s.slotRecheck n = none) ∧
        (hDated s.directory.slots[n].header = true →
          (s.retention.calendar.set = false → s.slotRecheck n = some .clockUnset) ∧
          (s.retention.calendar.set = true →
            (∀ a, hActivation s.directory.slots[n].header = some a → dateBefore s.retention.calendar.date a = true →
              s.slotRecheck n = some .keyNotActive) ∧
            ((∀ a, hActivation s.directory.slots[n].header = some a →
                dateBefore s.retention.calendar.date a = false) →
              (∀ x, hExpiry s.directory.slots[n].header = some x → dateBefore x s.retention.calendar.date = true →
                s.slotRecheck n = some .keyExpired) ∧
              ((∀ x, hExpiry s.directory.slots[n].header = some x →
                  dateBefore x s.retention.calendar.date = false) →
                s.slotRecheck n = none))))))) ∧
  (∀ (s : State) (l : Line) (m : Message) (p : Pos) (asked : Nat),
    s.linePasses l codeExtend parseExtend m (p, asked) →
    ((∀ b, s.pos l p ≠ .bound b) →
      exec (.extend l) s = .next (s.lineAnswered l m.tag codeExtend .notBound [])) ∧
    (∀ b oc, s.pos l p = .bound b → s.slotRecheck b.slot = some oc →
      exec (.extend l) s = .next (s.lineAnswered l m.tag codeExtend oc []))) ∧
  ∀ (s : State) (l : Line) (m : Message) (p : Pos) (asked grant : Nat) (b : Binding),
    s.linePasses l codeExtend parseExtend m (p, asked) → s.pos l p = .bound b → s.slotRecheck b.slot = none →
    grant = (if (hAllowance s.directory.slots[b.slot].header).isSome
      then min asked s.retention.slots[b.slot].remaining else min asked (16777215 - b.reservation)) →
    (0 < grant → ∃ remaining : Nat,
      remaining = (if (hAllowance s.directory.slots[b.slot].header).isSome
        then s.retention.slots[b.slot].remaining - grant else s.retention.slots[b.slot].remaining) ∧
      exec (.extend l) s = .next
        { s.lineAnswered l m.tag codeExtend (if grant < asked then .partialGrant else .ok)
            (BitVec.ofNat 8 p.val :: be16 grant ++ be24 (b.reservation + grant)) with
          retention := { s.retention with
            slots := put s.retention.slots b.slot { s.retention.slots[b.slot] with remaining := remaining } }
          positions := s.positionsWith l p (.bound { b with reservation := b.reservation + grant }) }) ∧
    (grant = 0 → exec (.extend l) s = .next (s.lineAnswered l m.tag codeExtend .exhausted []))

/-- RELEASE of a BOUND position queues its CLEAR and waits (R71); of one CLEARING for a recall it waits for that CLEAR; of
an ENDED one it settles at once (R71, R60); a FREE or BLOCKED one has nothing to release. -/
def Obligations.ReleaseClearsOrSettles : Prop :=
  ∀ (s : State) (l : Line) (m : Message) (p : Pos) (used : Nat),
    s.linePasses l codeRelease parseRelease m (p, used) →
    (∀ b, s.pos l p = .bound b → exec (.release l) s = .next { s.lineTaken l with
      positions := s.positionsWith l p (.clearing b .release)
      buses := put s.buses l { s.buses[l] with
        queue := s.buses[l].queue ++ [{ kind := .clear p, stale := false }] }
      lineProgress := put s.lineProgress l (some (.release m.tag p used)) }) ∧
    (∀ b, s.pos l p = .clearing b .recall → exec (.release l) s = .next { s.lineTaken l with
      lineProgress := put s.lineProgress l (some (.release m.tag p used)) }) ∧
    (∀ b reason unclean, s.pos l p = .ended b reason unclean → exec (.release l) s = .next
      { (s.settle b used).lineAnswered l m.tag codeRelease
          (match reason with | .recalled => .recalled | .engineLost => .engineLost)
          (BitVec.ofNat 8 p.val :: be24 (min used b.reservation) ++ [boolByte (decide (b.reservation < used))]) with
        positions := s.positionsWith l p (if unclean then .blocked else .free) }) ∧
    (s.pos l p = .free ∨ s.pos l p = .blocked →
      exec (.release l) s = .next (s.lineAnswered l m.tag codeRelease .notBound []))

/-- A settlement charges the used count, at most the reservation, to the issued total, which stops at 16,777,215, and returns
the rest to a metered slot's remaining allowance (R60); it moves the whole reservation into issued and remaining together
(R62), and every command keeps a metered slot's cards together (R62): the remaining allowance, the reservations on it and its issued total make its initial
allowance after a command when they did before it, but for those that judge the array anew (a start-up's scan), and for the
end of a program on a slot that has live bindings, which no run reaches. -/
def Obligations.SettlementConservesCards : Prop :=
  (∀ (s : State) (b : Binding) (used : Nat), s.settle b used = { s with retention := { s.retention with
    slots := put s.retention.slots b.slot { s.retention.slots[b.slot] with
      issued := min 16777215 (s.retention.slots[b.slot].issued + min used b.reservation)
      remaining := if (hAllowance s.directory.slots[b.slot].header).isSome
        then s.retention.slots[b.slot].remaining + (b.reservation - min used b.reservation)
        else s.retention.slots[b.slot].remaining } } }) ∧
  (∀ (s : State) (b : Binding) (used : Nat), s.metered b.slot = true →
    s.retention.slots[b.slot].issued + b.reservation ≤ 16777215 →
    (s.settle b used).retention.slots[b.slot].issued =
      s.retention.slots[b.slot].issued + min used b.reservation ∧
    (s.settle b used).retention.slots[b.slot].remaining + (s.settle b used).retention.slots[b.slot].issued =
      s.retention.slots[b.slot].remaining + s.retention.slots[b.slot].issued + b.reservation ∧
    (∀ n, n ≠ b.slot → (s.settle b used).retention.slots[n] = s.retention.slots[n])) ∧
  (∀ (c : Instr) (s t : State) (n : SlotNo), (∀ drift, c ≠ .crystalStarted drift) →
    (∀ ran drift samples, c ≠ .resetRelease ran drift samples) → (∀ ran drift, c ≠ .commissionRestart ran drift) →
    (c = .programRecordDone → s.reserved n = 0) →
    s.conserves n → exec c s = .next t → t.conserves n)

/-- RELEASE ALL (R73) on any mixture of positions: each is released as by R71 with its own used count, in position order;
it completes at once when none of them waits for a CLEAR. That a position without a binding has a used count of 0 and no
overrun is the model's choice (log 42). CLEAR BLOCKED (R74): a CLEAR for each BLOCKED position in position order, or
completion at once with none. -/
def Obligations.ReleaseAllAndClearBlockedQueueClears : Prop :=
  (∀ (s u : State) (l : Line) (m : Message) (used : Vector Nat 4),
    s.linePasses l codeReleaseAll parseReleaseAll m used →
    u = four.foldl (fun v p => match s.pos l p with
      | .ended b _ _ => v.settle b used[p]
      | _ => v) s →
    ((∀ p : Pos, (∀ b, s.pos l p ≠ .bound b) ∧ (∀ b k, s.pos l p ≠ .clearing b k)) → exec (.releaseAll l) s =
      .next { u.lineAnswered l m.tag codeReleaseAll .ok
          (four.flatMap fun p => (releaseEntry (s.pos l p) used[p]).bytes) with
        positions := put s.positions l (Vector.ofFn fun p => (s.pos l p).released) }) ∧
    (∀ p : Pos, (∃ b, s.pos l p = .bound b) ∨ (∃ b k, s.pos l p = .clearing b k) → exec (.releaseAll l) s =
      .next { u.lineTaken l with
        positions := put s.positions l (Vector.ofFn fun p => (s.pos l p).released)
        buses := put s.buses l { s.buses[l] with queue := s.buses[l].queue ++
          (four.filter fun q => (s.pos l q).isBound).map fun q => { kind := .clear q, stale := false } }
        lineProgress := put s.lineProgress l
          (some (.releaseAll m.tag (Vector.ofFn fun q => releaseEntry (s.pos l q) used[q]))) })) ∧
  (∀ (s : State) (l : Line) (m : Message), s.linePasses l codeClearBlocked parseNone m () →
    ((∀ p : Pos, s.pos l p ≠ .blocked) →
      exec (.clearBlocked l) s = .next (s.lineAnswered l m.tag codeClearBlocked .ok [0])) ∧
    (∀ p : Pos, s.pos l p = .blocked → exec (.clearBlocked l) s = .next { s.lineTaken l with
      buses := put s.buses l { s.buses[l] with queue := s.buses[l].queue ++
        (four.filter fun q => s.pos l q == .blocked).map fun q => { kind := .clear q, stale := false } }
      lineProgress := put s.lineProgress l (some (.clearBlocked m.tag
        (Vector.ofFn fun q => s.pos l q == .blocked) (Vector.replicate 4 false))) }))

/-! ## Key buses -/

/-- FRAME_SEND_START and FRAME_SENT (R85 to R87): a frame is sent only by an IDLE transmitter that holds one, and ends only
from SENDING, so that at most one is outstanding; the frame number advances, the reply timer runs, and a LOAD's key has
left the transfer buffer, at the frame's end (log 49). The bytes on the bus are the frame's kind, the number it took, its
fields and their check word (R86, 11.7). That lastEnd then says whole is the model's own field (log 33). -/
def Obligations.FramesAreSentInTurn : Prop :=
  (∀ (s : State) (e : Line),
    (s.buses[e].state ≠ .idle ∨ s.buses[e].queue = [] → exec (.frameSendStart e) s = .next s) ∧
    (s.buses[e].state ≠ .sending → exec (.frameSent e) s = .next s)) ∧
  ∀ (s : State) (e : Line) (f : Frame) (rest : List Frame), s.buses[e].queue = f :: rest →
    (s.buses[e].state = .idle → s.buses[e].ready = true → ∃ t, exec (.frameSendStart e) s = .next t ∧
      t.buses[e].frameBytes f.kind = withCheckWord (match f.kind with
        | .load p cls len kcw => [0x01, s.buses[e].frameNumber, BitVec.ofNat 8 p.val, cls, BitVec.ofNat 8 len] ++
          s.buses[e].buffer.toList.take len ++ [kcw.1, kcw.2]
        | .clear p => [0x02, s.buses[e].frameNumber, BitVec.ofNat 8 p.val]
        | .clearAll => [0x03, s.buses[e].frameNumber])) ∧
    (s.buses[e].state = .idle → s.buses[e].ready = true → exec (.frameSendStart e) s = .next { s with
      buses := put s.buses e { s.buses[e] with state := .sending, frameNumber := s.buses[e].frameNumber + 1 } }) ∧
    (s.buses[e].state = .idle → s.buses[e].ready = false → exec (.frameSendStart e) s = .next s) ∧
    (s.buses[e].state = .sending → (∀ p cls len kcw, f.kind ≠ .load p cls len kcw) →
      exec (.frameSent e) s = .next { s with buses := put s.buses e { s.buses[e] with
        state := .awaiting, replyTimer := true, lastEnd := .whole } }) ∧
    (s.buses[e].state = .sending → (∃ p cls len kcw, f.kind = .load p cls len kcw) →
      exec (.frameSent e) s = .next { s with buses := put s.buses e { s.buses[e] with
        state := .awaiting, replyTimer := true, lastEnd := .whole, buffer := Vector.replicate 32 0 } })

/-- The outcomes of a LOAD (R68, R77, R89 to R92): ACCEPT makes the position BOUND, or CLEARING (RECALL) when a recall
is pending; REFUSE frees it and returns its reservation; a reply timeout leaves it BLOCKED and charges it. -/
def Obligations.LoadOutcomesSettleTheBind : Prop :=
  ∀ (s : State) (e : Line) (p : Pos) (cls : Byte) (len : Nat) (kcw : Byte × Byte) (rest : List Frame) (b : Binding)
      (rp : Bool) (tag : Byte) (asked grant : Nat),
    s.buses[e].state = .awaiting → s.buses[e].queue = ⟨.load p cls len kcw, false⟩ :: rest →
    s.pos e p = .loading b rp → s.lineProgress[e] = some (.bindLoading tag p asked grant) →
    exec (.accept e (withCheckWord [0x81, s.buses[e].frameNumber - 1, BitVec.ofNat 8 p.val])) s = .next
      { s.lineCompletes e tag codeBind (if grant < asked then .partialGrant else .ok)
          (b.handle.bytes ++ [BitVec.ofNat 8 p.val] ++ be16 grant ++ be24 b.reservation) with
        buses := put s.buses e { s.buses[e] with queue := rest, state := .idle, replyTimer := false }
        positions := s.positionsWith e p (if rp then .clearing b .recall else .bound b) } ∧
    (∀ reason : Byte, 1 ≤ reason.toNat → reason.toNat ≤ 15 →
      exec (.refuse e (withCheckWord [0x82, s.buses[e].frameNumber - 1, BitVec.ofNat 8 p.val, reason])) s = .next
        { (s.giveBack b.slot b.reservation).lineCompletes e tag codeBind .engineRefused [reason] with
          buses := put s.buses e { s.buses[e] with
            queue := rest.filter fun f => f.kind != .clear p
            state := .idle, replyTimer := false }
          positions := s.positionsWith e p .free }) ∧
    exec (.replyTimeout e) s = .next
      { (s.charge b.slot b.reservation).lineCompletes e tag codeBind .engineSilent [] with
        buses := put s.buses e { s.buses[e] with
          queue := rest.filter fun f => f.kind != .clear p
          state := .idle, replyTimer := false }
        positions := s.positionsWith e p .blocked }

/-- The outcomes of a CLEAR (R71 to R74, R77, R80, R90) and of a CLEAR-ALL (R79, R96), by DONE or by the reply timeout: a
release that waits on the position settles and leaves it FREE after DONE, BLOCKED after a timeout, its RELEASE or the last
entry of its RELEASE ALL completing; a recall with no release waiting ends the position with reason RECALLED, unclean after a
timeout; a CLEAR BLOCKED frees its position after DONE and completes with its last clear; a CLEAR-ALL frees the BLOCKED
positions after DONE, blocks the FREE ones after a timeout, and ends a start-up's offer. The outcome of a frame queued before
a zeroization changes no position. -/
def Obligations.ClearOutcomesEndTheBinding : Prop :=
  (∀ (s : State) (e : Line) (p : Pos) (rest : List Frame),
    s.buses[e].state = .awaiting → s.buses[e].queue = ⟨.clear p, false⟩ :: rest →
    ∀ row ∈ [(Instr.done e (withCheckWord [0x83, s.buses[e].frameNumber - 1, BitVec.ofNat 8 p.val]), false),
        (.replyTimeout e, true)],
      (∀ (b : Binding) (kind : ClearKind) (oc : OutcomeCode), s.pos e p = .clearing b kind →
        oc = (match kind with
          | .release => if row.2 then .engineSilent else .ok
          | .recall => .recalled) →
        (∀ tag used, s.lineProgress[e] = some (.release tag p used) → exec row.1 s = .next
          { (s.settle b used).lineCompletes e tag codeRelease oc (settlementData p b used) with
            buses := s.frameOver e
            positions := s.positionsWith e p (if row.2 then .blocked else .free) }) ∧
        (∀ tag entries used final, s.lineProgress[e] = some (.releaseAll tag entries) → entries[p] = .wait used →
          final = put entries p (.settled oc.byte (min used b.reservation) (decide (b.reservation < used))) →
          ((∀ q : Pos, q ≠ p → ∀ u, entries[q] ≠ .wait u) → exec row.1 s = .next
            { (s.settle b used).lineCompletes e tag codeReleaseAll .ok (final.toList.flatMap ReleaseEntry.bytes) with
              buses := s.frameOver e
              positions := s.positionsWith e p (if row.2 then .blocked else .free) }) ∧
          ((∃ q : Pos, q ≠ p ∧ ∃ u, entries[q] = .wait u) → exec row.1 s = .next
            { s.settle b used with
              buses := s.frameOver e
              positions := s.positionsWith e p (if row.2 then .blocked else .free)
              lineProgress := put s.lineProgress e (some (.releaseAll tag final)) })) ∧
        (kind = .recall → (∀ tag used, s.lineProgress[e] ≠ some (.release tag p used)) →
          (∀ tag entries, s.lineProgress[e] = some (.releaseAll tag entries) → ∀ used, entries[p] ≠ .wait used) →
          exec row.1 s = .next { s with
            buses := s.frameOver e
            positions := s.positionsWith e p (.ended b .recalled row.2) })) ∧
      (s.pos e p = .blocked → ∀ tag waiting freed done, s.lineProgress[e] = some (.clearBlocked tag waiting freed) →
        done = put freed p (freed[p] || !row.2) →
        ((∀ q : Pos, q ≠ p → waiting[q] = false) → exec row.1 s = .next
          { s.lineCompletes e tag codeClearBlocked .ok [bitsByte done.toList] with
            buses := s.frameOver e
            positions := s.positionsWith e p (if row.2 then .blocked else .free) }) ∧
        ((∃ q : Pos, q ≠ p ∧ waiting[q] = true) → exec row.1 s = .next
          { s with
            buses := s.frameOver e
            positions := s.positionsWith e p (if row.2 then .blocked else .free)
            lineProgress := put s.lineProgress e (some (.clearBlocked tag (put waiting p false) done)) }))) ∧
  (∀ (s : State) (e : Line) (rest : List Frame),
    s.buses[e].state = .awaiting → s.buses[e].queue = ⟨.clearAll, false⟩ :: rest →
    ∀ row ∈ [(Instr.done e (withCheckWord [0x83, s.buses[e].frameNumber - 1]), false), (.replyTimeout e, true)],
      exec row.1 s = .next { s with
        buses := s.frameOver e
        positions := put s.positions e (Vector.ofFn fun p => match s.pos e p with
          | .free => if row.2 then .blocked else .free
          | .blocked => if row.2 then .blocked else .free
          | x => x)
        custody := { s.custody with offers :=
          if s.custody.offers[e] = .inFlight then put s.custody.offers e .done else s.custody.offers } }) ∧
  (∀ (s : State) (e : Line) (kind : FrameKind) (rest : List Frame) (number : Byte),
    s.buses[e].state = .awaiting → s.buses[e].queue = ⟨kind, true⟩ :: rest → number = s.buses[e].frameNumber - 1 →
    (∀ p cls len kcw, kind = .load p cls len kcw →
      exec (.accept e (withCheckWord [0x81, number, BitVec.ofNat 8 p.val])) s =
        .next { s with buses := s.frameOver e } ∧
      ∀ reason : Byte, 1 ≤ reason.toNat → reason.toNat ≤ 15 →
        exec (.refuse e (withCheckWord [0x82, number, BitVec.ofNat 8 p.val, reason])) s =
          .next { s with buses := s.frameOver e }) ∧
    (∀ p, kind = .clear p → exec (.done e (withCheckWord [0x83, number, BitVec.ofNat 8 p.val])) s =
      .next { s with buses := s.frameOver e }) ∧
    (kind = .clearAll → exec (.done e (withCheckWord [0x83, number])) s = .next { s with buses := s.frameOver e }) ∧
    exec (.replyTimeout e) s = .next { s with buses := s.frameOver e })

/-- A reply that arrives while no frame is outstanding, with a wrong check word, with another frame number, of a kind or with
bytes that do not answer the frame outstanding (another position, a REFUSE's reason of 0 or above 15), is disregarded and
changes no state (R88); so is one of another kind than the command that delivers it. -/
def Obligations.RepliesThatFailAConditionChangeNothing : Prop :=
  ∀ (s : State) (e : Line) (reply : List Byte),
    exec (.disregardedReply e reply) s = .next s ∧
    ((s.buses[e].state ≠ .awaiting ∨
      (∃ (body : List Byte) (w : Byte × Byte), reply = body ++ cwBytes w ∧ w ≠ checkWord body) ∨
      (∃ (kind number : Byte) (rest : List Byte), reply = withCheckWord (kind :: number :: rest) ∧
        number ≠ s.buses[e].frameNumber - 1) ∨
      (∃ (f : Frame) (kind number : Byte) (rest : List Byte), s.buses[e].queue.head? = some f ∧
        reply = withCheckWord (kind :: number :: rest) ∧ ¬ f.kind.answeredBy kind rest)) →
      exec (.accept e reply) s = .next s ∧ exec (.refuse e reply) s = .next s ∧ exec (.done e reply) s = .next s) ∧
    (reply.head? ≠ some 0x81 → exec (.accept e reply) s = .next s) ∧
    (reply.head? ≠ some 0x82 → exec (.refuse e reply) s = .next s) ∧
    (reply.head? ≠ some 0x83 → exec (.done e reply) s = .next s)

/-- ENGINE_READY_FALL and ENGINE_READY_RISE (R61, R69, R71, R73, R74, R78, R93 to R95): four samples that read the opposite of
the debounced state, a high one ready, change it, and others change nothing. At a fall, whatever request is in progress, the
transmitter is emptied and each of the engine's positions ends by R78; every LOADING reservation goes back to its metered slot,
and a release that waits for its CLEAR settles with its used count; a BIND completes ENGINE_ABSENT, or, while its read executes,
waits for it; a RELEASE and a RELEASE ALL report ENGINE_LOST; a CLEAR BLOCKED completes with every BLOCKED position freed; a
start-up's CLEAR-ALL in flight is over (R96), and a suspended erase resumes once its last line read is withdrawn (R111). -/
def Obligations.EngineReadyChangesActOnTheEngine : Prop :=
  ∀ (s : State) (e : Line), s.sampling = true →
    (∀ samples : Samples, s.buses[e].ready = false → (∀ i : Fin 4, samples[i] = true) →
      exec (.engineReadyRise e samples) s = .next { s with
        buses := put s.buses e { s.buses[e] with ready := true } }) ∧
    (∀ samples : Samples, ((∃ i : Fin 4, samples[i] = false) → exec (.engineReadyRise e samples) s = .next s) ∧
      ((∃ i : Fin 4, samples[i] = true) → exec (.engineReadyFall e samples) s = .next s)) ∧
    (∀ samples : Samples, s.buses[e].ready = true → (∀ i : Fin 4, samples[i] = false) →
      ∃ t, exec (.engineReadyFall e samples) s = .next t ∧
      t.buses = put s.buses e
        { s.buses[e] with
          queue := [], state := .idle, buffer := Vector.replicate 32 0, replyTimer := false, ready := false
          lastEnd := if s.buses[e].state = .sending then .sendAbort else s.buses[e].lastEnd } ∧
      (∀ e', e' ≠ e → t.positions[e'] = s.positions[e'] ∧ t.lineLinks[e'] = s.lineLinks[e'] ∧
        t.lineProgress[e'] = s.lineProgress[e']) ∧
      (∀ p : Pos, t.pos e p = match s.pos e p with
        | .free => .free
        | .loading _ _ => .free
        | .bound b => .ended b .engineLost false
        | .clearing b _ => if (s.waitingUsed e p).isSome then .free else .ended b .engineLost false
        | .ended b reason _ => .ended b reason false
        | .blocked => .free) ∧
      (∀ n : SlotNo, s.retention.slots[n].issued ≤ 16777215 → t.retention.slots[n] = { s.retention.slots[n] with
        remaining := if (hAllowance s.directory.slots[n].header).isSome
          then s.retention.slots[n].remaining + (four.map fun p => s.fallReturns n e p).sum
          else s.retention.slots[n].remaining
        issued := min 16777215 (s.retention.slots[n].issued + (four.map fun p => s.fallIssues n e p).sum) }) ∧
      t.retention = { s.retention with slots := t.retention.slots } ∧
      t.custody = { s.custody with offers :=
        if s.custody.offers[e] = .inFlight then put s.custody.offers e .done else s.custody.offers } ∧
      t.lineLinks[e] = { s.lineLinks[e] with completions := t.lineLinks[e].completions } ∧
      (∃ waits : Vector (Option SlotNo) 4, (∀ l : Line, l ≠ e → waits[l] = s.control.lineWait[l]) ∧
        ((∀ tag p asked grant, s.lineProgress[e] ≠ some (.bindReading tag p asked grant)) →
          waits[e] = s.control.lineWait[e]) ∧
        t.control = ({ s.control with lineWait := waits } : ArrayControl).afterReads) ∧
      (s.lineProgress[e] = none → t.lineProgress[e] = none ∧ t.lineLinks = s.lineLinks) ∧
      (∀ tag p asked grant b rp, s.lineProgress[e] = some (.bindLoading tag p asked grant) ∨
          (s.lineProgress[e] = some (.bindReading tag p asked grant) ∧ s.control.lineWait[e].isSome = true) →
        s.pos e p = .loading b rp → t.pos e p = .free ∧ t.lineProgress[e] = none ∧
        t.lineLinks[e].completions = s.lineLinks[e].completions ++ [⟨tag, codeBind, .engineAbsent, []⟩]) ∧
      (∀ tag p asked grant b rp, s.lineProgress[e] = some (.bindReading tag p asked grant) →
        s.pos e p = .loading b rp → t.control.lineWait[e] = none ∧
        (s.control.lineWait[e] = none → t.pos e p = .free ∧ t.lineProgress[e] = some (.bindLost tag) ∧
          t.lineLinks = s.lineLinks)) ∧
      (∀ tag p used b k, s.lineProgress[e] = some (.release tag p used) → s.pos e p = .clearing b k →
        t.pos e p = .free ∧ t.lineProgress[e] = none ∧
        t.retention.slots[b.slot].issued = min 16777215 (s.retention.slots[b.slot].issued + min used b.reservation) ∧
        (four.map fun q => s.fallIssues b.slot e q).sum = min used b.reservation ∧
        b.reservation - min used b.reservation ≤ (four.map fun q => s.fallReturns b.slot e q).sum ∧
        t.lineLinks[e].completions =
          s.lineLinks[e].completions ++ [⟨tag, codeRelease, .engineLost, settlementData p b used⟩]) ∧
      (∀ tag entries, s.lineProgress[e] = some (.releaseAll tag entries) → (∃ p : Pos, ∃ used, entries[p] = .wait used) →
        (∀ (p : Pos) used, entries[p] = .wait used → ∃ b k, s.pos e p = .clearing b k) →
        ∃ final : Vector ReleaseEntry 4,
          (∀ p : Pos, final[p] = match entries[p], s.pos e p with
            | .wait used, .clearing b _ => .settled 0x17 (min used b.reservation) (decide (b.reservation < used))
            | x, _ => x) ∧
          (∀ (p : Pos) used, entries[p] = .wait used → t.pos e p = .free) ∧ t.lineProgress[e] = none ∧
          t.lineLinks[e].completions = s.lineLinks[e].completions ++
            [⟨tag, codeReleaseAll, .ok, final.toList.flatMap ReleaseEntry.bytes⟩]) ∧
      (∀ tag waiting freed, s.lineProgress[e] = some (.clearBlocked tag waiting freed) →
        (∀ p : Pos, s.pos e p = .blocked → t.pos e p = .free) ∧ t.lineProgress[e] = none ∧
        t.lineLinks[e].completions = s.lineLinks[e].completions ++
          [⟨tag, codeClearBlocked, .ok, [bitsByte (four.map fun p => freed[p] || s.pos e p == .blocked)]⟩]) ∧
      t.ceremony = s.ceremony ∧ t.directory = s.directory ∧ t.array = s.array ∧ t.custLink = s.custLink ∧
      t.custProgress = s.custProgress ∧ t.monitor = s.monitor ∧ t.allocations = s.allocations ∧ t.fuses = s.fuses)

/-! ## Array Controller -/

/-- ARRAY_OPERATION_START (R2, R100, R106 to R108, R111, R114): the waiting read whose turn is next in the rotation, a line's or
the scheduler's, the scheduler's skipped when its bank is ERASING (log 30; that its turn may come before a line's is log 53);
with no read waiting Custody Control's erase, then the Ceremony Unit's program, then the administration client's, whose
emptied slot takes the operation of a RETIRE or RECLAIM that waits for it, or refuses it with the fault flag set; an erase
begins by programming its bank's erase-in-progress mark. While an erase is suspended only line reads start, until the cap; it
resumes when none waits or the cap has been reached. The start is a command of its own, the model's choice (log 15); whether
the mark was found set is kept as a field of the model's own (log 9). -/
def Obligations.ArbiterStartsTheNextOperation : Prop :=
  ∀ s : State, s.control.exec = none →
    (s.control.suspended = none →
      (∀ (l : Line) (n : SlotNo), s.control.lineWait[l] = some n → s.control.turnOf (l.castLT (by omega)) →
        exec .arrayOperationStart s = .next { s with control := { s.control with
          lineWait := put s.control.lineWait l none, exec := some (.readSlot l n), lastServed := l.castLT (by omega) } }) ∧
      (∀ b, s.control.testWait = some b → s.control.turnOf 4 →
        (s.directory.banks[b].condition ≠ .erasing →
          exec .arrayOperationStart s = .next { s with control := { s.control with
            testWait := none, exec := some (.readReference b), lastServed := 4 } }) ∧
        (s.directory.banks[b].condition = .erasing → exec .arrayOperationStart s = .next (s.skipped b)))) ∧
    (s.control.suspended = none → (∀ k, s.control.readWaits k = false) →
      (∀ b, s.control.custodyWait = some b → exec .arrayOperationStart s = .next { s with
        array := { s.array with headers := put s.array.headers b { s.array.headers[b] with erasing := true } }
        control := { s.control with
          custodyWait := none, exec := some (.erase b true), execTime := 0, runTime := 0, suspendTime := 0
          markFound := s.array.headers[b].erasing } }) ∧
      (∀ r, s.control.custodyWait = none → s.control.ceremonyWait = some r →
        exec .arrayOperationStart s = .next { s with
          control := { s.control with ceremonyWait := none, exec := some (.programRecord r) } }) ∧
      (s.control.custodyWait = none → s.control.ceremonyWait = none → ∀ u : State,
        (∃ n, s.control.adminWait = some (.mark n) ∧ u = { s with
          control := { s.control with adminWait := none, exec := some (.programMark n) } }) ∨
        (∃ b prior, s.control.adminWait = some (.erase b prior) ∧ u = { s with
          array := { s.array with headers := put s.array.headers b { s.array.headers[b] with erasing := true } }
          control := { s.control with
            adminWait := none, exec := some (.erase b false), execTime := 0, runTime := 0, suspendTime := 0
            markFound := s.array.headers[b].erasing } }) →
        ((∀ tag h k recalled, s.custProgress ≠ some (.retire tag h k recalled)) →
          (∀ tag b epoch, s.custProgress ≠ some (.reclaim tag b epoch)) → exec .arrayOperationStart s = .next u) ∧
        (∀ tag h k recalled, s.custProgress = some (.retire tag h k recalled) →
          (s.control.fault = false → exec .arrayOperationStart s = .next
            { u.custCompletes tag codeRetire .ok (h.bytes ++ [BitVec.ofNat 8 recalled, 1]) with
              control := { u.control with adminWait := some (.mark k) } }) ∧
          (s.control.fault = true → s.directory.slots[k].state = .active → exec .arrayOperationStart s = .next
            { u.custCompletes tag codeRetire .ok (h.bytes ++ [BitVec.ofNat 8 recalled, 2]) with
              directory := { s.directory with
                slots := put s.directory.slots k
                  { s.directory.slots[k] with state := .retired, retirePending := false } }
              retention := { s.retention with
                slots := put s.retention.slots k
                  { s.retention.slots[k] with latch := true } } }) ∧
          (s.control.fault = true → s.directory.slots[k].state ≠ .active → exec .arrayOperationStart s = .next
            { u.custCompletes tag codeRetire .ok (h.bytes ++ [BitVec.ofNat 8 recalled, 2]) with
              directory := { s.directory with
                slots := put s.directory.slots k
                  { s.directory.slots[k] with retirePending := false } } })) ∧
        (∀ tag b epoch, s.custProgress = some (.reclaim tag b epoch) →
          (s.control.fault = false → exec .arrayOperationStart s = .next
            { u.custCompletes tag codeReclaim .ok [BitVec.ofNat 8 b.val, epoch] with
              control := { u.control with adminWait := some (.erase b s.directory.banks[b].condition) }
              directory := { s.directory with
                banks := put s.directory.banks b { s.directory.banks[b] with condition := .erasing } } }) ∧
          (s.control.fault = true →
            exec .arrayOperationStart s = .next (u.custCompletes tag codeReclaim .nvFault []))))) ∧
    (∀ b, s.control.suspended = some b →
      (∀ (l : Line) (n : SlotNo), s.control.capReached = false → s.control.lineWait[l] = some n →
        s.control.lineTurnOf (l.castLT (by omega)) →
        exec .arrayOperationStart s = .next { s with control := { s.control with
          lineWait := put s.control.lineWait l none, exec := some (.readSlot l n), lastServed := l.castLT (by omega) } }) ∧
      (s.control.capReached = true ∨ (∀ l : Line, s.control.lineWait[l] = none) →
        exec .arrayOperationStart s = .next { s with control := s.control.resumedOn b }))

/-- ERASE_SUSPEND, ERASE_SUSPENDED and SUSPENSION_CAP (R104, R109 to R111): an administration erase with 4 ms of run time, a line
read waiting and some of its pulse left begins to suspend; it is suspended next, and resumes at once when no line read is
left; the cap resumes it, or has the read that executes be the last. -/
def Obligations.EraseIsSuspendedForLineReads : Prop :=
  ∀ (s : State) (b : Bank),
    (∀ ran, s.control.exec = some (.erase b false) → s.control.suspending = false →
      s.control.lineReadWaits = true → 4000 ≤ ran → s.control.execTime + ran < 1500000 →
      exec (.eraseSuspend ran) s = .next { s with control := { s.control with
        suspending := true, runTime := ran, execTime := s.control.execTime + ran } }) ∧
    (∀ ran, s.control.exec = some (.erase b false) → ran < 4000 ∨ s.control.lineReadWaits = false ∨
        s.control.suspending = true ∨ 1500000 ≤ s.control.execTime + ran →
      exec (.eraseSuspend ran) s = .next s) ∧
    (∀ ran, s.control.exec = some (.erase b true) → exec (.eraseSuspend ran) s = .next s) ∧
    (s.control.exec = some (.erase b false) → s.control.suspending = true → s.control.lineReadWaits = true →
      exec .eraseSuspended s = .next { s with control := { s.control with
        exec := none, suspending := false, suspended := some b, capReached := false, suspendTime := 0 } }) ∧
    (s.control.exec = some (.erase b false) → s.control.suspending = true → s.control.lineReadWaits = false →
      exec .eraseSuspended s = .next { s with control := { s.control with
        exec := some (.erase b false), suspending := false, suspended := none, capReached := false
        runTime := 0, suspendTime := 0 } }) ∧
    (s.control.suspending = false → exec .eraseSuspended s = .next s) ∧
    (s.control.suspended = none → exec .suspensionCap s = .next s) ∧
    (s.control.lineReadWaits = true ↔ ∃ l : Line, s.control.lineWait[l] ≠ none) ∧
    (∀ l n, s.control.exec = some (.readSlot l n) → s.control.suspended = some b →
      exec .suspensionCap s = .next { s with control := { s.control with
        capReached := true, suspendTime := 1000 } }) ∧
    (s.control.exec = none → s.control.suspended = some b →
      exec .suspensionCap s = .next { s with control := { s.control with
        exec := some (.erase b false), suspended := none, capReached := false, runTime := 0, suspendTime := 0 } })

/-- PROGRAM_MARK_END (R12, R102, R113, R114, R127): with either outcome the slot is no longer retire-pending, and an ACTIVE one is
RETIRED with its latch set, where one no longer ACTIVE keeps its state and latch; a failure also sets the fault flag, latches NV_FAULT and refuses what waits. -/
def Obligations.MarkEndRetiresTheSlot : Prop :=
  ∀ (s : State) (n : SlotNo) (slot : SlotDir) (kept : SlotRetention), s.control.exec = some (.programMark n) →
    slot = { s.directory.slots[n] with
      state := if s.directory.slots[n].state = .active then .retired else s.directory.slots[n].state
      retirePending := false } →
    kept = { s.retention.slots[n] with
      latch := if s.directory.slots[n].state = .active then true else s.retention.slots[n].latch } →
    exec (.programMarkEnd true) s = .next { s with
      control := { s.control with exec := none }
      array := { s.array with
        records := put s.array.records n { s.array.records[n] with retire := .full } }
      directory := { s.directory with slots := put s.directory.slots n slot }
      retention := { s.retention with slots := put s.retention.slots n kept } } ∧
    (s.control.ceremonyWait = none → s.control.adminWait = none → s.retention.marker = true →
      ∃ t, exec (.programMarkEnd false) s = .next t ∧
        t.control = { s.control with exec := none, fault := true } ∧
        t.directory = { s.directory with slots := put s.directory.slots n slot } ∧
        t.retention = { s.retention with
          slots := put s.retention.slots n kept, alarmFlags := s.retention.alarmFlags ||| 0x40 } ∧
        t.array.records[n].retire ≠ .full ∧ t.array.records[n].header = s.array.records[n].header ∧
        (∀ n', n' ≠ n → t.array.records[n'] = s.array.records[n']) ∧ t.array.headers = s.array.headers ∧
        t.positions = s.positions ∧ t.buses = s.buses ∧ t.ceremony = s.ceremony ∧ t.custody = s.custody ∧
        t.custLink = s.custLink ∧ t.lineLinks = s.lineLinks) ∧
    (s.retention.marker = true → ∃ t, exec (.programMarkEnd false) s = .next t ∧ WaitingRefused s t ∧
      t.directory.slots[n] = slot ∧ t.retention.slots[n] = kept)

/-- ERASE_COMPLETE and ERASE_FAILED of a RECLAIM and of Custody Control (R2, R15, R103, R104, R113, R114, R119, R120, R166):
a completed erase empties its bank under a fresh valid cover, whatever its value, and latches BANK_DEGRADED when its count
makes a bank degraded that was not (R17, R160); a failed one leaves slots, cover and
counters with the bank ERASE_INCOMPLETE, sets the fault flag, latches NV_FAULT, and, for a RECLAIM, refuses what waits. -/
def Obligations.EraseEndsAsItsRulesSay : Prop :=
  ∀ (s : State) (b : Bank) (custody : Bool), s.control.exec = some (.erase b custody) → s.control.suspending = false →
    s.retention.marker = true →
    (∃ t, exec .eraseComplete s = .next t ∧ BankErased s t b ∧ t.control.exec = none ∧
      t.positions = s.positions ∧ t.buses = s.buses ∧ t.ceremony = s.ceremony ∧
      t.custLink = s.custLink ∧ t.lineLinks = s.lineLinks ∧ t.lineProgress = s.lineProgress ∧
      t.retention.alarmFlags = (if 20000 ≤ min 65535 (s.array.headers[b].eraseCount + 1) ∧
        s.directory.banks[b].degraded = false ∧ s.lineServed = true
        then s.retention.alarmFlags ||| 0x20 else s.retention.alarmFlags) ∧
      (custody = false → t.control = { s.control with exec := none } ∧ t.custody = s.custody ∧
        ∀ b', b' ≠ b → t.directory.banks[b'] = s.directory.banks[b'])) ∧
    (s.control.ceremonyWait = none → s.control.adminWait = none →
      ∃ t, exec .eraseFailed s = .next t ∧ t.control.exec = none ∧ t.control.fault = true ∧
        t.retention.alarmFlags = s.retention.alarmFlags ||| 0x40 ∧
        t.directory.banks[b].condition = .eraseIncomplete ∧ t.directory.slots = s.directory.slots ∧
        t.retention.covers = s.retention.covers ∧ t.retention.slots = s.retention.slots ∧
        t.retention.tests = s.retention.tests ∧
        (∀ n : SlotNo, bankOf n ≠ b → t.array.records[n] = s.array.records[n]) ∧
        t.array.headers[b].eraseCount = s.array.headers[b].eraseCount ∧
        (∀ b', b' ≠ b → t.array.headers[b'] = s.array.headers[b'] ∧ t.array.rows[b'] = s.array.rows[b']) ∧
        t.positions = s.positions ∧ t.buses = s.buses ∧ t.ceremony = s.ceremony ∧
        (custody = false →
          t.control = { s.control with exec := none, execTime := 1500000, fault := true } ∧
          t.directory = { s.directory with
            banks := put s.directory.banks b { s.directory.banks[b] with condition := .eraseIncomplete } } ∧
          t.retention = { s.retention with alarmFlags := s.retention.alarmFlags ||| 0x40 } ∧
          t.custody = s.custody)) ∧
    (custody = false → ∃ t, exec .eraseFailed s = .next t ∧ WaitingRefused s t)

/-- The last erase of a zeroization, completed or failed, brings RECOVERY; before it the next owed bank is submitted
(R166, R167). -/
def Obligations.OwedErasesLeadToRecovery : Prop :=
  ∀ (s : State) (b : Bank), s.control.exec = some (.erase b true) → s.control.suspending = false →
    s.control.custodyWait = none → s.custody.present = .zeroizing →
    ∀ c ∈ [Instr.eraseComplete, .eraseFailed], ∃ t, exec c s = .next t ∧ t.retention.owed[b] = false ∧
      (∀ b', b' ≠ b → t.retention.owed[b'] = s.retention.owed[b']) ∧
      ((∀ b', b' ≠ b → s.retention.owed[b'] = false) → t.custody = { s.custody with present := .recovery } ∧
        t.retention.resume = .recovery) ∧
      (∀ b', b' ≠ b → s.retention.owed[b'] = true → (∀ k, k < b' → k ≠ b → s.retention.owed[k] = false) →
        t.custody = s.custody ∧ t.control.custodyWait = some b' ∧ t.directory.banks[b'].condition = .erasing)

/-! ## Power, start-up, commissioning -/

/-- BROWNOUT and WARM_RESET_ONSET (R179, R180, R33, R61, R81, R98, R53, R105, R117, R183, R194): the volatile state ends, with
the debounced switches and the loaded record gone, a link transaction in progress broken off and a frame being sent left
incomplete (lastEnd is log 33), the crystal seen to run on only over a warm reset (log 25), and the array and the fuses left as a stopped operation made them (log 9), by four samples that read so (others change nothing), a brownout also while RESET is held,
where a further onset is none (log 39); the battery domain stays but for the charged reservations, and a warm reset sets its
pending mark. What the ports acknowledged and sent stays in the model's own fields (log 20). -/
def Obligations.BrownoutAndWarmResetEndTheVolatileState : Prop :=
  (∀ s : State, s.custody.present ≠ .backup → ∀ samples : Samples, (∀ i : Fin 4, samples[i] = true) →
    ∀ row ∈ [(Instr.brownout samples, Mode.backup, StartPhase.none, false, (0x00 : Byte), True),
        (.warmResetOnset samples, .starting, .inReset, s.custody.crystalOk, 0x08,
          ¬ (s.custody.present = .starting ∧ s.custody.phase = .inReset))],
      row.2.2.2.2.2 → ∃ t, exec row.1 s = .next t ∧
        t.custody =
          { present := row.2.1, phase := row.2.2.1, offers := Vector.replicate 4 .toMake, crystalOk := row.2.2.2.1
            csa := false, csb := false, record := .notLoaded, restart := none, commissions := 0 } ∧
        t.retention = { s.retention with
          slots := t.retention.slots, pendingMarks := s.retention.pendingMarks ||| row.2.2.2.2.1 } ∧
        (∀ n : SlotNo, s.retention.slots[n].issued ≤ 16777215 → t.retention.slots[n] =
          { s.retention.slots[n] with issued := min 16777215 (s.retention.slots[n].issued + s.reserved n) }) ∧
        t.positions = noPositions ∧
        (∀ l : Line, t.lineProgress[l] = none ∧ t.allocations[l] = { domain := 0, mask := 0 } ∧
          t.lineLinks[l] = { Link.initial with
            transfer := s.lineLinks[l].transfer.broken, acks := s.lineLinks[l].acks, sent := s.lineLinks[l].sent }) ∧
        t.custProgress = none ∧ t.custLink = { Link.initial with
          transfer := s.custLink.transfer.broken, acks := s.custLink.acks, sent := s.custLink.sent } ∧
        (∀ e : Line, t.buses[e] =
          { queue := [], state := .idle, buffer := Vector.replicate 32 0, replyTimer := false, frameNumber := 0
            ready := false, lastEnd := if s.buses[e].state = .sending then .incomplete else s.buses[e].lastEnd }) ∧
        t.ceremony.current = none ∧ t.ceremony.buffer = Vector.replicate 32 0 ∧
        t.ceremony.undelivered = none ∧ t.control = ArrayControl.initial ∧ t.directory.inUse = false ∧
        t.monitor = Monitor.initial ∧
        (s.control.suspended = none →
          (s.control.exec = none ∨ (∃ l n, s.control.exec = some (.readSlot l n)) ∨
            (∃ b, s.control.exec = some (.readReference b)) → t.array = s.array) ∧
          (∀ r, s.control.exec = some (.programRecord r) →
            t.array = { s.array with records := put s.array.records r.slot t.array.records[r.slot] } ∧
            (t.array.records[r.slot] = s.array.records[r.slot] ∨
              (t.array.records[r.slot].written = true ∧ t.array.records[r.slot].retire = .blank ∧
                ∀ i : Fin 32, hLength r.record.header ≤ i.val → t.array.records[r.slot].value[i] = 0))) ∧
          (∀ n, s.control.exec = some (.programMark n) → ∃ mark : RetireMark,
            t.array = { s.array with
              records := put s.array.records n { s.array.records[n] with retire := mark } } ∧
            (s.array.records[n].retire ≠ .blank → mark ≠ .blank) ∧
            (s.array.records[n].retire = .full → mark = .full))) ∧
        (∀ b : Bank, (∃ custody, s.control.exec = some (.erase b custody)) ∧ s.control.suspended = none ∨
            s.control.suspended = some b ∧ (s.control.exec = none ∨ ∃ l n, s.control.exec = some (.readSlot l n)) →
          t.array.headers[b].eraseCount = s.array.headers[b].eraseCount ∧
          (∀ b', b' ≠ b → t.array.headers[b'] = s.array.headers[b'] ∧ t.array.rows[b'] = s.array.rows[b']) ∧
          (∀ n : SlotNo, bankOf n ≠ b → t.array.records[n] = s.array.records[n]) ∧
          (s.control.markFound = true → t.array.headers[b].erasing = true) ∧
          (t.array.headers[b].erasing = false →
            t.array.records = s.array.records ∧ t.array.rows = s.array.rows)) ∧
        ((∀ tag r, s.custProgress ≠ some (.commission tag r)) → t.fuses = s.fuses) ∧
        (∀ tag r, s.custProgress = some (.commission tag r) →
          (∀ i : Fin 64, s.fuses[i] &&& ~~~ t.fuses[i] = 0 ∧ t.fuses[i] &&& ~~~ (s.fuses[i] ||| r[i]) = 0) ∧
          ((∃ i : Fin 64, i ≠ 61 ∧ t.fuses[i] ≠ r[i]) → t.fuses[61] = s.fuses[61]))) ∧
  (∀ (s : State) (samples : Samples), (∃ i : Fin 4, samples[i] = false) →
    exec (.brownout samples) s = .next s ∧ exec (.warmResetOnset samples) s = .next s) ∧
  (∀ (s : State) (samples : Samples),
    (s.custody.present = .backup →
      exec (.brownout samples) s = .next s ∧ exec (.warmResetOnset samples) s = .next s) ∧
    (s.custody.present = .starting → s.custody.phase = .inReset → exec (.warmResetOnset samples) s = .next s)) ∧
  (∀ left : List Byte, Transfer.idle.broken = .idle ∧
    (∀ x ∈ [Transfer.addressed, .message, .pointer, .refusing], x.broken = .refusing) ∧
    (∀ x ∈ [Transfer.opened, .completion left, .record left, .directory left, .fill], x.broken = .fill))

/-- MAIN_POWER_VALID in BACKUP (R172, R173, R153, R32), by four samples above the brownout threshold: a BROWNOUT mark, then
step 3: blank or verified goes on to step 4, with the verified record's limit on the baseline; a failed check word is HALTED with cause FUSE. -/
def Obligations.MainPowerValidRunsTheFuseCheck : Prop :=
  (∀ (s : State) (samples : Samples), (∃ i : Fin 4, samples[i] = false) → exec (.mainPowerValid samples) s = .next s) ∧
  ∀ (s : State) (samples : Samples), s.custody.present = .backup → (∀ i : Fin 4, samples[i] = true) →
    (s.fuses[61] = 0 → exec (.mainPowerValid samples) s = .next { s with
      custody := { s.custody with present := .starting, phase := .crystalWait, record := .blank }
      retention := { s.retention with pendingMarks := s.retention.pendingMarks ||| 0x04 } }) ∧
    (s.fuses[61] ≠ 0 → checkWord (s.fuses.toList.take 62) ≠ (s.fuses[62], s.fuses[63]) →
      exec (.mainPowerValid samples) s = .next { s with
        custody := { s.custody with present := .halted, phase := .none, record := .failed }
        retention := { s.retention with pendingMarks := s.retention.pendingMarks ||| 0x04 ||| 0x10 } }) ∧
    (s.fuses[61] ≠ 0 → checkWord (s.fuses.toList.take 62) = (s.fuses[62], s.fuses[63]) →
      ∀ limit : Nat, limit = s.fuses[8].toNat * 256 + s.fuses[9].toNat →
      ∃ baseline : Nat,
        (baseline : Int) = max (3906 - (limit : Int)) (min (3906 + (limit : Int)) (s.retention.baseline : Int)) ∧
        exec (.mainPowerValid samples) s = .next { s with
          custody := { s.custody with present := .starting, phase := .crystalWait, record := .verified }
          retention := { s.retention with
            baseline := baseline, pendingMarks := s.retention.pendingMarks ||| 0x04 } })

/-- The ends of step 4 and of RESET (R173 to R175, R178, R179): CRYSTAL_START_TIMEOUT halts; CRYSTAL_STARTED on a blank
record goes through step 5. RESET_RELEASE runs step 3: a blank or verified record goes on to step 4, or past it when the
crystal has run on, to step 5 or with a verified record through the scan; a failed record halts with cause FUSE. It takes
four samples that find RESET released. With the validity marker lost step 5 reinitialises retention, the first start-up from
reset being one with a blank record; that marks pending before it are gone is log 12. That the command says whether the
crystal ran on is log 25. -/
def Obligations.StepFourEndsOrIsSkipped : Prop :=
  (∀ (s : State) (samples : Samples) ran drift, (∃ i : Fin 4, samples[i] = true) →
    exec (.resetRelease ran drift samples) s = .next s) ∧
  ∀ (s : State) (samples : Samples), s.custody.present = .starting → (∀ i : Fin 4, samples[i] = false) →
    (s.custody.phase = .crystalWait → exec .crystalStartTimeout s = .next { s with
      custody := { s.custody with present := .halted, phase := .none, crystalOk := false }
      retention := { s.retention with pendingMarks := s.retention.pendingMarks ||| 0x20 } }) ∧
    (s.custody.phase = .crystalWait → s.custody.record = .blank →
      ∀ drift, exec (.crystalStarted drift) s = .next { s with
        custody := { s.custody with
          phase := .clearAllWait, crystalOk := true, offers := Vector.replicate 4 .done }
        retention := if s.retention.marker = true then { s.retention with
          resetFlags := s.retention.resetFlags ||| s.retention.pendingMarks, pendingMarks := 0 } else freshRetention }) ∧
    (s.custody.phase = .inReset → s.fuses[61] = 0 → ∀ drift, exec (.resetRelease false drift samples) s = .next { s with
      custody := { s.custody with phase := .crystalWait, record := .blank } }) ∧
    (s.custody.phase = .inReset → s.fuses[61] = 0 → s.custody.crystalOk = true →
      ∀ drift, exec (.resetRelease true drift samples) s = .next { s with
        custody := { s.custody with
          phase := .clearAllWait, record := .blank, offers := Vector.replicate 4 .done }
        retention := if s.retention.marker = true then { s.retention with
          resetFlags := s.retention.resetFlags ||| s.retention.pendingMarks, pendingMarks := 0 } else freshRetention }) ∧
    (s.custody.phase = .inReset → s.fuses[61] ≠ 0 →
      (checkWord (s.fuses.toList.take 62) ≠ (s.fuses[62], s.fuses[63]) →
        ∀ ran drift, exec (.resetRelease ran drift samples) s = .next { s with
          custody := { s.custody with present := .halted, phase := .none, record := .failed }
          retention := { s.retention with pendingMarks := s.retention.pendingMarks ||| 0x10 } }) ∧
      (checkWord (s.fuses.toList.take 62) = (s.fuses[62], s.fuses[63]) →
        ∀ limit baseline : Nat, limit = s.fuses[8].toNat * 256 + s.fuses[9].toNat →
        (baseline : Int) = max (3906 - (limit : Int)) (min (3906 + (limit : Int)) (s.retention.baseline : Int)) →
        (∀ ran drift, s.custody.crystalOk = false ∨ ran = false →
          exec (.resetRelease ran drift samples) s = .next { s with
            custody := { s.custody with phase := .crystalWait, record := .verified }
            retention := { s.retention with baseline := baseline } }) ∧
        (s.custody.crystalOk = true → ∀ drift, ∃ t, exec (.resetRelease true drift samples) s = .next t ∧
          Scanned s t drift ∧ (s.retention.marker = true → t.retention.baseline = baseline))))

/-- Steps 5 to 7 with a verified record (R9, R10, R96, R146, R150, R169, R175 to R177, R181): retention is used as it stands
or reinitialised, every bank and slot is judged from the array as read, and a lost retention over written records zeroizes.
Once any engine is ready the CLEAR-ALL is offered, to the ready engines alone, and no offer is left to make; that a ready
engine is what says the inputs have been sampled is log 17. -/
def Obligations.CrystalStartedBuildsTheDirectory : Prop :=
  ∀ (s : State) (drift : List (Nat × List Byte)), s.custody.present = .starting → s.custody.phase = .crystalWait →
    s.custody.record = .verified →
    ∃ t, exec (.crystalStarted drift) s = .next t ∧ Scanned s t drift ∧ t.control = s.control ∧
      t.custody.crystalOk = true ∧ (s.retention.marker = true → t.retention.baseline = s.retention.baseline) ∧
      ((∀ e : Line, s.custody.offers[e] = .toMake) →
        ((∃ e : Line, s.buses[e].ready = true) → ∀ e : Line,
          (s.buses[e].ready = true → t.custody.offers[e] = .inFlight ∧
            t.buses[e].queue = s.buses[e].queue ++ [{ kind := .clearAll, stale := false }]) ∧
          (s.buses[e].ready = false → t.custody.offers[e] = .done ∧ t.buses[e].queue = s.buses[e].queue)) ∧
        ((∀ e : Line, s.buses[e].ready = false) → t.custody.offers = s.custody.offers ∧ t.buses = s.buses))

/-- START_UP_COMPLETE (R96, R157, R166, R175, R177): UNCOMMISSIONED on a blank record; with every CLEAR-ALL over, or offers still
to be made and no engine ready for them, the resume mode, which a lost marker makes SERVICE, with what its entry starts; with
a CLEAR-ALL in flight, or one that the event offers to a ready engine, the part stays in STARTING. That the offers still to be
made are made at this event is log 17. -/
def Obligations.StartUpCompleteEntersTheResumeMode : Prop :=
  ∀ s : State, s.custody.present = .starting → s.custody.phase = .clearAllWait →
    (s.custody.record = .blank → exec .startUpComplete s = .next { s with
      custody := { s.custody with present := .uncommissioned, phase := .none } }) ∧
    (s.custody.record = .verified →
      (∀ e : Line, s.custody.offers[e] = .done ∨ (s.custody.offers[e] = .toMake ∧ s.buses[e].ready = false)) →
      (s.retention.marker = false ∨ s.retention.resume = .service → exec .startUpComplete s = .next { s with
        custody := { s.custody with present := .service, phase := .none, offers := Vector.replicate 4 .done }
        monitor := { s.monitor with intervalTimer := some (s.testInterval * cyclesPerSecond) } }) ∧
      (s.retention.marker = true → s.retention.resume = .recovery → exec .startUpComplete s = .next { s with
        custody := { s.custody with present := .recovery, phase := .none, offers := Vector.replicate 4 .done } }) ∧
      (s.retention.marker = true → s.retention.resume = .zeroizing → ∀ b : Bank, s.retention.owed[b] = true →
        (∀ k, k < b → s.retention.owed[k] = false) → s.control.exec = none → s.control.custodyWait = none →
        exec .startUpComplete s = .next { s with
          custody := { s.custody with present := .zeroizing, phase := .none, offers := Vector.replicate 4 .done }
          control := { s.control with custodyWait := some b }
          directory := { s.directory with
            banks := put s.directory.banks b { s.directory.banks[b] with condition := .erasing } } })) ∧
    (s.custody.record = .verified →
      (∃ e : Line, s.custody.offers[e] = .inFlight ∨ (s.custody.offers[e] = .toMake ∧ s.buses[e].ready = true)) →
      ∃ t, exec .startUpComplete s = .next t ∧
        t = { s with custody := { s.custody with offers := t.custody.offers }, buses := t.buses } ∧
        ∀ e : Line,
          t.custody.offers[e] = (if s.custody.offers[e] = .toMake
            then (if s.buses[e].ready then .inFlight else .done) else s.custody.offers[e]) ∧
          t.buses[e] = (if s.custody.offers[e] = .toMake ∧ s.buses[e].ready = true
            then { s.buses[e] with queue := s.buses[e].queue ++ [{ kind := .clearAll, stale := false }] }
            else s.buses[e]))

/-- RETENTION_MARKER_LOST (R6, R14, R175): from then on the settings copy is treated as absent, every cover as invalid and
the resume mode as SERVICE, and no tamper event is acted on. What retention then holds is free, and that the lost flags and
slots follow the covers at once is the model's reading (log 11). -/
def Obligations.LostMarkerDisarmsRetention : Prop :=
  ∀ s : State, s.retention.marker = true →
    ∃ t, exec .retentionMarkerLost s = .next t ∧ t.retention.marker = false ∧ t.enclosure = none ∧
      (∀ b : Bank, t.coverValid b = false) ∧ t.resumeMode = .service ∧
      (∀ (src : Source) (act : Action), t.raiseTamper src act = t) ∧ (∀ a : Alarm, t.latch a = t) ∧
      (∀ n : SlotNo, t.directory.slots[n] = if s.directory.slots[n].state = .empty then s.directory.slots[n]
        else { s.directory.slots[n] with state := .lost, retirePending := false }) ∧
      (∀ b : Bank, t.directory.banks[b] = { s.directory.banks[b] with lost := true }) ∧
      t.array = s.array ∧ t.fuses = s.fuses ∧ t.custody = s.custody ∧ t.positions = s.positions ∧
      t.buses = s.buses ∧ t.ceremony = s.ceremony ∧ t.control = s.control ∧ t.custLink = s.custLink ∧
      t.lineLinks = s.lineLinks ∧ t.monitor = s.monitor

/-- COMMISSION, the end of its programming and the restart (R183): the request stays in progress while the fuses are
programmed; with no bit in the way they then hold the record and its check word. The restart comes once a completion of a
COMMISSION that passed has been read out or the second since the first is over, and not before (log 35); a further
COMMISSION that passes leaves that second running. A byte that does not read back makes it fail, that byte short of the record
and the marker not yet reached unless it is that byte; with the record wholly in the fuses already every byte reads back, and
the request completes OK whatever the command says (log 55). A programmed bit that the record leaves unprogrammed makes the
programming fail before the commissioned marker. The restart runs from step 3 with no pending mark: through step 4 or, with the
crystal running on (log 25), past it, on the uncommissioned path with a blank record, through the scan with a verified one;
a failed record halts with cause FUSE. With the validity marker lost retention is reinitialised, the marks pending before it
gone (log 12). What the port acknowledged and sent stays in the model's own fields (log 20). -/
def Obligations.CommissioningProgramsAndRestarts : Prop :=
  (∀ (s : State) (m : Message) (r : Vector Byte 64),
    s.custPasses codeCommission gateCommission .both (parseCommission s.fuses) m r →
    exec .commission s = .next { s.custTaken with custProgress := some (.commission m.tag r) }) ∧
  (∀ (s : State) (tag : Byte) (r : Vector Byte 64), s.custProgress = some (.commission tag r) →
    (∀ i : Fin 64, s.fuses[i] &&& ~~~ r[i] = 0) →
    (s.custody.restart = none →
      exec (.commissionProgrammingEnd true) s = .next { s.custCompletes tag codeCommission .ok [] with
        fuses := r
        custody := { s.custody with restart := some cyclesPerSecond, commissions := s.custody.commissions + 1 } }) ∧
    (s.fuses = r → exec (.commissionProgrammingEnd false) s = exec (.commissionProgrammingEnd true) s) ∧
    (s.fuses ≠ r → ∃ t, exec (.commissionProgrammingEnd false) s = .next t ∧
      t = { s.custCompletes tag codeCommission .programFailed [] with fuses := t.fuses, draws := s.draws + 1 } ∧
      (∀ i : Fin 64, s.fuses[i] &&& ~~~ t.fuses[i] = 0 ∧ t.fuses[i] &&& ~~~ r[i] = 0) ∧ t.fuses ≠ r ∧
      ((∃ i : Fin 64, i ≠ 61 ∧ t.fuses[i] ≠ r[i]) → t.fuses[61] = s.fuses[61]))) ∧
  (∀ (s : State) (tag : Byte) (r : Vector Byte 64) (ok : Bool), s.custProgress = some (.commission tag r) →
    (∃ i : Fin 64, s.fuses[i] &&& ~~~ r[i] ≠ 0) →
    ∃ t, exec (.commissionProgrammingEnd ok) s = .next t ∧
      t = { s.custCompletes tag codeCommission .programFailed [] with fuses := t.fuses, draws := s.draws + 1 } ∧
      (∀ i : Fin 64, s.fuses[i] &&& ~~~ t.fuses[i] = 0 ∧ t.fuses[i] &&& ~~~ (s.fuses[i] ||| r[i]) = 0) ∧
      ((∃ i : Fin 64, i ≠ 61 ∧ s.fuses[i] &&& ~~~ r[i] ≠ 0) → t.fuses[61] = s.fuses[61])) ∧
  (∀ (s : State) (tag : Byte) (r : Vector Byte 64) (left : Nat), s.custProgress = some (.commission tag r) →
    s.custody.restart = some left → (∀ i : Fin 64, s.fuses[i] &&& ~~~ r[i] = 0) →
    exec (.commissionProgrammingEnd true) s = .next { s.custCompletes tag codeCommission .ok [] with
      fuses := r, custody := { s.custody with commissions := s.custody.commissions + 1 } }) ∧
  (∀ (s : State) (left waiting : Nat) (drift : List (Nat × List Byte)), s.custody.present = .uncommissioned →
    s.custody.restart = some left →
    waiting = (s.custLink.completions.filter fun c => c.code == codeCommission && c.outcome == .ok).length →
    (left ≠ 0 → s.custody.commissions ≤ waiting → ∀ ran, exec (.commissionRestart ran drift) s = .next s) ∧
    (left = 0 ∨ waiting < s.custody.commissions →
      (∀ ran, ∃ t, exec (.commissionRestart ran drift) s = .next t ∧ t.custody.present ≠ .uncommissioned ∧
        t.custody.restart = none ∧ t.custody.commissions = 0) ∧
      (s.custProgress = none → s.fuses[61] = 0 →
        (∃ t, exec (.commissionRestart false drift) s = .next t ∧ t.custody.present = .starting ∧
          t.custody.phase = .crystalWait ∧ t.custody.record = .blank ∧
          t.retention.pendingMarks = s.retention.pendingMarks ∧ t.fuses = s.fuses) ∧
        (s.custody.crystalOk = true →
          ∃ t, exec (.commissionRestart true drift) s = .next t ∧ t.custody.present = .starting ∧
            t.custody.phase = .clearAllWait ∧ t.custody.record = .blank ∧ t.retention.pendingMarks = 0 ∧
            (s.retention.marker = true →
              t.retention.resetFlags = s.retention.resetFlags ||| s.retention.pendingMarks) ∧
            (s.retention.marker = false → t.retention = freshRetention) ∧ t.fuses = s.fuses)) ∧
      (s.custProgress = none → s.fuses[61] ≠ 0 → checkWord (s.fuses.toList.take 62) ≠ (s.fuses[62], s.fuses[63]) →
        ∀ ran, ∃ t, exec (.commissionRestart ran drift) s = .next t ∧ t.custody.present = .halted ∧
          t.custody.record = .failed ∧ t.retention.pendingMarks = s.retention.pendingMarks ||| 0x10 ∧
          t.fuses = s.fuses) ∧
      (s.custProgress = none → s.fuses[61] ≠ 0 → checkWord (s.fuses.toList.take 62) = (s.fuses[62], s.fuses[63]) →
        (∃ t, exec (.commissionRestart false drift) s = .next t ∧ t.custody.present = .starting ∧
          t.custody.phase = .crystalWait ∧ t.custody.record = .verified ∧ t.custody.restart = none ∧
          t.retention.pendingMarks = s.retention.pendingMarks ∧ t.fuses = s.fuses ∧
          t.custLink = { Link.initial with
            transfer := s.custLink.transfer.broken, acks := s.custLink.acks, sent := s.custLink.sent } ∧
          t.positions = noPositions) ∧
        (s.custody.crystalOk = true → s.positions = noPositions → s.control.exec = none → s.control.suspended = none →
          ∃ t, exec (.commissionRestart true drift) s = .next t ∧ t.custody.restart = none ∧ Scanned s t drift))))
end

