-- ==== Sys2Proof/Laws/State.lean ====
section
/-! SUPPORT. What each field of the state is after each basic update: true by rfl, for simp. -/

namespace Sys2Proof.Machine

/-! ### withRetention -/

@[simp] theorem withRetention_pending (s : State) (f : Retention → Retention) :
    (s.withRetention f).pending = s.pending := rfl
@[simp] theorem withRetention_draws (s : State) (f : Retention → Retention) :
    (s.withRetention f).draws = s.draws := rfl
@[simp] theorem withRetention_lineLinks (s : State) (f : Retention → Retention) :
    (s.withRetention f).lineLinks = s.lineLinks := rfl
@[simp] theorem withRetention_custLink (s : State) (f : Retention → Retention) :
    (s.withRetention f).custLink = s.custLink := rfl
@[simp] theorem withRetention_lineProgress (s : State) (f : Retention → Retention) :
    (s.withRetention f).lineProgress = s.lineProgress := rfl
@[simp] theorem withRetention_custProgress (s : State) (f : Retention → Retention) :
    (s.withRetention f).custProgress = s.custProgress := rfl
@[simp] theorem withRetention_positions (s : State) (f : Retention → Retention) :
    (s.withRetention f).positions = s.positions := rfl
@[simp] theorem withRetention_allocations (s : State) (f : Retention → Retention) :
    (s.withRetention f).allocations = s.allocations := rfl
@[simp] theorem withRetention_buses (s : State) (f : Retention → Retention) :
    (s.withRetention f).buses = s.buses := rfl
@[simp] theorem withRetention_ceremony (s : State) (f : Retention → Retention) :
    (s.withRetention f).ceremony = s.ceremony := rfl
@[simp] theorem withRetention_array (s : State) (f : Retention → Retention) :
    (s.withRetention f).array = s.array := rfl
@[simp] theorem withRetention_control (s : State) (f : Retention → Retention) :
    (s.withRetention f).control = s.control := rfl
@[simp] theorem withRetention_directory (s : State) (f : Retention → Retention) :
    (s.withRetention f).directory = s.directory := rfl
@[simp] theorem withRetention_retention (s : State) (f : Retention → Retention) :
    (s.withRetention f).retention = f s.retention := rfl
@[simp] theorem withRetention_monitor (s : State) (f : Retention → Retention) :
    (s.withRetention f).monitor = s.monitor := rfl
@[simp] theorem withRetention_custody (s : State) (f : Retention → Retention) :
    (s.withRetention f).custody = s.custody := rfl
@[simp] theorem withRetention_fuses (s : State) (f : Retention → Retention) :
    (s.withRetention f).fuses = s.fuses := rfl

/-! ### withDirectory -/

@[simp] theorem withDirectory_pending (s : State) (f : Directory → Directory) :
    (s.withDirectory f).pending = s.pending := rfl
@[simp] theorem withDirectory_draws (s : State) (f : Directory → Directory) :
    (s.withDirectory f).draws = s.draws := rfl
@[simp] theorem withDirectory_lineLinks (s : State) (f : Directory → Directory) :
    (s.withDirectory f).lineLinks = s.lineLinks := rfl
@[simp] theorem withDirectory_custLink (s : State) (f : Directory → Directory) :
    (s.withDirectory f).custLink = s.custLink := rfl
@[simp] theorem withDirectory_lineProgress (s : State) (f : Directory → Directory) :
    (s.withDirectory f).lineProgress = s.lineProgress := rfl
@[simp] theorem withDirectory_custProgress (s : State) (f : Directory → Directory) :
    (s.withDirectory f).custProgress = s.custProgress := rfl
@[simp] theorem withDirectory_positions (s : State) (f : Directory → Directory) :
    (s.withDirectory f).positions = s.positions := rfl
@[simp] theorem withDirectory_allocations (s : State) (f : Directory → Directory) :
    (s.withDirectory f).allocations = s.allocations := rfl
@[simp] theorem withDirectory_buses (s : State) (f : Directory → Directory) :
    (s.withDirectory f).buses = s.buses := rfl
@[simp] theorem withDirectory_ceremony (s : State) (f : Directory → Directory) :
    (s.withDirectory f).ceremony = s.ceremony := rfl
@[simp] theorem withDirectory_array (s : State) (f : Directory → Directory) :
    (s.withDirectory f).array = s.array := rfl
@[simp] theorem withDirectory_control (s : State) (f : Directory → Directory) :
    (s.withDirectory f).control = s.control := rfl
@[simp] theorem withDirectory_directory (s : State) (f : Directory → Directory) :
    (s.withDirectory f).directory = f s.directory := rfl
@[simp] theorem withDirectory_retention (s : State) (f : Directory → Directory) :
    (s.withDirectory f).retention = s.retention := rfl
@[simp] theorem withDirectory_monitor (s : State) (f : Directory → Directory) :
    (s.withDirectory f).monitor = s.monitor := rfl
@[simp] theorem withDirectory_custody (s : State) (f : Directory → Directory) :
    (s.withDirectory f).custody = s.custody := rfl
@[simp] theorem withDirectory_fuses (s : State) (f : Directory → Directory) :
    (s.withDirectory f).fuses = s.fuses := rfl

/-! ### withControl -/

@[simp] theorem withControl_pending (s : State) (f : ArrayControl → ArrayControl) :
    (s.withControl f).pending = s.pending := rfl
@[simp] theorem withControl_draws (s : State) (f : ArrayControl → ArrayControl) :
    (s.withControl f).draws = s.draws := rfl
@[simp] theorem withControl_lineLinks (s : State) (f : ArrayControl → ArrayControl) :
    (s.withControl f).lineLinks = s.lineLinks := rfl
@[simp] theorem withControl_custLink (s : State) (f : ArrayControl → ArrayControl) :
    (s.withControl f).custLink = s.custLink := rfl
@[simp] theorem withControl_lineProgress (s : State) (f : ArrayControl → ArrayControl) :
    (s.withControl f).lineProgress = s.lineProgress := rfl
@[simp] theorem withControl_custProgress (s : State) (f : ArrayControl → ArrayControl) :
    (s.withControl f).custProgress = s.custProgress := rfl
@[simp] theorem withControl_positions (s : State) (f : ArrayControl → ArrayControl) :
    (s.withControl f).positions = s.positions := rfl
@[simp] theorem withControl_allocations (s : State) (f : ArrayControl → ArrayControl) :
    (s.withControl f).allocations = s.allocations := rfl
@[simp] theorem withControl_buses (s : State) (f : ArrayControl → ArrayControl) :
    (s.withControl f).buses = s.buses := rfl
@[simp] theorem withControl_ceremony (s : State) (f : ArrayControl → ArrayControl) :
    (s.withControl f).ceremony = s.ceremony := rfl
@[simp] theorem withControl_array (s : State) (f : ArrayControl → ArrayControl) :
    (s.withControl f).array = s.array := rfl
@[simp] theorem withControl_control (s : State) (f : ArrayControl → ArrayControl) :
    (s.withControl f).control = f s.control := rfl
@[simp] theorem withControl_directory (s : State) (f : ArrayControl → ArrayControl) :
    (s.withControl f).directory = s.directory := rfl
@[simp] theorem withControl_retention (s : State) (f : ArrayControl → ArrayControl) :
    (s.withControl f).retention = s.retention := rfl
@[simp] theorem withControl_monitor (s : State) (f : ArrayControl → ArrayControl) :
    (s.withControl f).monitor = s.monitor := rfl
@[simp] theorem withControl_custody (s : State) (f : ArrayControl → ArrayControl) :
    (s.withControl f).custody = s.custody := rfl
@[simp] theorem withControl_fuses (s : State) (f : ArrayControl → ArrayControl) :
    (s.withControl f).fuses = s.fuses := rfl

/-! ### withCeremony -/

@[simp] theorem withCeremony_pending (s : State) (f : Ceremony → Ceremony) :
    (s.withCeremony f).pending = s.pending := rfl
@[simp] theorem withCeremony_draws (s : State) (f : Ceremony → Ceremony) : (s.withCeremony f).draws = s.draws := rfl
@[simp] theorem withCeremony_lineLinks (s : State) (f : Ceremony → Ceremony) :
    (s.withCeremony f).lineLinks = s.lineLinks := rfl
@[simp] theorem withCeremony_custLink (s : State) (f : Ceremony → Ceremony) :
    (s.withCeremony f).custLink = s.custLink := rfl
@[simp] theorem withCeremony_lineProgress (s : State) (f : Ceremony → Ceremony) :
    (s.withCeremony f).lineProgress = s.lineProgress := rfl
@[simp] theorem withCeremony_custProgress (s : State) (f : Ceremony → Ceremony) :
    (s.withCeremony f).custProgress = s.custProgress := rfl
@[simp] theorem withCeremony_positions (s : State) (f : Ceremony → Ceremony) :
    (s.withCeremony f).positions = s.positions := rfl
@[simp] theorem withCeremony_allocations (s : State) (f : Ceremony → Ceremony) :
    (s.withCeremony f).allocations = s.allocations := rfl
@[simp] theorem withCeremony_buses (s : State) (f : Ceremony → Ceremony) : (s.withCeremony f).buses = s.buses := rfl
@[simp] theorem withCeremony_ceremony (s : State) (f : Ceremony → Ceremony) :
    (s.withCeremony f).ceremony = f s.ceremony := rfl
@[simp] theorem withCeremony_array (s : State) (f : Ceremony → Ceremony) : (s.withCeremony f).array = s.array := rfl
@[simp] theorem withCeremony_control (s : State) (f : Ceremony → Ceremony) :
    (s.withCeremony f).control = s.control := rfl
@[simp] theorem withCeremony_directory (s : State) (f : Ceremony → Ceremony) :
    (s.withCeremony f).directory = s.directory := rfl
@[simp] theorem withCeremony_retention (s : State) (f : Ceremony → Ceremony) :
    (s.withCeremony f).retention = s.retention := rfl
@[simp] theorem withCeremony_monitor (s : State) (f : Ceremony → Ceremony) :
    (s.withCeremony f).monitor = s.monitor := rfl
@[simp] theorem withCeremony_custody (s : State) (f : Ceremony → Ceremony) :
    (s.withCeremony f).custody = s.custody := rfl
@[simp] theorem withCeremony_fuses (s : State) (f : Ceremony → Ceremony) : (s.withCeremony f).fuses = s.fuses := rfl

/-! ### withMonitor -/

@[simp] theorem withMonitor_pending (s : State) (f : Monitor → Monitor) :
    (s.withMonitor f).pending = s.pending := rfl
@[simp] theorem withMonitor_draws (s : State) (f : Monitor → Monitor) : (s.withMonitor f).draws = s.draws := rfl
@[simp] theorem withMonitor_lineLinks (s : State) (f : Monitor → Monitor) :
    (s.withMonitor f).lineLinks = s.lineLinks := rfl
@[simp] theorem withMonitor_custLink (s : State) (f : Monitor → Monitor) :
    (s.withMonitor f).custLink = s.custLink := rfl
@[simp] theorem withMonitor_lineProgress (s : State) (f : Monitor → Monitor) :
    (s.withMonitor f).lineProgress = s.lineProgress := rfl
@[simp] theorem withMonitor_custProgress (s : State) (f : Monitor → Monitor) :
    (s.withMonitor f).custProgress = s.custProgress := rfl
@[simp] theorem withMonitor_positions (s : State) (f : Monitor → Monitor) :
    (s.withMonitor f).positions = s.positions := rfl
@[simp] theorem withMonitor_allocations (s : State) (f : Monitor → Monitor) :
    (s.withMonitor f).allocations = s.allocations := rfl
@[simp] theorem withMonitor_buses (s : State) (f : Monitor → Monitor) : (s.withMonitor f).buses = s.buses := rfl
@[simp] theorem withMonitor_ceremony (s : State) (f : Monitor → Monitor) :
    (s.withMonitor f).ceremony = s.ceremony := rfl
@[simp] theorem withMonitor_array (s : State) (f : Monitor → Monitor) : (s.withMonitor f).array = s.array := rfl
@[simp] theorem withMonitor_control (s : State) (f : Monitor → Monitor) :
    (s.withMonitor f).control = s.control := rfl
@[simp] theorem withMonitor_directory (s : State) (f : Monitor → Monitor) :
    (s.withMonitor f).directory = s.directory := rfl
@[simp] theorem withMonitor_retention (s : State) (f : Monitor → Monitor) :
    (s.withMonitor f).retention = s.retention := rfl
@[simp] theorem withMonitor_monitor (s : State) (f : Monitor → Monitor) :
    (s.withMonitor f).monitor = f s.monitor := rfl
@[simp] theorem withMonitor_custody (s : State) (f : Monitor → Monitor) :
    (s.withMonitor f).custody = s.custody := rfl
@[simp] theorem withMonitor_fuses (s : State) (f : Monitor → Monitor) : (s.withMonitor f).fuses = s.fuses := rfl

/-! ### withCustody -/

@[simp] theorem withCustody_pending (s : State) (f : Custody → Custody) :
    (s.withCustody f).pending = s.pending := rfl
@[simp] theorem withCustody_draws (s : State) (f : Custody → Custody) : (s.withCustody f).draws = s.draws := rfl
@[simp] theorem withCustody_lineLinks (s : State) (f : Custody → Custody) :
    (s.withCustody f).lineLinks = s.lineLinks := rfl
@[simp] theorem withCustody_custLink (s : State) (f : Custody → Custody) :
    (s.withCustody f).custLink = s.custLink := rfl
@[simp] theorem withCustody_lineProgress (s : State) (f : Custody → Custody) :
    (s.withCustody f).lineProgress = s.lineProgress := rfl
@[simp] theorem withCustody_custProgress (s : State) (f : Custody → Custody) :
    (s.withCustody f).custProgress = s.custProgress := rfl
@[simp] theorem withCustody_positions (s : State) (f : Custody → Custody) :
    (s.withCustody f).positions = s.positions := rfl
@[simp] theorem withCustody_allocations (s : State) (f : Custody → Custody) :
    (s.withCustody f).allocations = s.allocations := rfl
@[simp] theorem withCustody_buses (s : State) (f : Custody → Custody) : (s.withCustody f).buses = s.buses := rfl
@[simp] theorem withCustody_ceremony (s : State) (f : Custody → Custody) :
    (s.withCustody f).ceremony = s.ceremony := rfl
@[simp] theorem withCustody_array (s : State) (f : Custody → Custody) : (s.withCustody f).array = s.array := rfl
@[simp] theorem withCustody_control (s : State) (f : Custody → Custody) :
    (s.withCustody f).control = s.control := rfl
@[simp] theorem withCustody_directory (s : State) (f : Custody → Custody) :
    (s.withCustody f).directory = s.directory := rfl
@[simp] theorem withCustody_retention (s : State) (f : Custody → Custody) :
    (s.withCustody f).retention = s.retention := rfl
@[simp] theorem withCustody_monitor (s : State) (f : Custody → Custody) :
    (s.withCustody f).monitor = s.monitor := rfl
@[simp] theorem withCustody_custody (s : State) (f : Custody → Custody) :
    (s.withCustody f).custody = f s.custody := rfl
@[simp] theorem withCustody_fuses (s : State) (f : Custody → Custody) : (s.withCustody f).fuses = s.fuses := rfl

/-! ### withArray -/

@[simp] theorem withArray_pending (s : State) (f : KeyArray → KeyArray) : (s.withArray f).pending = s.pending := rfl
@[simp] theorem withArray_draws (s : State) (f : KeyArray → KeyArray) : (s.withArray f).draws = s.draws := rfl
@[simp] theorem withArray_lineLinks (s : State) (f : KeyArray → KeyArray) :
    (s.withArray f).lineLinks = s.lineLinks := rfl
@[simp] theorem withArray_custLink (s : State) (f : KeyArray → KeyArray) :
    (s.withArray f).custLink = s.custLink := rfl
@[simp] theorem withArray_lineProgress (s : State) (f : KeyArray → KeyArray) :
    (s.withArray f).lineProgress = s.lineProgress := rfl
@[simp] theorem withArray_custProgress (s : State) (f : KeyArray → KeyArray) :
    (s.withArray f).custProgress = s.custProgress := rfl
@[simp] theorem withArray_positions (s : State) (f : KeyArray → KeyArray) :
    (s.withArray f).positions = s.positions := rfl
@[simp] theorem withArray_allocations (s : State) (f : KeyArray → KeyArray) :
    (s.withArray f).allocations = s.allocations := rfl
@[simp] theorem withArray_buses (s : State) (f : KeyArray → KeyArray) : (s.withArray f).buses = s.buses := rfl
@[simp] theorem withArray_ceremony (s : State) (f : KeyArray → KeyArray) :
    (s.withArray f).ceremony = s.ceremony := rfl
@[simp] theorem withArray_array (s : State) (f : KeyArray → KeyArray) : (s.withArray f).array = f s.array := rfl
@[simp] theorem withArray_control (s : State) (f : KeyArray → KeyArray) : (s.withArray f).control = s.control := rfl
@[simp] theorem withArray_directory (s : State) (f : KeyArray → KeyArray) :
    (s.withArray f).directory = s.directory := rfl
@[simp] theorem withArray_retention (s : State) (f : KeyArray → KeyArray) :
    (s.withArray f).retention = s.retention := rfl
@[simp] theorem withArray_monitor (s : State) (f : KeyArray → KeyArray) : (s.withArray f).monitor = s.monitor := rfl
@[simp] theorem withArray_custody (s : State) (f : KeyArray → KeyArray) : (s.withArray f).custody = s.custody := rfl
@[simp] theorem withArray_fuses (s : State) (f : KeyArray → KeyArray) : (s.withArray f).fuses = s.fuses := rfl

/-! ### withBus -/

@[simp] theorem withBus_pending (s : State) (e : Line) (f : Transmitter → Transmitter) :
    (s.withBus e f).pending = s.pending := rfl
@[simp] theorem withBus_draws (s : State) (e : Line) (f : Transmitter → Transmitter) :
    (s.withBus e f).draws = s.draws := rfl
@[simp] theorem withBus_lineLinks (s : State) (e : Line) (f : Transmitter → Transmitter) :
    (s.withBus e f).lineLinks = s.lineLinks := rfl
@[simp] theorem withBus_custLink (s : State) (e : Line) (f : Transmitter → Transmitter) :
    (s.withBus e f).custLink = s.custLink := rfl
@[simp] theorem withBus_lineProgress (s : State) (e : Line) (f : Transmitter → Transmitter) :
    (s.withBus e f).lineProgress = s.lineProgress := rfl
@[simp] theorem withBus_custProgress (s : State) (e : Line) (f : Transmitter → Transmitter) :
    (s.withBus e f).custProgress = s.custProgress := rfl
@[simp] theorem withBus_positions (s : State) (e : Line) (f : Transmitter → Transmitter) :
    (s.withBus e f).positions = s.positions := rfl
@[simp] theorem withBus_allocations (s : State) (e : Line) (f : Transmitter → Transmitter) :
    (s.withBus e f).allocations = s.allocations := rfl
@[simp] theorem withBus_buses (s : State) (e : Line) (f : Transmitter → Transmitter) :
    (s.withBus e f).buses = put s.buses e (f s.buses[e]) := rfl
@[simp] theorem withBus_ceremony (s : State) (e : Line) (f : Transmitter → Transmitter) :
    (s.withBus e f).ceremony = s.ceremony := rfl
@[simp] theorem withBus_array (s : State) (e : Line) (f : Transmitter → Transmitter) :
    (s.withBus e f).array = s.array := rfl
@[simp] theorem withBus_control (s : State) (e : Line) (f : Transmitter → Transmitter) :
    (s.withBus e f).control = s.control := rfl
@[simp] theorem withBus_directory (s : State) (e : Line) (f : Transmitter → Transmitter) :
    (s.withBus e f).directory = s.directory := rfl
@[simp] theorem withBus_retention (s : State) (e : Line) (f : Transmitter → Transmitter) :
    (s.withBus e f).retention = s.retention := rfl
@[simp] theorem withBus_monitor (s : State) (e : Line) (f : Transmitter → Transmitter) :
    (s.withBus e f).monitor = s.monitor := rfl
@[simp] theorem withBus_custody (s : State) (e : Line) (f : Transmitter → Transmitter) :
    (s.withBus e f).custody = s.custody := rfl
@[simp] theorem withBus_fuses (s : State) (e : Line) (f : Transmitter → Transmitter) :
    (s.withBus e f).fuses = s.fuses := rfl

/-! ### withSlot -/

@[simp] theorem withSlot_pending (s : State) (n : SlotNo) (f : SlotDir → SlotDir) :
    (s.withSlot n f).pending = s.pending := rfl
@[simp] theorem withSlot_draws (s : State) (n : SlotNo) (f : SlotDir → SlotDir) :
    (s.withSlot n f).draws = s.draws := rfl
@[simp] theorem withSlot_lineLinks (s : State) (n : SlotNo) (f : SlotDir → SlotDir) :
    (s.withSlot n f).lineLinks = s.lineLinks := rfl
@[simp] theorem withSlot_custLink (s : State) (n : SlotNo) (f : SlotDir → SlotDir) :
    (s.withSlot n f).custLink = s.custLink := rfl
@[simp] theorem withSlot_lineProgress (s : State) (n : SlotNo) (f : SlotDir → SlotDir) :
    (s.withSlot n f).lineProgress = s.lineProgress := rfl
@[simp] theorem withSlot_custProgress (s : State) (n : SlotNo) (f : SlotDir → SlotDir) :
    (s.withSlot n f).custProgress = s.custProgress := rfl
@[simp] theorem withSlot_positions (s : State) (n : SlotNo) (f : SlotDir → SlotDir) :
    (s.withSlot n f).positions = s.positions := rfl
@[simp] theorem withSlot_allocations (s : State) (n : SlotNo) (f : SlotDir → SlotDir) :
    (s.withSlot n f).allocations = s.allocations := rfl
@[simp] theorem withSlot_buses (s : State) (n : SlotNo) (f : SlotDir → SlotDir) :
    (s.withSlot n f).buses = s.buses := rfl
@[simp] theorem withSlot_ceremony (s : State) (n : SlotNo) (f : SlotDir → SlotDir) :
    (s.withSlot n f).ceremony = s.ceremony := rfl
@[simp] theorem withSlot_array (s : State) (n : SlotNo) (f : SlotDir → SlotDir) :
    (s.withSlot n f).array = s.array := rfl
@[simp] theorem withSlot_control (s : State) (n : SlotNo) (f : SlotDir → SlotDir) :
    (s.withSlot n f).control = s.control := rfl
@[simp] theorem withSlot_directory (s : State) (n : SlotNo) (f : SlotDir → SlotDir) :
    (s.withSlot n f).directory = { s.directory with slots := put s.directory.slots n (f s.directory.slots[n]) } := rfl
@[simp] theorem withSlot_retention (s : State) (n : SlotNo) (f : SlotDir → SlotDir) :
    (s.withSlot n f).retention = s.retention := rfl
@[simp] theorem withSlot_monitor (s : State) (n : SlotNo) (f : SlotDir → SlotDir) :
    (s.withSlot n f).monitor = s.monitor := rfl
@[simp] theorem withSlot_custody (s : State) (n : SlotNo) (f : SlotDir → SlotDir) :
    (s.withSlot n f).custody = s.custody := rfl
@[simp] theorem withSlot_fuses (s : State) (n : SlotNo) (f : SlotDir → SlotDir) :
    (s.withSlot n f).fuses = s.fuses := rfl

/-! ### withBank -/

@[simp] theorem withBank_pending (s : State) (b : Bank) (f : BankDir → BankDir) :
    (s.withBank b f).pending = s.pending := rfl
@[simp] theorem withBank_draws (s : State) (b : Bank) (f : BankDir → BankDir) :
    (s.withBank b f).draws = s.draws := rfl
@[simp] theorem withBank_lineLinks (s : State) (b : Bank) (f : BankDir → BankDir) :
    (s.withBank b f).lineLinks = s.lineLinks := rfl
@[simp] theorem withBank_custLink (s : State) (b : Bank) (f : BankDir → BankDir) :
    (s.withBank b f).custLink = s.custLink := rfl
@[simp] theorem withBank_lineProgress (s : State) (b : Bank) (f : BankDir → BankDir) :
    (s.withBank b f).lineProgress = s.lineProgress := rfl
@[simp] theorem withBank_custProgress (s : State) (b : Bank) (f : BankDir → BankDir) :
    (s.withBank b f).custProgress = s.custProgress := rfl
@[simp] theorem withBank_positions (s : State) (b : Bank) (f : BankDir → BankDir) :
    (s.withBank b f).positions = s.positions := rfl
@[simp] theorem withBank_allocations (s : State) (b : Bank) (f : BankDir → BankDir) :
    (s.withBank b f).allocations = s.allocations := rfl
@[simp] theorem withBank_buses (s : State) (b : Bank) (f : BankDir → BankDir) :
    (s.withBank b f).buses = s.buses := rfl
@[simp] theorem withBank_ceremony (s : State) (b : Bank) (f : BankDir → BankDir) :
    (s.withBank b f).ceremony = s.ceremony := rfl
@[simp] theorem withBank_array (s : State) (b : Bank) (f : BankDir → BankDir) :
    (s.withBank b f).array = s.array := rfl
@[simp] theorem withBank_control (s : State) (b : Bank) (f : BankDir → BankDir) :
    (s.withBank b f).control = s.control := rfl
@[simp] theorem withBank_directory (s : State) (b : Bank) (f : BankDir → BankDir) :
    (s.withBank b f).directory = { s.directory with banks := put s.directory.banks b (f s.directory.banks[b]) } := rfl
@[simp] theorem withBank_retention (s : State) (b : Bank) (f : BankDir → BankDir) :
    (s.withBank b f).retention = s.retention := rfl
@[simp] theorem withBank_monitor (s : State) (b : Bank) (f : BankDir → BankDir) :
    (s.withBank b f).monitor = s.monitor := rfl
@[simp] theorem withBank_custody (s : State) (b : Bank) (f : BankDir → BankDir) :
    (s.withBank b f).custody = s.custody := rfl
@[simp] theorem withBank_fuses (s : State) (b : Bank) (f : BankDir → BankDir) :
    (s.withBank b f).fuses = s.fuses := rfl

/-! ### withSlotRet -/

@[simp] theorem withSlotRet_pending (s : State) (n : SlotNo) (f : SlotRetention → SlotRetention) :
    (s.withSlotRet n f).pending = s.pending := rfl
@[simp] theorem withSlotRet_draws (s : State) (n : SlotNo) (f : SlotRetention → SlotRetention) :
    (s.withSlotRet n f).draws = s.draws := rfl
@[simp] theorem withSlotRet_lineLinks (s : State) (n : SlotNo) (f : SlotRetention → SlotRetention) :
    (s.withSlotRet n f).lineLinks = s.lineLinks := rfl
@[simp] theorem withSlotRet_custLink (s : State) (n : SlotNo) (f : SlotRetention → SlotRetention) :
    (s.withSlotRet n f).custLink = s.custLink := rfl
@[simp] theorem withSlotRet_lineProgress (s : State) (n : SlotNo) (f : SlotRetention → SlotRetention) :
    (s.withSlotRet n f).lineProgress = s.lineProgress := rfl
@[simp] theorem withSlotRet_custProgress (s : State) (n : SlotNo) (f : SlotRetention → SlotRetention) :
    (s.withSlotRet n f).custProgress = s.custProgress := rfl
@[simp] theorem withSlotRet_positions (s : State) (n : SlotNo) (f : SlotRetention → SlotRetention) :
    (s.withSlotRet n f).positions = s.positions := rfl
@[simp] theorem withSlotRet_allocations (s : State) (n : SlotNo) (f : SlotRetention → SlotRetention) :
    (s.withSlotRet n f).allocations = s.allocations := rfl
@[simp] theorem withSlotRet_buses (s : State) (n : SlotNo) (f : SlotRetention → SlotRetention) :
    (s.withSlotRet n f).buses = s.buses := rfl
@[simp] theorem withSlotRet_ceremony (s : State) (n : SlotNo) (f : SlotRetention → SlotRetention) :
    (s.withSlotRet n f).ceremony = s.ceremony := rfl
@[simp] theorem withSlotRet_array (s : State) (n : SlotNo) (f : SlotRetention → SlotRetention) :
    (s.withSlotRet n f).array = s.array := rfl
@[simp] theorem withSlotRet_control (s : State) (n : SlotNo) (f : SlotRetention → SlotRetention) :
    (s.withSlotRet n f).control = s.control := rfl
@[simp] theorem withSlotRet_directory (s : State) (n : SlotNo) (f : SlotRetention → SlotRetention) :
    (s.withSlotRet n f).directory = s.directory := rfl
@[simp] theorem withSlotRet_retention (s : State) (n : SlotNo) (f : SlotRetention → SlotRetention) :
    (s.withSlotRet n f).retention =
      { s.retention with slots := put s.retention.slots n (f s.retention.slots[n]) } := rfl
@[simp] theorem withSlotRet_monitor (s : State) (n : SlotNo) (f : SlotRetention → SlotRetention) :
    (s.withSlotRet n f).monitor = s.monitor := rfl
@[simp] theorem withSlotRet_custody (s : State) (n : SlotNo) (f : SlotRetention → SlotRetention) :
    (s.withSlotRet n f).custody = s.custody := rfl
@[simp] theorem withSlotRet_fuses (s : State) (n : SlotNo) (f : SlotRetention → SlotRetention) :
    (s.withSlotRet n f).fuses = s.fuses := rfl

/-! ### withRecord -/

@[simp] theorem withRecord_pending (s : State) (n : SlotNo) (f : SlotRecord → SlotRecord) :
    (s.withRecord n f).pending = s.pending := rfl
@[simp] theorem withRecord_draws (s : State) (n : SlotNo) (f : SlotRecord → SlotRecord) :
    (s.withRecord n f).draws = s.draws := rfl
@[simp] theorem withRecord_lineLinks (s : State) (n : SlotNo) (f : SlotRecord → SlotRecord) :
    (s.withRecord n f).lineLinks = s.lineLinks := rfl
@[simp] theorem withRecord_custLink (s : State) (n : SlotNo) (f : SlotRecord → SlotRecord) :
    (s.withRecord n f).custLink = s.custLink := rfl
@[simp] theorem withRecord_lineProgress (s : State) (n : SlotNo) (f : SlotRecord → SlotRecord) :
    (s.withRecord n f).lineProgress = s.lineProgress := rfl
@[simp] theorem withRecord_custProgress (s : State) (n : SlotNo) (f : SlotRecord → SlotRecord) :
    (s.withRecord n f).custProgress = s.custProgress := rfl
@[simp] theorem withRecord_positions (s : State) (n : SlotNo) (f : SlotRecord → SlotRecord) :
    (s.withRecord n f).positions = s.positions := rfl
@[simp] theorem withRecord_allocations (s : State) (n : SlotNo) (f : SlotRecord → SlotRecord) :
    (s.withRecord n f).allocations = s.allocations := rfl
@[simp] theorem withRecord_buses (s : State) (n : SlotNo) (f : SlotRecord → SlotRecord) :
    (s.withRecord n f).buses = s.buses := rfl
@[simp] theorem withRecord_ceremony (s : State) (n : SlotNo) (f : SlotRecord → SlotRecord) :
    (s.withRecord n f).ceremony = s.ceremony := rfl
@[simp] theorem withRecord_array (s : State) (n : SlotNo) (f : SlotRecord → SlotRecord) :
    (s.withRecord n f).array = { s.array with records := put s.array.records n (f s.array.records[n]) } := rfl
@[simp] theorem withRecord_control (s : State) (n : SlotNo) (f : SlotRecord → SlotRecord) :
    (s.withRecord n f).control = s.control := rfl
@[simp] theorem withRecord_directory (s : State) (n : SlotNo) (f : SlotRecord → SlotRecord) :
    (s.withRecord n f).directory = s.directory := rfl
@[simp] theorem withRecord_retention (s : State) (n : SlotNo) (f : SlotRecord → SlotRecord) :
    (s.withRecord n f).retention = s.retention := rfl
@[simp] theorem withRecord_monitor (s : State) (n : SlotNo) (f : SlotRecord → SlotRecord) :
    (s.withRecord n f).monitor = s.monitor := rfl
@[simp] theorem withRecord_custody (s : State) (n : SlotNo) (f : SlotRecord → SlotRecord) :
    (s.withRecord n f).custody = s.custody := rfl
@[simp] theorem withRecord_fuses (s : State) (n : SlotNo) (f : SlotRecord → SlotRecord) :
    (s.withRecord n f).fuses = s.fuses := rfl

/-! ### markBank -/

@[simp] theorem markBank_pending (s : State) (b : Bank) (on : Bool) : (s.markBank b on).pending = s.pending := rfl
@[simp] theorem markBank_draws (s : State) (b : Bank) (on : Bool) : (s.markBank b on).draws = s.draws := rfl
@[simp] theorem markBank_lineLinks (s : State) (b : Bank) (on : Bool) :
    (s.markBank b on).lineLinks = s.lineLinks := rfl
@[simp] theorem markBank_custLink (s : State) (b : Bank) (on : Bool) :
    (s.markBank b on).custLink = s.custLink := rfl
@[simp] theorem markBank_lineProgress (s : State) (b : Bank) (on : Bool) :
    (s.markBank b on).lineProgress = s.lineProgress := rfl
@[simp] theorem markBank_custProgress (s : State) (b : Bank) (on : Bool) :
    (s.markBank b on).custProgress = s.custProgress := rfl
@[simp] theorem markBank_positions (s : State) (b : Bank) (on : Bool) :
    (s.markBank b on).positions = s.positions := rfl
@[simp] theorem markBank_allocations (s : State) (b : Bank) (on : Bool) :
    (s.markBank b on).allocations = s.allocations := rfl
@[simp] theorem markBank_buses (s : State) (b : Bank) (on : Bool) : (s.markBank b on).buses = s.buses := rfl
@[simp] theorem markBank_ceremony (s : State) (b : Bank) (on : Bool) :
    (s.markBank b on).ceremony = s.ceremony := rfl
@[simp] theorem markBank_array (s : State) (b : Bank) (on : Bool) :
    (s.markBank b on).array =
      { s.array with headers := put s.array.headers b { s.array.headers[b] with erasing := on } } := rfl
@[simp] theorem markBank_control (s : State) (b : Bank) (on : Bool) : (s.markBank b on).control = s.control := rfl
@[simp] theorem markBank_directory (s : State) (b : Bank) (on : Bool) :
    (s.markBank b on).directory = s.directory := rfl
@[simp] theorem markBank_retention (s : State) (b : Bank) (on : Bool) :
    (s.markBank b on).retention = s.retention := rfl
@[simp] theorem markBank_monitor (s : State) (b : Bank) (on : Bool) : (s.markBank b on).monitor = s.monitor := rfl
@[simp] theorem markBank_custody (s : State) (b : Bank) (on : Bool) : (s.markBank b on).custody = s.custody := rfl
@[simp] theorem markBank_fuses (s : State) (b : Bank) (on : Bool) : (s.markBank b on).fuses = s.fuses := rfl

/-! ### setProgress -/

@[simp] theorem setProgress_pending (s : State) (l : Line) (x : Option LineProgress) :
    (s.setProgress l x).pending = s.pending := rfl
@[simp] theorem setProgress_draws (s : State) (l : Line) (x : Option LineProgress) :
    (s.setProgress l x).draws = s.draws := rfl
@[simp] theorem setProgress_lineLinks (s : State) (l : Line) (x : Option LineProgress) :
    (s.setProgress l x).lineLinks = s.lineLinks := rfl
@[simp] theorem setProgress_custLink (s : State) (l : Line) (x : Option LineProgress) :
    (s.setProgress l x).custLink = s.custLink := rfl
@[simp] theorem setProgress_lineProgress (s : State) (l : Line) (x : Option LineProgress) :
    (s.setProgress l x).lineProgress = put s.lineProgress l x := rfl
@[simp] theorem setProgress_custProgress (s : State) (l : Line) (x : Option LineProgress) :
    (s.setProgress l x).custProgress = s.custProgress := rfl
@[simp] theorem setProgress_positions (s : State) (l : Line) (x : Option LineProgress) :
    (s.setProgress l x).positions = s.positions := rfl
@[simp] theorem setProgress_allocations (s : State) (l : Line) (x : Option LineProgress) :
    (s.setProgress l x).allocations = s.allocations := rfl
@[simp] theorem setProgress_buses (s : State) (l : Line) (x : Option LineProgress) :
    (s.setProgress l x).buses = s.buses := rfl
@[simp] theorem setProgress_ceremony (s : State) (l : Line) (x : Option LineProgress) :
    (s.setProgress l x).ceremony = s.ceremony := rfl
@[simp] theorem setProgress_array (s : State) (l : Line) (x : Option LineProgress) :
    (s.setProgress l x).array = s.array := rfl
@[simp] theorem setProgress_control (s : State) (l : Line) (x : Option LineProgress) :
    (s.setProgress l x).control = s.control := rfl
@[simp] theorem setProgress_directory (s : State) (l : Line) (x : Option LineProgress) :
    (s.setProgress l x).directory = s.directory := rfl
@[simp] theorem setProgress_retention (s : State) (l : Line) (x : Option LineProgress) :
    (s.setProgress l x).retention = s.retention := rfl
@[simp] theorem setProgress_monitor (s : State) (l : Line) (x : Option LineProgress) :
    (s.setProgress l x).monitor = s.monitor := rfl
@[simp] theorem setProgress_custody (s : State) (l : Line) (x : Option LineProgress) :
    (s.setProgress l x).custody = s.custody := rfl
@[simp] theorem setProgress_fuses (s : State) (l : Line) (x : Option LineProgress) :
    (s.setProgress l x).fuses = s.fuses := rfl

/-! ### setPos -/

@[simp] theorem setPos_pending (s : State) (e : Line) (p : Pos) (x : Position) :
    (s.setPos e p x).pending = s.pending := rfl
@[simp] theorem setPos_draws (s : State) (e : Line) (p : Pos) (x : Position) :
    (s.setPos e p x).draws = s.draws := rfl
@[simp] theorem setPos_lineLinks (s : State) (e : Line) (p : Pos) (x : Position) :
    (s.setPos e p x).lineLinks = s.lineLinks := rfl
@[simp] theorem setPos_custLink (s : State) (e : Line) (p : Pos) (x : Position) :
    (s.setPos e p x).custLink = s.custLink := rfl
@[simp] theorem setPos_lineProgress (s : State) (e : Line) (p : Pos) (x : Position) :
    (s.setPos e p x).lineProgress = s.lineProgress := rfl
@[simp] theorem setPos_custProgress (s : State) (e : Line) (p : Pos) (x : Position) :
    (s.setPos e p x).custProgress = s.custProgress := rfl
@[simp] theorem setPos_positions (s : State) (e : Line) (p : Pos) (x : Position) :
    (s.setPos e p x).positions = put s.positions e (put s.positions[e] p x) := rfl
@[simp] theorem setPos_allocations (s : State) (e : Line) (p : Pos) (x : Position) :
    (s.setPos e p x).allocations = s.allocations := rfl
@[simp] theorem setPos_buses (s : State) (e : Line) (p : Pos) (x : Position) :
    (s.setPos e p x).buses = s.buses := rfl
@[simp] theorem setPos_ceremony (s : State) (e : Line) (p : Pos) (x : Position) :
    (s.setPos e p x).ceremony = s.ceremony := rfl
@[simp] theorem setPos_array (s : State) (e : Line) (p : Pos) (x : Position) :
    (s.setPos e p x).array = s.array := rfl
@[simp] theorem setPos_control (s : State) (e : Line) (p : Pos) (x : Position) :
    (s.setPos e p x).control = s.control := rfl
@[simp] theorem setPos_directory (s : State) (e : Line) (p : Pos) (x : Position) :
    (s.setPos e p x).directory = s.directory := rfl
@[simp] theorem setPos_retention (s : State) (e : Line) (p : Pos) (x : Position) :
    (s.setPos e p x).retention = s.retention := rfl
@[simp] theorem setPos_monitor (s : State) (e : Line) (p : Pos) (x : Position) :
    (s.setPos e p x).monitor = s.monitor := rfl
@[simp] theorem setPos_custody (s : State) (e : Line) (p : Pos) (x : Position) :
    (s.setPos e p x).custody = s.custody := rfl
@[simp] theorem setPos_fuses (s : State) (e : Line) (p : Pos) (x : Position) :
    (s.setPos e p x).fuses = s.fuses := rfl

/-! ### nextDraw -/

@[simp] theorem nextDraw_pending (s : State) : (s.nextDraw).pending = s.pending := rfl
@[simp] theorem nextDraw_draws (s : State) : (s.nextDraw).draws = s.draws + 1 := rfl
@[simp] theorem nextDraw_lineLinks (s : State) : (s.nextDraw).lineLinks = s.lineLinks := rfl
@[simp] theorem nextDraw_custLink (s : State) : (s.nextDraw).custLink = s.custLink := rfl
@[simp] theorem nextDraw_lineProgress (s : State) : (s.nextDraw).lineProgress = s.lineProgress := rfl
@[simp] theorem nextDraw_custProgress (s : State) : (s.nextDraw).custProgress = s.custProgress := rfl
@[simp] theorem nextDraw_positions (s : State) : (s.nextDraw).positions = s.positions := rfl
@[simp] theorem nextDraw_allocations (s : State) : (s.nextDraw).allocations = s.allocations := rfl
@[simp] theorem nextDraw_buses (s : State) : (s.nextDraw).buses = s.buses := rfl
@[simp] theorem nextDraw_ceremony (s : State) : (s.nextDraw).ceremony = s.ceremony := rfl
@[simp] theorem nextDraw_array (s : State) : (s.nextDraw).array = s.array := rfl
@[simp] theorem nextDraw_control (s : State) : (s.nextDraw).control = s.control := rfl
@[simp] theorem nextDraw_directory (s : State) : (s.nextDraw).directory = s.directory := rfl
@[simp] theorem nextDraw_retention (s : State) : (s.nextDraw).retention = s.retention := rfl
@[simp] theorem nextDraw_monitor (s : State) : (s.nextDraw).monitor = s.monitor := rfl
@[simp] theorem nextDraw_custody (s : State) : (s.nextDraw).custody = s.custody := rfl
@[simp] theorem nextDraw_fuses (s : State) : (s.nextDraw).fuses = s.fuses := rfl

/-! ### pend -/

@[simp] theorem pend_pending (s : State) (m : Byte) : (s.pend m).pending = s.pending := rfl
@[simp] theorem pend_draws (s : State) (m : Byte) : (s.pend m).draws = s.draws := rfl
@[simp] theorem pend_lineLinks (s : State) (m : Byte) : (s.pend m).lineLinks = s.lineLinks := rfl
@[simp] theorem pend_custLink (s : State) (m : Byte) : (s.pend m).custLink = s.custLink := rfl
@[simp] theorem pend_lineProgress (s : State) (m : Byte) : (s.pend m).lineProgress = s.lineProgress := rfl
@[simp] theorem pend_custProgress (s : State) (m : Byte) : (s.pend m).custProgress = s.custProgress := rfl
@[simp] theorem pend_positions (s : State) (m : Byte) : (s.pend m).positions = s.positions := rfl
@[simp] theorem pend_allocations (s : State) (m : Byte) : (s.pend m).allocations = s.allocations := rfl
@[simp] theorem pend_buses (s : State) (m : Byte) : (s.pend m).buses = s.buses := rfl
@[simp] theorem pend_ceremony (s : State) (m : Byte) : (s.pend m).ceremony = s.ceremony := rfl
@[simp] theorem pend_array (s : State) (m : Byte) : (s.pend m).array = s.array := rfl
@[simp] theorem pend_control (s : State) (m : Byte) : (s.pend m).control = s.control := rfl
@[simp] theorem pend_directory (s : State) (m : Byte) : (s.pend m).directory = s.directory := rfl
@[simp] theorem pend_retention (s : State) (m : Byte) :
    (s.pend m).retention = { s.retention with pendingMarks := s.retention.pendingMarks ||| m } := rfl
@[simp] theorem pend_monitor (s : State) (m : Byte) : (s.pend m).monitor = s.monitor := rfl
@[simp] theorem pend_custody (s : State) (m : Byte) : (s.pend m).custody = s.custody := rfl
@[simp] theorem pend_fuses (s : State) (m : Byte) : (s.pend m).fuses = s.fuses := rfl

/-! ### enter -/

@[simp] theorem enter_pending (s : State) (m : Mode) (ph : StartPhase) : (s.enter m ph).pending = s.pending := rfl
@[simp] theorem enter_draws (s : State) (m : Mode) (ph : StartPhase) : (s.enter m ph).draws = s.draws := rfl
@[simp] theorem enter_lineLinks (s : State) (m : Mode) (ph : StartPhase) :
    (s.enter m ph).lineLinks = s.lineLinks := rfl
@[simp] theorem enter_custLink (s : State) (m : Mode) (ph : StartPhase) :
    (s.enter m ph).custLink = s.custLink := rfl
@[simp] theorem enter_lineProgress (s : State) (m : Mode) (ph : StartPhase) :
    (s.enter m ph).lineProgress = s.lineProgress := rfl
@[simp] theorem enter_custProgress (s : State) (m : Mode) (ph : StartPhase) :
    (s.enter m ph).custProgress = s.custProgress := rfl
@[simp] theorem enter_positions (s : State) (m : Mode) (ph : StartPhase) :
    (s.enter m ph).positions = s.positions := rfl
@[simp] theorem enter_allocations (s : State) (m : Mode) (ph : StartPhase) :
    (s.enter m ph).allocations = s.allocations := rfl
@[simp] theorem enter_buses (s : State) (m : Mode) (ph : StartPhase) : (s.enter m ph).buses = s.buses := rfl
@[simp] theorem enter_ceremony (s : State) (m : Mode) (ph : StartPhase) :
    (s.enter m ph).ceremony = s.ceremony := rfl
@[simp] theorem enter_array (s : State) (m : Mode) (ph : StartPhase) : (s.enter m ph).array = s.array := rfl
@[simp] theorem enter_control (s : State) (m : Mode) (ph : StartPhase) : (s.enter m ph).control = s.control := rfl
@[simp] theorem enter_directory (s : State) (m : Mode) (ph : StartPhase) :
    (s.enter m ph).directory = s.directory := rfl
@[simp] theorem enter_retention (s : State) (m : Mode) (ph : StartPhase) :
    (s.enter m ph).retention = s.retention := rfl
@[simp] theorem enter_monitor (s : State) (m : Mode) (ph : StartPhase) : (s.enter m ph).monitor = s.monitor := rfl
@[simp] theorem enter_custody (s : State) (m : Mode) (ph : StartPhase) :
    (s.enter m ph).custody = { s.custody with present := m, phase := ph } := rfl
@[simp] theorem enter_fuses (s : State) (m : Mode) (ph : StartPhase) : (s.enter m ph).fuses = s.fuses := rfl

/-! ### execEnded -/

@[simp] theorem execEnded_pending (s : State) : (s.execEnded).pending = s.pending := rfl
@[simp] theorem execEnded_draws (s : State) : (s.execEnded).draws = s.draws := rfl
@[simp] theorem execEnded_lineLinks (s : State) : (s.execEnded).lineLinks = s.lineLinks := rfl
@[simp] theorem execEnded_custLink (s : State) : (s.execEnded).custLink = s.custLink := rfl
@[simp] theorem execEnded_lineProgress (s : State) : (s.execEnded).lineProgress = s.lineProgress := rfl
@[simp] theorem execEnded_custProgress (s : State) : (s.execEnded).custProgress = s.custProgress := rfl
@[simp] theorem execEnded_positions (s : State) : (s.execEnded).positions = s.positions := rfl
@[simp] theorem execEnded_allocations (s : State) : (s.execEnded).allocations = s.allocations := rfl
@[simp] theorem execEnded_buses (s : State) : (s.execEnded).buses = s.buses := rfl
@[simp] theorem execEnded_ceremony (s : State) : (s.execEnded).ceremony = s.ceremony := rfl
@[simp] theorem execEnded_array (s : State) : (s.execEnded).array = s.array := rfl
@[simp] theorem execEnded_control (s : State) : (s.execEnded).control = { s.control with exec := none } := rfl
@[simp] theorem execEnded_directory (s : State) : (s.execEnded).directory = s.directory := rfl
@[simp] theorem execEnded_retention (s : State) : (s.execEnded).retention = s.retention := rfl
@[simp] theorem execEnded_monitor (s : State) : (s.execEnded).monitor = s.monitor := rfl
@[simp] theorem execEnded_custody (s : State) : (s.execEnded).custody = s.custody := rfl
@[simp] theorem execEnded_fuses (s : State) : (s.execEnded).fuses = s.fuses := rfl

/-! ### queueFrame -/

@[simp] theorem queueFrame_pending (s : State) (e : Line) (k : FrameKind) :
    (s.queueFrame e k).pending = s.pending := rfl
@[simp] theorem queueFrame_draws (s : State) (e : Line) (k : FrameKind) : (s.queueFrame e k).draws = s.draws := rfl
@[simp] theorem queueFrame_lineLinks (s : State) (e : Line) (k : FrameKind) :
    (s.queueFrame e k).lineLinks = s.lineLinks := rfl
@[simp] theorem queueFrame_custLink (s : State) (e : Line) (k : FrameKind) :
    (s.queueFrame e k).custLink = s.custLink := rfl
@[simp] theorem queueFrame_lineProgress (s : State) (e : Line) (k : FrameKind) :
    (s.queueFrame e k).lineProgress = s.lineProgress := rfl
@[simp] theorem queueFrame_custProgress (s : State) (e : Line) (k : FrameKind) :
    (s.queueFrame e k).custProgress = s.custProgress := rfl
@[simp] theorem queueFrame_positions (s : State) (e : Line) (k : FrameKind) :
    (s.queueFrame e k).positions = s.positions := rfl
@[simp] theorem queueFrame_allocations (s : State) (e : Line) (k : FrameKind) :
    (s.queueFrame e k).allocations = s.allocations := rfl
@[simp] theorem queueFrame_buses (s : State) (e : Line) (k : FrameKind) :
    (s.queueFrame e k).buses =
      put s.buses e { s.buses[e] with queue := s.buses[e].queue ++ [{ kind := k, stale := false }] } := rfl
@[simp] theorem queueFrame_ceremony (s : State) (e : Line) (k : FrameKind) :
    (s.queueFrame e k).ceremony = s.ceremony := rfl
@[simp] theorem queueFrame_array (s : State) (e : Line) (k : FrameKind) : (s.queueFrame e k).array = s.array := rfl
@[simp] theorem queueFrame_control (s : State) (e : Line) (k : FrameKind) :
    (s.queueFrame e k).control = s.control := rfl
@[simp] theorem queueFrame_directory (s : State) (e : Line) (k : FrameKind) :
    (s.queueFrame e k).directory = s.directory := rfl
@[simp] theorem queueFrame_retention (s : State) (e : Line) (k : FrameKind) :
    (s.queueFrame e k).retention = s.retention := rfl
@[simp] theorem queueFrame_monitor (s : State) (e : Line) (k : FrameKind) :
    (s.queueFrame e k).monitor = s.monitor := rfl
@[simp] theorem queueFrame_custody (s : State) (e : Line) (k : FrameKind) :
    (s.queueFrame e k).custody = s.custody := rfl
@[simp] theorem queueFrame_fuses (s : State) (e : Line) (k : FrameKind) : (s.queueFrame e k).fuses = s.fuses := rfl

/-! ### withLink_line -/

@[simp] theorem withLink_line_pending (s : State) (l : Line) (f : Link → Link) :
    (s.withLink (.line l) f).pending = s.pending := rfl
@[simp] theorem withLink_line_draws (s : State) (l : Line) (f : Link → Link) :
    (s.withLink (.line l) f).draws = s.draws := rfl
@[simp] theorem withLink_line_lineLinks (s : State) (l : Line) (f : Link → Link) :
    (s.withLink (.line l) f).lineLinks = put s.lineLinks l (f s.lineLinks[l]) := rfl
@[simp] theorem withLink_line_custLink (s : State) (l : Line) (f : Link → Link) :
    (s.withLink (.line l) f).custLink = s.custLink := rfl
@[simp] theorem withLink_line_lineProgress (s : State) (l : Line) (f : Link → Link) :
    (s.withLink (.line l) f).lineProgress = s.lineProgress := rfl
@[simp] theorem withLink_line_custProgress (s : State) (l : Line) (f : Link → Link) :
    (s.withLink (.line l) f).custProgress = s.custProgress := rfl
@[simp] theorem withLink_line_positions (s : State) (l : Line) (f : Link → Link) :
    (s.withLink (.line l) f).positions = s.positions := rfl
@[simp] theorem withLink_line_allocations (s : State) (l : Line) (f : Link → Link) :
    (s.withLink (.line l) f).allocations = s.allocations := rfl
@[simp] theorem withLink_line_buses (s : State) (l : Line) (f : Link → Link) :
    (s.withLink (.line l) f).buses = s.buses := rfl
@[simp] theorem withLink_line_ceremony (s : State) (l : Line) (f : Link → Link) :
    (s.withLink (.line l) f).ceremony = s.ceremony := rfl
@[simp] theorem withLink_line_array (s : State) (l : Line) (f : Link → Link) :
    (s.withLink (.line l) f).array = s.array := rfl
@[simp] theorem withLink_line_control (s : State) (l : Line) (f : Link → Link) :
    (s.withLink (.line l) f).control = s.control := rfl
@[simp] theorem withLink_line_directory (s : State) (l : Line) (f : Link → Link) :
    (s.withLink (.line l) f).directory = s.directory := rfl
@[simp] theorem withLink_line_retention (s : State) (l : Line) (f : Link → Link) :
    (s.withLink (.line l) f).retention = s.retention := rfl
@[simp] theorem withLink_line_monitor (s : State) (l : Line) (f : Link → Link) :
    (s.withLink (.line l) f).monitor = s.monitor := rfl
@[simp] theorem withLink_line_custody (s : State) (l : Line) (f : Link → Link) :
    (s.withLink (.line l) f).custody = s.custody := rfl
@[simp] theorem withLink_line_fuses (s : State) (l : Line) (f : Link → Link) :
    (s.withLink (.line l) f).fuses = s.fuses := rfl

/-! ### withLink_cust -/

@[simp] theorem withLink_cust_pending (s : State) (f : Link → Link) :
    (s.withLink .cust f).pending = s.pending := rfl
@[simp] theorem withLink_cust_draws (s : State) (f : Link → Link) : (s.withLink .cust f).draws = s.draws := rfl
@[simp] theorem withLink_cust_lineLinks (s : State) (f : Link → Link) :
    (s.withLink .cust f).lineLinks = s.lineLinks := rfl
@[simp] theorem withLink_cust_custLink (s : State) (f : Link → Link) :
    (s.withLink .cust f).custLink = f s.custLink := rfl
@[simp] theorem withLink_cust_lineProgress (s : State) (f : Link → Link) :
    (s.withLink .cust f).lineProgress = s.lineProgress := rfl
@[simp] theorem withLink_cust_custProgress (s : State) (f : Link → Link) :
    (s.withLink .cust f).custProgress = s.custProgress := rfl
@[simp] theorem withLink_cust_positions (s : State) (f : Link → Link) :
    (s.withLink .cust f).positions = s.positions := rfl
@[simp] theorem withLink_cust_allocations (s : State) (f : Link → Link) :
    (s.withLink .cust f).allocations = s.allocations := rfl
@[simp] theorem withLink_cust_buses (s : State) (f : Link → Link) : (s.withLink .cust f).buses = s.buses := rfl
@[simp] theorem withLink_cust_ceremony (s : State) (f : Link → Link) :
    (s.withLink .cust f).ceremony = s.ceremony := rfl
@[simp] theorem withLink_cust_array (s : State) (f : Link → Link) : (s.withLink .cust f).array = s.array := rfl
@[simp] theorem withLink_cust_control (s : State) (f : Link → Link) :
    (s.withLink .cust f).control = s.control := rfl
@[simp] theorem withLink_cust_directory (s : State) (f : Link → Link) :
    (s.withLink .cust f).directory = s.directory := rfl
@[simp] theorem withLink_cust_retention (s : State) (f : Link → Link) :
    (s.withLink .cust f).retention = s.retention := rfl
@[simp] theorem withLink_cust_monitor (s : State) (f : Link → Link) :
    (s.withLink .cust f).monitor = s.monitor := rfl
@[simp] theorem withLink_cust_custody (s : State) (f : Link → Link) :
    (s.withLink .cust f).custody = s.custody := rfl
@[simp] theorem withLink_cust_fuses (s : State) (f : Link → Link) : (s.withLink .cust f).fuses = s.fuses := rfl

/-! ### pushCompletion_line -/

@[simp] theorem pushCompletion_line_pending (s : State) (l : Line) (c : Completion) :
    (s.pushCompletion (.line l) c).pending = s.pending := rfl
@[simp] theorem pushCompletion_line_draws (s : State) (l : Line) (c : Completion) :
    (s.pushCompletion (.line l) c).draws = s.draws := rfl
@[simp] theorem pushCompletion_line_lineLinks (s : State) (l : Line) (c : Completion) :
    (s.pushCompletion (.line l) c).lineLinks =
      put s.lineLinks l { s.lineLinks[l] with completions := s.lineLinks[l].completions ++ [c] } := rfl
@[simp] theorem pushCompletion_line_custLink (s : State) (l : Line) (c : Completion) :
    (s.pushCompletion (.line l) c).custLink = s.custLink := rfl
@[simp] theorem pushCompletion_line_lineProgress (s : State) (l : Line) (c : Completion) :
    (s.pushCompletion (.line l) c).lineProgress = s.lineProgress := rfl
@[simp] theorem pushCompletion_line_custProgress (s : State) (l : Line) (c : Completion) :
    (s.pushCompletion (.line l) c).custProgress = s.custProgress := rfl
@[simp] theorem pushCompletion_line_positions (s : State) (l : Line) (c : Completion) :
    (s.pushCompletion (.line l) c).positions = s.positions := rfl
@[simp] theorem pushCompletion_line_allocations (s : State) (l : Line) (c : Completion) :
    (s.pushCompletion (.line l) c).allocations = s.allocations := rfl
@[simp] theorem pushCompletion_line_buses (s : State) (l : Line) (c : Completion) :
    (s.pushCompletion (.line l) c).buses = s.buses := rfl
@[simp] theorem pushCompletion_line_ceremony (s : State) (l : Line) (c : Completion) :
    (s.pushCompletion (.line l) c).ceremony = s.ceremony := rfl
@[simp] theorem pushCompletion_line_array (s : State) (l : Line) (c : Completion) :
    (s.pushCompletion (.line l) c).array = s.array := rfl
@[simp] theorem pushCompletion_line_control (s : State) (l : Line) (c : Completion) :
    (s.pushCompletion (.line l) c).control = s.control := rfl
@[simp] theorem pushCompletion_line_directory (s : State) (l : Line) (c : Completion) :
    (s.pushCompletion (.line l) c).directory = s.directory := rfl
@[simp] theorem pushCompletion_line_retention (s : State) (l : Line) (c : Completion) :
    (s.pushCompletion (.line l) c).retention = s.retention := rfl
@[simp] theorem pushCompletion_line_monitor (s : State) (l : Line) (c : Completion) :
    (s.pushCompletion (.line l) c).monitor = s.monitor := rfl
@[simp] theorem pushCompletion_line_custody (s : State) (l : Line) (c : Completion) :
    (s.pushCompletion (.line l) c).custody = s.custody := rfl
@[simp] theorem pushCompletion_line_fuses (s : State) (l : Line) (c : Completion) :
    (s.pushCompletion (.line l) c).fuses = s.fuses := rfl

/-! ### pushCompletion_cust -/

@[simp] theorem pushCompletion_cust_pending (s : State) (c : Completion) :
    (s.pushCompletion .cust c).pending = s.pending := rfl
@[simp] theorem pushCompletion_cust_draws (s : State) (c : Completion) :
    (s.pushCompletion .cust c).draws = s.draws := rfl
@[simp] theorem pushCompletion_cust_lineLinks (s : State) (c : Completion) :
    (s.pushCompletion .cust c).lineLinks = s.lineLinks := rfl
@[simp] theorem pushCompletion_cust_custLink (s : State) (c : Completion) :
    (s.pushCompletion .cust c).custLink = { s.custLink with completions := s.custLink.completions ++ [c] } := rfl
@[simp] theorem pushCompletion_cust_lineProgress (s : State) (c : Completion) :
    (s.pushCompletion .cust c).lineProgress = s.lineProgress := rfl
@[simp] theorem pushCompletion_cust_custProgress (s : State) (c : Completion) :
    (s.pushCompletion .cust c).custProgress = s.custProgress := rfl
@[simp] theorem pushCompletion_cust_positions (s : State) (c : Completion) :
    (s.pushCompletion .cust c).positions = s.positions := rfl
@[simp] theorem pushCompletion_cust_allocations (s : State) (c : Completion) :
    (s.pushCompletion .cust c).allocations = s.allocations := rfl
@[simp] theorem pushCompletion_cust_buses (s : State) (c : Completion) :
    (s.pushCompletion .cust c).buses = s.buses := rfl
@[simp] theorem pushCompletion_cust_ceremony (s : State) (c : Completion) :
    (s.pushCompletion .cust c).ceremony = s.ceremony := rfl
@[simp] theorem pushCompletion_cust_array (s : State) (c : Completion) :
    (s.pushCompletion .cust c).array = s.array := rfl
@[simp] theorem pushCompletion_cust_control (s : State) (c : Completion) :
    (s.pushCompletion .cust c).control = s.control := rfl
@[simp] theorem pushCompletion_cust_directory (s : State) (c : Completion) :
    (s.pushCompletion .cust c).directory = s.directory := rfl
@[simp] theorem pushCompletion_cust_retention (s : State) (c : Completion) :
    (s.pushCompletion .cust c).retention = s.retention := rfl
@[simp] theorem pushCompletion_cust_monitor (s : State) (c : Completion) :
    (s.pushCompletion .cust c).monitor = s.monitor := rfl
@[simp] theorem pushCompletion_cust_custody (s : State) (c : Completion) :
    (s.pushCompletion .cust c).custody = s.custody := rfl
@[simp] theorem pushCompletion_cust_fuses (s : State) (c : Completion) :
    (s.pushCompletion .cust c).fuses = s.fuses := rfl

/-! ### popRequest_line -/

@[simp] theorem popRequest_line_pending (s : State) (l : Line) : (s.popRequest (.line l)).pending = s.pending := rfl
@[simp] theorem popRequest_line_draws (s : State) (l : Line) : (s.popRequest (.line l)).draws = s.draws := rfl
@[simp] theorem popRequest_line_lineLinks (s : State) (l : Line) :
    (s.popRequest (.line l)).lineLinks =
      put s.lineLinks l { s.lineLinks[l] with requests := s.lineLinks[l].requests.tail } := rfl
@[simp] theorem popRequest_line_custLink (s : State) (l : Line) :
    (s.popRequest (.line l)).custLink = s.custLink := rfl
@[simp] theorem popRequest_line_lineProgress (s : State) (l : Line) :
    (s.popRequest (.line l)).lineProgress = s.lineProgress := rfl
@[simp] theorem popRequest_line_custProgress (s : State) (l : Line) :
    (s.popRequest (.line l)).custProgress = s.custProgress := rfl
@[simp] theorem popRequest_line_positions (s : State) (l : Line) :
    (s.popRequest (.line l)).positions = s.positions := rfl
@[simp] theorem popRequest_line_allocations (s : State) (l : Line) :
    (s.popRequest (.line l)).allocations = s.allocations := rfl
@[simp] theorem popRequest_line_buses (s : State) (l : Line) : (s.popRequest (.line l)).buses = s.buses := rfl
@[simp] theorem popRequest_line_ceremony (s : State) (l : Line) :
    (s.popRequest (.line l)).ceremony = s.ceremony := rfl
@[simp] theorem popRequest_line_array (s : State) (l : Line) : (s.popRequest (.line l)).array = s.array := rfl
@[simp] theorem popRequest_line_control (s : State) (l : Line) : (s.popRequest (.line l)).control = s.control := rfl
@[simp] theorem popRequest_line_directory (s : State) (l : Line) :
    (s.popRequest (.line l)).directory = s.directory := rfl
@[simp] theorem popRequest_line_retention (s : State) (l : Line) :
    (s.popRequest (.line l)).retention = s.retention := rfl
@[simp] theorem popRequest_line_monitor (s : State) (l : Line) : (s.popRequest (.line l)).monitor = s.monitor := rfl
@[simp] theorem popRequest_line_custody (s : State) (l : Line) : (s.popRequest (.line l)).custody = s.custody := rfl
@[simp] theorem popRequest_line_fuses (s : State) (l : Line) : (s.popRequest (.line l)).fuses = s.fuses := rfl

/-! ### popRequest_cust -/

@[simp] theorem popRequest_cust_pending (s : State) : (s.popRequest .cust).pending = s.pending := rfl
@[simp] theorem popRequest_cust_draws (s : State) : (s.popRequest .cust).draws = s.draws := rfl
@[simp] theorem popRequest_cust_lineLinks (s : State) : (s.popRequest .cust).lineLinks = s.lineLinks := rfl
@[simp] theorem popRequest_cust_custLink (s : State) :
    (s.popRequest .cust).custLink = { s.custLink with requests := s.custLink.requests.tail } := rfl
@[simp] theorem popRequest_cust_lineProgress (s : State) : (s.popRequest .cust).lineProgress = s.lineProgress := rfl
@[simp] theorem popRequest_cust_custProgress (s : State) : (s.popRequest .cust).custProgress = s.custProgress := rfl
@[simp] theorem popRequest_cust_positions (s : State) : (s.popRequest .cust).positions = s.positions := rfl
@[simp] theorem popRequest_cust_allocations (s : State) : (s.popRequest .cust).allocations = s.allocations := rfl
@[simp] theorem popRequest_cust_buses (s : State) : (s.popRequest .cust).buses = s.buses := rfl
@[simp] theorem popRequest_cust_ceremony (s : State) : (s.popRequest .cust).ceremony = s.ceremony := rfl
@[simp] theorem popRequest_cust_array (s : State) : (s.popRequest .cust).array = s.array := rfl
@[simp] theorem popRequest_cust_control (s : State) : (s.popRequest .cust).control = s.control := rfl
@[simp] theorem popRequest_cust_directory (s : State) : (s.popRequest .cust).directory = s.directory := rfl
@[simp] theorem popRequest_cust_retention (s : State) : (s.popRequest .cust).retention = s.retention := rfl
@[simp] theorem popRequest_cust_monitor (s : State) : (s.popRequest .cust).monitor = s.monitor := rfl
@[simp] theorem popRequest_cust_custody (s : State) : (s.popRequest .cust).custody = s.custody := rfl
@[simp] theorem popRequest_cust_fuses (s : State) : (s.popRequest .cust).fuses = s.fuses := rfl

/-! ### finishLine -/

@[simp] theorem finishLine_pending (s : State) (l : Line) (t k : Byte) (oc : OutcomeCode) (d : List Byte) :
    (s.finishLine l t k oc d).pending = s.pending := rfl
@[simp] theorem finishLine_draws (s : State) (l : Line) (t k : Byte) (oc : OutcomeCode) (d : List Byte) :
    (s.finishLine l t k oc d).draws = s.draws := rfl
@[simp] theorem finishLine_lineLinks (s : State) (l : Line) (t k : Byte) (oc : OutcomeCode) (d : List Byte) :
    (s.finishLine l t k oc d).lineLinks =
      put s.lineLinks l { s.lineLinks[l] with completions := s.lineLinks[l].completions ++ [{ tag := t, code := k, outcome := oc, data := d }] } := rfl
@[simp] theorem finishLine_custLink (s : State) (l : Line) (t k : Byte) (oc : OutcomeCode) (d : List Byte) :
    (s.finishLine l t k oc d).custLink = s.custLink := rfl
@[simp] theorem finishLine_lineProgress (s : State) (l : Line) (t k : Byte) (oc : OutcomeCode) (d : List Byte) :
    (s.finishLine l t k oc d).lineProgress = put s.lineProgress l none := rfl
@[simp] theorem finishLine_custProgress (s : State) (l : Line) (t k : Byte) (oc : OutcomeCode) (d : List Byte) :
    (s.finishLine l t k oc d).custProgress = s.custProgress := rfl
@[simp] theorem finishLine_positions (s : State) (l : Line) (t k : Byte) (oc : OutcomeCode) (d : List Byte) :
    (s.finishLine l t k oc d).positions = s.positions := rfl
@[simp] theorem finishLine_allocations (s : State) (l : Line) (t k : Byte) (oc : OutcomeCode) (d : List Byte) :
    (s.finishLine l t k oc d).allocations = s.allocations := rfl
@[simp] theorem finishLine_buses (s : State) (l : Line) (t k : Byte) (oc : OutcomeCode) (d : List Byte) :
    (s.finishLine l t k oc d).buses = s.buses := rfl
@[simp] theorem finishLine_ceremony (s : State) (l : Line) (t k : Byte) (oc : OutcomeCode) (d : List Byte) :
    (s.finishLine l t k oc d).ceremony = s.ceremony := rfl
@[simp] theorem finishLine_array (s : State) (l : Line) (t k : Byte) (oc : OutcomeCode) (d : List Byte) :
    (s.finishLine l t k oc d).array = s.array := rfl
@[simp] theorem finishLine_control (s : State) (l : Line) (t k : Byte) (oc : OutcomeCode) (d : List Byte) :
    (s.finishLine l t k oc d).control = s.control := rfl
@[simp] theorem finishLine_directory (s : State) (l : Line) (t k : Byte) (oc : OutcomeCode) (d : List Byte) :
    (s.finishLine l t k oc d).directory = s.directory := rfl
@[simp] theorem finishLine_retention (s : State) (l : Line) (t k : Byte) (oc : OutcomeCode) (d : List Byte) :
    (s.finishLine l t k oc d).retention = s.retention := rfl
@[simp] theorem finishLine_monitor (s : State) (l : Line) (t k : Byte) (oc : OutcomeCode) (d : List Byte) :
    (s.finishLine l t k oc d).monitor = s.monitor := rfl
@[simp] theorem finishLine_custody (s : State) (l : Line) (t k : Byte) (oc : OutcomeCode) (d : List Byte) :
    (s.finishLine l t k oc d).custody = s.custody := rfl
@[simp] theorem finishLine_fuses (s : State) (l : Line) (t k : Byte) (oc : OutcomeCode) (d : List Byte) :
    (s.finishLine l t k oc d).fuses = s.fuses := rfl

/-! ### finishCust -/

@[simp] theorem finishCust_pending (s : State) (t k : Byte) (oc : OutcomeCode) (d : List Byte) :
    (s.finishCust t k oc d).pending = s.pending := rfl
@[simp] theorem finishCust_draws (s : State) (t k : Byte) (oc : OutcomeCode) (d : List Byte) :
    (s.finishCust t k oc d).draws = s.draws := rfl
@[simp] theorem finishCust_lineLinks (s : State) (t k : Byte) (oc : OutcomeCode) (d : List Byte) :
    (s.finishCust t k oc d).lineLinks = s.lineLinks := rfl
@[simp] theorem finishCust_custLink (s : State) (t k : Byte) (oc : OutcomeCode) (d : List Byte) :
    (s.finishCust t k oc d).custLink =
      { s.custLink with completions := s.custLink.completions ++ [{ tag := t, code := k, outcome := oc, data := d }] } := rfl
@[simp] theorem finishCust_lineProgress (s : State) (t k : Byte) (oc : OutcomeCode) (d : List Byte) :
    (s.finishCust t k oc d).lineProgress = s.lineProgress := rfl
@[simp] theorem finishCust_custProgress (s : State) (t k : Byte) (oc : OutcomeCode) (d : List Byte) :
    (s.finishCust t k oc d).custProgress = none := rfl
@[simp] theorem finishCust_positions (s : State) (t k : Byte) (oc : OutcomeCode) (d : List Byte) :
    (s.finishCust t k oc d).positions = s.positions := rfl
@[simp] theorem finishCust_allocations (s : State) (t k : Byte) (oc : OutcomeCode) (d : List Byte) :
    (s.finishCust t k oc d).allocations = s.allocations := rfl
@[simp] theorem finishCust_buses (s : State) (t k : Byte) (oc : OutcomeCode) (d : List Byte) :
    (s.finishCust t k oc d).buses = s.buses := rfl
@[simp] theorem finishCust_ceremony (s : State) (t k : Byte) (oc : OutcomeCode) (d : List Byte) :
    (s.finishCust t k oc d).ceremony = s.ceremony := rfl
@[simp] theorem finishCust_array (s : State) (t k : Byte) (oc : OutcomeCode) (d : List Byte) :
    (s.finishCust t k oc d).array = s.array := rfl
@[simp] theorem finishCust_control (s : State) (t k : Byte) (oc : OutcomeCode) (d : List Byte) :
    (s.finishCust t k oc d).control = s.control := rfl
@[simp] theorem finishCust_directory (s : State) (t k : Byte) (oc : OutcomeCode) (d : List Byte) :
    (s.finishCust t k oc d).directory = s.directory := rfl
@[simp] theorem finishCust_retention (s : State) (t k : Byte) (oc : OutcomeCode) (d : List Byte) :
    (s.finishCust t k oc d).retention = s.retention := rfl
@[simp] theorem finishCust_monitor (s : State) (t k : Byte) (oc : OutcomeCode) (d : List Byte) :
    (s.finishCust t k oc d).monitor = s.monitor := rfl
@[simp] theorem finishCust_custody (s : State) (t k : Byte) (oc : OutcomeCode) (d : List Byte) :
    (s.finishCust t k oc d).custody = s.custody := rfl
@[simp] theorem finishCust_fuses (s : State) (t k : Byte) (oc : OutcomeCode) (d : List Byte) :
    (s.finishCust t k oc d).fuses = s.fuses := rfl

/-! ### withLink at any port -/

@[simp] theorem withLink_pending (s : State) (p : Port) (f : Link → Link) : (s.withLink p f).pending = s.pending := by
  cases p <;> rfl
@[simp] theorem withLink_draws (s : State) (p : Port) (f : Link → Link) : (s.withLink p f).draws = s.draws := by
  cases p <;> rfl
@[simp] theorem withLink_lineProgress (s : State) (p : Port) (f : Link → Link) : (s.withLink p f).lineProgress = s.lineProgress := by
  cases p <;> rfl
@[simp] theorem withLink_custProgress (s : State) (p : Port) (f : Link → Link) : (s.withLink p f).custProgress = s.custProgress := by
  cases p <;> rfl
@[simp] theorem withLink_positions (s : State) (p : Port) (f : Link → Link) : (s.withLink p f).positions = s.positions := by
  cases p <;> rfl
@[simp] theorem withLink_allocations (s : State) (p : Port) (f : Link → Link) : (s.withLink p f).allocations = s.allocations := by
  cases p <;> rfl
@[simp] theorem withLink_buses (s : State) (p : Port) (f : Link → Link) : (s.withLink p f).buses = s.buses := by
  cases p <;> rfl
@[simp] theorem withLink_ceremony (s : State) (p : Port) (f : Link → Link) : (s.withLink p f).ceremony = s.ceremony := by
  cases p <;> rfl
@[simp] theorem withLink_array (s : State) (p : Port) (f : Link → Link) : (s.withLink p f).array = s.array := by
  cases p <;> rfl
@[simp] theorem withLink_control (s : State) (p : Port) (f : Link → Link) : (s.withLink p f).control = s.control := by
  cases p <;> rfl
@[simp] theorem withLink_directory (s : State) (p : Port) (f : Link → Link) : (s.withLink p f).directory = s.directory := by
  cases p <;> rfl
@[simp] theorem withLink_retention (s : State) (p : Port) (f : Link → Link) : (s.withLink p f).retention = s.retention := by
  cases p <;> rfl
@[simp] theorem withLink_monitor (s : State) (p : Port) (f : Link → Link) : (s.withLink p f).monitor = s.monitor := by
  cases p <;> rfl
@[simp] theorem withLink_custody (s : State) (p : Port) (f : Link → Link) : (s.withLink p f).custody = s.custody := by
  cases p <;> rfl
@[simp] theorem withLink_fuses (s : State) (p : Port) (f : Link → Link) : (s.withLink p f).fuses = s.fuses := by
  cases p <;> rfl

end Sys2Proof.Machine
end

