-- ==== Sys2Proof/Laws/Ops.lean ====
section
/-! SUPPORT. What the shared operations do, said once: fixed tables, links, the two takes, the end of a
ceremony, alarm latching, tamper events by mode, the end of the volatile state. -/

namespace Sys2Proof.Machine

/-! ## Fixed tables -/

@[simp] theorem put_get_same {α : Type} {n : Nat} (v : Vector α n) (i : Fin n) (x : α) : (put v i x)[i] = x := by
  simp [put]

@[simp] theorem put_get_same_val {α : Type} {n : Nat} (v : Vector α n) (i : Fin n) (x : α) :
    (put v i x)[i.val] = x := by
  simp [put]

theorem put_get_other {α : Type} {n : Nat} (v : Vector α n) (i j : Fin n) (x : α) (h : i ≠ j) :
    (put v i x)[j] = v[j] := by
  have : i.val ≠ j.val := fun e => h (Fin.ext e)
  simp [put, Vector.getElem_set_ne, this]

/-- The same with the index as simp writes it. -/
theorem put_get_other_val {α : Type} {n : Nat} (v : Vector α n) (i j : Fin n) (x : α) (h : ¬ i = j) :
    (put v i x)[j.val] = v[j.val] := put_get_other v i j x h

theorem put_get {α : Type} {n : Nat} (v : Vector α n) (i j : Fin n) (x : α) :
    (put v i x)[j] = if i = j then x else v[j] := by
  split
  · next h => subst h; exact put_get_same v i x
  · next h => exact put_get_other v i j x h

@[simp] theorem put_put {α : Type} {n : Nat} (v : Vector α n) (i : Fin n) (x y : α) :
    put (put v i x) i y = put v i y := by
  apply Vector.ext; intro j hj
  simp only [put, Vector.getElem_set]
  split <;> rfl

@[simp] theorem put_get_self {α : Type} {n : Nat} (v : Vector α n) (i : Fin n) : put v i v[i] = v := by
  apply Vector.ext; intro j hj
  simp only [put, Vector.getElem_set]
  split
  · next h => subst h; rfl
  · rfl

theorem put_of_eq {α : Type} {n : Nat} (v : Vector α n) (i : Fin n) (x : α) (h : v[i] = x) : put v i x = v := by
  subst h; exact put_get_self v i

@[simp] theorem mapTable_get {α β : Type} {n : Nat} (f : α → β) (v : Vector α n) (i : Fin n) :
    (mapTable f v)[i] = f v[i] := by
  simp [mapTable]

@[simp] theorem mapTable_get_val {α β : Type} {n : Nat} (f : α → β) (v : Vector α n) (i : Nat) (h : i < n) :
    (mapTable f v)[i] = f v[i] := by
  simp [mapTable]

theorem fillBank_get {α : Type} (b : Bank) (x : α) (v : Vector α 128) (n : SlotNo) :
    (fillBank b x v)[n] = if bankOf n = b then x else v[n] := by
  simp [fillBank]

/-! ## Positions -/

@[simp] theorem pos_setPos_same (s : State) (e : Line) (p : Pos) (x : Position) : (s.setPos e p x).pos e p = x := by
  simp [State.pos, State.setPos]

theorem pos_setPos (s : State) (e e' : Line) (p p' : Pos) (x : Position) :
    (s.setPos e p x).pos e' p' = if e = e' ∧ p = p' then x else s.pos e' p' := by
  by_cases he : e = e'
  · subst he
    by_cases hp : p = p'
    · subst hp; simp
    · simp [State.pos, State.setPos, put_get_other_val, hp]
  · simp [State.pos, State.setPos, put_get_other_val, he]

theorem noPositions_get (e : Line) (p : Pos) : noPositions[e][p] = .free := by
  simp [noPositions]

@[simp] theorem endTable_positions (s : State) : s.endTable.positions = noPositions := rfl

/-! ## Links -/

@[simp] theorem link_withLink (s : State) (p : Port) (f : Link → Link) : (s.withLink p f).link p = f (s.link p) := by
  cases p <;> simp [State.link, State.withLink]

/-! ## The take of a line request (R57, R58) -/

/-- Where the head message cannot be taken, nothing happens. -/
theorem takeLine_idle {α : Type} (s : State) (l : Line) (code : Byte) (parse : Message → Option α)
    (act : Byte → α → State → State) (h : s.takeable (.line l) = none) : s.takeLine l code parse act = s := by
  simp [State.takeLine, h]

/-- Where the head message is another request, nothing happens. -/
theorem takeLine_other {α : Type} (s : State) (l : Line) (code : Byte) (parse : Message → Option α)
    (act : Byte → α → State → State) (m : Message) (h : s.takeable (.line l) = some m) (hc : m.code ≠ code) :
    s.takeLine l code parse act = s := by
  simp [State.takeLine, h, hc]

/-- Outside SERVICE it completes ZEROIZED. -/
theorem takeLine_zeroized {α : Type} (s : State) (l : Line) (code : Byte) (parse : Message → Option α)
    (act : Byte → α → State → State) (m : Message) (h : s.takeable (.line l) = some m) (hc : m.code = code)
    (hm : s.custody.present ≠ .service) :
    s.takeLine l code parse act = (s.popRequest (.line l)).finishLine l m.tag code .zeroized [] := by
  simp [State.takeLine, h, hc, hm]

/-- A malformed message completes BAD_REQUEST. -/
theorem takeLine_malformed {α : Type} (s : State) (l : Line) (code : Byte) (parse : Message → Option α)
    (act : Byte → α → State → State) (m : Message) (h : s.takeable (.line l) = some m) (hc : m.code = code)
    (hm : s.custody.present = .service) (hp : parse m = none) :
    s.takeLine l code parse act = (s.popRequest (.line l)).finishLine l m.tag code .badRequest [] := by
  simp [State.takeLine, h, hc, hm, hp]

/-- A well-formed message in SERVICE is handled. -/
theorem takeLine_acts {α : Type} (s : State) (l : Line) (code : Byte) (parse : Message → Option α)
    (act : Byte → α → State → State) (m : Message) (q : α) (h : s.takeable (.line l) = some m) (hc : m.code = code)
    (hm : s.custody.present = .service) (hp : parse m = some q) :
    s.takeLine l code parse act = act m.tag q (s.popRequest (.line l)) := by
  simp [State.takeLine, h, hc, hm, hp]

/-! ## The take of a custodian request (R35, R36) -/

/-- The state in which a custodian request is judged: its message taken, its entry reserved. -/
def State.custTaking (s : State) (tag : Byte) : State :=
  { s.popRequest .cust with custProgress := some (.taking tag) }

theorem takeCust_idle {α : Type} (s : State) (code : Byte) (gate : Mode → Option OutcomeCode) (need : SwitchNeed)
    (parse : Message → Option α) (act : Byte → α → State → State) (h : s.takeable .cust = none) :
    s.takeCust code gate need parse act = s := by
  simp [State.takeCust, h]

theorem takeCust_other {α : Type} (s : State) (code : Byte) (gate : Mode → Option OutcomeCode) (need : SwitchNeed)
    (parse : Message → Option α) (act : Byte → α → State → State) (m : Message) (h : s.takeable .cust = some m)
    (hc : m.code ≠ code) : s.takeCust code gate need parse act = s := by
  simp [State.takeCust, h, hc]

theorem takeCust_gated {α : Type} (s : State) (code : Byte) (gate : Mode → Option OutcomeCode) (need : SwitchNeed)
    (parse : Message → Option α) (act : Byte → α → State → State) (m : Message) (oc : OutcomeCode)
    (h : s.takeable .cust = some m) (hc : m.code = code) (hg : gate s.custody.present = some oc) :
    s.takeCust code gate need parse act = (s.custTaking m.tag).finishCust m.tag code oc [] := by
  simp [State.takeCust, State.custTaking, h, hc, hg]

theorem takeCust_malformed {α : Type} (s : State) (code : Byte) (gate : Mode → Option OutcomeCode)
    (need : SwitchNeed) (parse : Message → Option α) (act : Byte → α → State → State) (m : Message)
    (h : s.takeable .cust = some m) (hc : m.code = code) (hg : gate s.custody.present = none)
    (hp : parse m = none) :
    s.takeCust code gate need parse act = (s.custTaking m.tag).finishCust m.tag code .badRequest [] := by
  simp [State.takeCust, State.custTaking, h, hc, hg, hp]

theorem switchesMeet_custTaking (s : State) (tag : Byte) (need : SwitchNeed) :
    (s.custTaking tag).switchesMeet need = s.switchesMeet need := by
  cases need <;> rfl

theorem takeCust_switches {α : Type} (s : State) (code : Byte) (gate : Mode → Option OutcomeCode)
    (need : SwitchNeed) (parse : Message → Option α) (act : Byte → α → State → State) (m : Message) (q : α)
    (h : s.takeable .cust = some m) (hc : m.code = code) (hg : gate s.custody.present = none)
    (hp : parse m = some q) (hw : s.switchesMeet need = false) :
    s.takeCust code gate need parse act = (s.custTaking m.tag).finishCust m.tag code .switches [] := by
  simp [State.takeCust, State.custTaking, h, hc, hg, hp, hw]

theorem takeCust_acts {α : Type} (s : State) (code : Byte) (gate : Mode → Option OutcomeCode) (need : SwitchNeed)
    (parse : Message → Option α) (act : Byte → α → State → State) (m : Message) (q : α)
    (h : s.takeable .cust = some m) (hc : m.code = code) (hg : gate s.custody.present = none)
    (hp : parse m = some q) (hw : s.switchesMeet need = true) :
    s.takeCust code gate need parse act = act m.tag q (s.custTaking m.tag) := by
  simp [State.takeCust, State.custTaking, h, hc, hg, hp, hw]

/-- What taking leaves as it stands, field by field. -/
@[simp] theorem custTaking_retention (s : State) (t : Byte) : (s.custTaking t).retention = s.retention := rfl
@[simp] theorem custTaking_directory (s : State) (t : Byte) : (s.custTaking t).directory = s.directory := rfl
@[simp] theorem custTaking_control (s : State) (t : Byte) : (s.custTaking t).control = s.control := rfl
@[simp] theorem custTaking_ceremony (s : State) (t : Byte) : (s.custTaking t).ceremony = s.ceremony := rfl
@[simp] theorem custTaking_custody (s : State) (t : Byte) : (s.custTaking t).custody = s.custody := rfl
@[simp] theorem custTaking_monitor (s : State) (t : Byte) : (s.custTaking t).monitor = s.monitor := rfl
@[simp] theorem custTaking_positions (s : State) (t : Byte) : (s.custTaking t).positions = s.positions := rfl
@[simp] theorem custTaking_buses (s : State) (t : Byte) : (s.custTaking t).buses = s.buses := rfl
@[simp] theorem custTaking_lineProgress (s : State) (t : Byte) : (s.custTaking t).lineProgress = s.lineProgress := rfl
@[simp] theorem custTaking_pending (s : State) (t : Byte) : (s.custTaking t).pending = s.pending := rfl
@[simp] theorem custTaking_custProgress (s : State) (t : Byte) :
    (s.custTaking t).custProgress = some (.taking t) := rfl
@[simp] theorem custTaking_resolve (s : State) (t : Byte) (h : Handle) :
    (s.custTaking t).resolve h = s.resolve h := rfl

/-! ## The end of a ceremony (R48) -/

theorem endCeremony_current (s : State) : s.endCeremony.ceremony.current = none := by
  unfold State.endCeremony
  split
  · assumption
  · rfl

theorem endCeremony_buffer (s : State) (o : OpenRecord) (h : s.ceremony.current = some o) :
    s.endCeremony.ceremony.buffer = zeros32 := by
  simp [State.endCeremony, h]

theorem endCeremony_idle (s : State) (h : s.ceremony.current = none) : s.endCeremony = s := by
  simp [State.endCeremony, h]

/-- A ceremony that is not COLLECTING is not abandoned. -/
theorem abandonFor_idle (s : State) (c : Cause) (h : s.ceremony.current = none) : s.abandonFor c = s := by
  simp [State.abandonFor, h]

/-! ## Alarm latching (R160, R175) -/

theorem latch_live (s : State) (a : Alarm) (h : s.retention.marker = true) :
    s.latch a =
      s.withRetention fun r => { r with alarmFlags := r.alarmFlags ||| bitMask a.bit } := by
  simp [State.latch, h]

theorem latch_lost (s : State) (a : Alarm) (h : s.retention.marker = false) : s.latch a = s := by
  simp [State.latch, h]

/-- Latching changes retention alone. -/
theorem latch_eq (s : State) (a : Alarm) : ∃ r, s.latch a = { s with retention := r } := by
  unfold State.latch State.withRetention
  split
  · exact ⟨_, rfl⟩
  · exact ⟨s.retention, rfl⟩

/-! ## Tamper events (R163, R175) -/

theorem raiseTamper_lost (s : State) (src : Source) (act : Action) (h : s.retention.marker = false) :
    s.raiseTamper src act = s := by
  simp [State.raiseTamper, h]

theorem raiseTamper_service_zeroize (s : State) (src : Source) (h : s.retention.marker = true)
    (hm : s.custody.present = .service) : s.raiseTamper src .zeroize = s.beginRunning src := by
  simp [State.raiseTamper, h, hm]

theorem raiseTamper_service_alarm (s : State) (src : Source) (h : s.retention.marker = true)
    (hm : s.custody.present = .service) :
    s.raiseTamper src .alarm = (s.latchSource src).recordEvent src .alarmed := by
  simp [State.raiseTamper, h, hm]

theorem raiseTamper_zeroizing (s : State) (src : Source) (act : Action) (h : s.retention.marker = true)
    (hm : s.custody.present = .zeroizing ∨ s.custody.present = .recovery) :
    s.raiseTamper src act = (s.latchSource src).recordEvent src .recorded := by
  rcases hm with hm | hm <;> simp [State.raiseTamper, h, hm]

theorem raiseTamper_unpowered (s : State) (src : Source) (h : s.retention.marker = true)
    (hm : s.custody.present = .backup ∨ s.custody.present = .starting ∨ s.custody.present = .halted)
    (hr : s.retention.resume = .service) : s.raiseTamper src .zeroize = s.beginUnpowered src := by
  rcases hm with hm | hm | hm <;> simp [State.raiseTamper, h, hm, hr]

/-! ## The end of the volatile state (R179) -/

@[simp] theorem endVolatile_lineProgress (s : State) : s.endVolatile.lineProgress = Vector.replicate 4 none := rfl
@[simp] theorem endVolatile_custProgress (s : State) : s.endVolatile.custProgress = none := rfl
@[simp] theorem endVolatile_ceremony (s : State) : s.endVolatile.ceremony = Ceremony.initial := rfl
@[simp] theorem endVolatile_control (s : State) : s.endVolatile.control = ArrayControl.initial := rfl
@[simp] theorem endVolatile_directory (s : State) : s.endVolatile.directory = Directory.initial := rfl
@[simp] theorem endVolatile_monitor (s : State) : s.endVolatile.monitor = Monitor.initial := rfl
@[simp] theorem endVolatile_record (s : State) : s.endVolatile.custody.record = .notLoaded := rfl

/-! ## The step -/

theorem step_front (s : State) (c : Instr) (rest : List Instr) (h : s.pending = c :: rest) :
    step s = exec c { s with pending := rest } := by
  simp [step, h]

theorem step_empty (s : State) (h : s.pending = []) : step s = .next s.tick := by
  simp [step, h]

end Sys2Proof.Machine
end

