-- ==== Sys2Proof/Laws/Answers.lean ====
section
/-! SUPPORT. What a take ends in, in the words of the statements: a request answered, taken or completed. -/

namespace Sys2Proof.Machine

theorem takeable_line_idle (s : State) (l : Line) (m : Message) (h : s.takeable (.line l) = some m) :
    s.lineProgress[l] = none := by
  simp only [State.takeable] at h; split at h <;> simp_all

theorem takeable_cust_idle (s : State) (m : Message) (h : s.takeable .cust = some m) : s.custProgress = none := by
  simp only [State.takeable] at h; split at h <;> simp_all

/-- A line request that completes in its own step. -/
theorem finishLine_popRequest (s : State) (l : Line) (m : Message) (h : s.takeable (.line l) = some m)
    (t k : Byte) (oc : OutcomeCode) (d : List Byte) :
    (s.popRequest (.line l)).finishLine l t k oc d = s.lineAnswered l t k oc d := by
  have := put_of_eq _ _ _ (takeable_line_idle s l m h)
  simp [State.finishLine, State.lineAnswered, State.popRequest, State.pushCompletion, State.setProgress,
    State.withLink, this]

/-- A line request that is taken and goes on. -/
theorem popRequest_line_eq (s : State) (l : Line) : s.popRequest (.line l) = s.lineTaken l := rfl

/-- A custodian request that completes in its own step. -/
theorem finishCust_custTaking (s : State) (m : Message) (h : s.takeable .cust = some m) (g t k : Byte)
    (oc : OutcomeCode) (d : List Byte) : (s.custTaking g).finishCust t k oc d = s.custAnswered t k oc d := by
  have := takeable_cust_idle s m h
  simp [State.finishCust, State.custTaking, State.custAnswered, State.popRequest, State.pushCompletion,
    State.withLink, this]

/-- The take of a line request that passes. -/
theorem takeLine_passes {α : Type} (s : State) (l : Line) (code : Byte) (parse : Message → Option α)
    (act : Byte → α → State → State) (m : Message) (q : α) (h : s.linePasses l code parse m q) :
    s.takeLine l code parse act = act m.tag q (s.lineTaken l) := by
  obtain ⟨h1, h2, h3, h4⟩ := h
  exact takeLine_acts s l code parse act m q h1 h2 h3 h4

/-- The take of a custodian request that passes. -/
theorem takeCust_passes {α : Type} (s : State) (code : Byte) (gate : Mode → Option OutcomeCode) (need : SwitchNeed)
    (parse : Message → Option α) (act : Byte → α → State → State) (m : Message) (q : α)
    (h : s.custPasses code gate need parse m q) :
    s.takeCust code gate need parse act = act m.tag q (s.custTaking m.tag) := by
  obtain ⟨h1, h2, h3, h4, h5⟩ := h
  exact takeCust_acts s code gate need parse act m q h1 h2 h3 h4 h5

theorem finishLine_eq (s : State) (l : Line) (t k : Byte) (oc : OutcomeCode) (d : List Byte) :
    s.finishLine l t k oc d = s.lineCompletes l t k oc d := rfl

theorem finishCust_eq (s : State) (t k : Byte) (oc : OutcomeCode) (d : List Byte) :
    s.finishCust t k oc d = s.custCompletes t k oc d := rfl

end Sys2Proof.Machine
end

