-- ==== Sys2Proof/Laws/Faults.lean ====
section
/-! SUPPORT. What the setting of the fault flag does to the writes that wait (R113, R114). -/

namespace Sys2Proof.Machine

/-- The end of a mark: its slot is no longer retire-pending, an ACTIVE one is RETIRED with its latch set, and nothing
else changes (R12, R127). -/
theorem markEnd_eq (s : State) (n : SlotNo) : ∃ ss rs, s.markEnd n = { s with
      directory := { s.directory with slots := ss }, retention := { s.retention with slots := rs } } ∧
    (∀ m, m ≠ n → ss[m] = s.directory.slots[m] ∧ rs[m] = s.retention.slots[m]) ∧ ss[n].retirePending = false ∧
    (s.directory.slots[n].state = .active → ss[n].state = .retired ∧ rs[n].latch = true) ∧
    (s.directory.slots[n].state ≠ .active → ss[n].state = s.directory.slots[n].state ∧ rs = s.retention.slots) := by
  unfold State.markEnd
  by_cases h : s.directory.slots[n].state = .active
  · refine ⟨_, _, if_pos h, ?_, ?_, ?_, fun k => absurd h k⟩
    · intro m hm
      exact ⟨put_get_other _ _ _ _ (Ne.symm hm), put_get_other _ _ _ _ (Ne.symm hm)⟩
    · rw [put_get_same]
    · intro _; rw [put_get_same, put_get_same]; exact ⟨if_pos h, rfl⟩
  · refine ⟨_, s.retention.slots, if_neg h, ?_, ?_, fun k => absurd k h, ?_⟩
    · intro m hm; exact ⟨put_get_other _ _ _ _ (Ne.symm hm), rfl⟩
    · rw [put_get_same]
    · intro _; rw [put_get_same]; exact ⟨if_neg h, rfl⟩

/-- A waiting PROGRAM RECORD is refused: the ceremony ends with its COMMIT NV_FAULT (R46). -/
theorem refuseProgram_eq (s : State) : ∃ c bs k p, s.refuseProgram = { s with
      control := { s.control with ceremonyWait := none }, ceremony := c, custLink := k, custProgress := p
      directory := { s.directory with banks := bs } } ∧
    (∀ b : Bank, bs[b].condition = s.directory.banks[b].condition) ∧
    ((∀ tag, s.custProgress ≠ some (.commit tag)) → k = s.custLink ∧ p = s.custProgress) ∧
    (∀ r o tag, s.control.ceremonyWait = some r → s.ceremony.current = some o → s.custProgress = some (.commit tag) →
      c = { s.ceremony with current := none, buffer := Vector.replicate 32 0 } ∧
      bs[bankOf o.slot].reserved = false ∧ p = none ∧
      k.completions = s.custLink.completions ++ [⟨tag, codeCommit, .nvFault, []⟩]) := by
  unfold State.refuseProgram
  cases hw : s.control.ceremonyWait with
  | none =>
    refine ⟨s.ceremony, s.directory.banks, s.custLink, s.custProgress, ?_, fun _ => rfl, fun _ => ⟨rfl, rfl⟩, by simp⟩
    simp only
    rw [← hw]
  | some r =>
    unfold State.endCeremony State.finishCommit
    cases hc : s.ceremony.current with
    | none =>
      cases hp : s.custProgress with
      | none => exact ⟨s.ceremony, s.directory.banks, s.custLink, none, by simp [hc, hp, State.withControl],
          fun _ => rfl, fun _ => ⟨rfl, rfl⟩, by simp⟩
      | some x =>
        cases x with
        | commit tag => exact ⟨_, _, _, _, by simp only [State.withControl, hc, hp]; rfl, fun _ => rfl,
            fun h => absurd rfl (h tag), by simp⟩
        | taking | retire | reclaim | commission =>
          exact ⟨s.ceremony, s.directory.banks, s.custLink, _, by simp only [State.withControl, hc, hp],
            fun _ => rfl, fun _ => ⟨rfl, rfl⟩, by simp⟩
    | some o =>
      have hb : ∀ b : Bank, (put s.directory.banks (bankOf o.slot)
          { s.directory.banks[bankOf o.slot] with reserved := false })[b].condition =
          s.directory.banks[b].condition := by
        intro b; rw [put_get]; split
        · next e => subst e; rfl
        · rfl
      cases hp : s.custProgress with
      | none => exact ⟨_, _, _, _, by simp only [State.withControl, hc, hp, State.withBank, State.withCeremony]; rfl,
          hb, fun _ => ⟨rfl, rfl⟩, by simp⟩
      | some x =>
        cases x with
        | commit tag =>
          refine ⟨_, _, _, _, by simp only [State.withControl, hc, hp, State.withBank, State.withCeremony]; rfl,
            hb, fun h => absurd rfl (h tag), ?_⟩
          intro r' o' tag' _ ho ht
          cases ho; cases ht
          refine ⟨rfl, by rw [put_get_same], rfl, rfl⟩
        | taking | retire | reclaim | commission =>
          exact ⟨_, _, _, _, by simp only [State.withControl, hc, hp, State.withBank, State.withCeremony]; rfl,
            hb, fun _ => ⟨rfl, rfl⟩, by simp⟩

/-- Under the fault flag the emptied administration slot refuses the request that waits for it (R114, R126, R129). -/
theorem adminEmptied_fault (s : State) (h : s.control.fault = true) : ∃ ss rs k p, s.adminEmptied = { s with
      custLink := k, custProgress := p
      directory := { s.directory with slots := ss }, retention := { s.retention with slots := rs } } ∧
    (∀ n : SlotNo, (s.directory.slots[n].retirePending = false → ss[n].retirePending = false) ∧
      (s.directory.slots[n].state = .active → ss[n].state = .active ∨ (ss[n].state = .retired ∧ rs[n].latch = true)) ∧
      (s.directory.slots[n].state ≠ .active → ss[n].state = s.directory.slots[n].state ∧
        rs[n] = s.retention.slots[n])) ∧
    (∀ tag h n recalled, s.custProgress = some (.retire tag h n recalled) → p = none ∧ ss[n].retirePending = false ∧
      k.completions = s.custLink.completions ++ [⟨tag, codeRetire, .ok, h.bytes ++ [BitVec.ofNat 8 recalled, 2]⟩]) ∧
    (∀ tag b epoch, s.custProgress = some (.reclaim tag b epoch) → p = none ∧
      k.completions = s.custLink.completions ++ [⟨tag, codeReclaim, .nvFault, []⟩]) ∧
    ((∀ tag h n recalled, s.custProgress ≠ some (.retire tag h n recalled)) →
      (∀ tag b epoch, s.custProgress ≠ some (.reclaim tag b epoch)) → k = s.custLink ∧ p = s.custProgress) := by
  unfold State.adminEmptied
  split
  · next tag hd n recalled hp =>
    obtain ⟨ss, rs, e, h1, h2, h3, h4⟩ := markEnd_eq s n
    refine ⟨ss, rs, _, _, by unfold State.submitMark; rw [if_pos h, e]; rfl, ?_, ?_, by simp [hp], ?_⟩
    · intro m
      by_cases hm : m = n
      · subst hm
        refine ⟨fun _ => h2, fun k => .inr (h3 k), fun k => ⟨(h4 k).1, by rw [(h4 k).2]⟩⟩
      · rw [(h1 m hm).1, (h1 m hm).2]
        exact ⟨id, fun k => .inl k, fun _ => ⟨rfl, rfl⟩⟩
    · intro tag' hd' n' r' e'
      rw [hp] at e'; cases e'
      exact ⟨rfl, h2, rfl⟩
    · intro k; exact absurd hp (k tag hd n recalled)
  · next tag b epoch hp =>
    refine ⟨s.directory.slots, s.retention.slots, _, _, by rw [if_pos h]; rfl, ?_, by simp [hp], ?_, ?_⟩
    · intro m; exact ⟨id, fun k => .inl k, fun _ => ⟨rfl, rfl⟩⟩
    · intro tag' b' e' q; rw [hp] at q; cases q; exact ⟨rfl, rfl⟩
    · intro _ k; exact absurd hp (k tag b epoch)
  · next h1 h2 =>
    refine ⟨s.directory.slots, s.retention.slots, s.custLink, s.custProgress, rfl, ?_, ?_, ?_, fun _ _ => ⟨rfl, rfl⟩⟩
    · intro m; exact ⟨id, fun k => .inl k, fun _ => ⟨rfl, rfl⟩⟩
    · intro tag hd n r q; exact absurd q (h1 tag hd n r)
    · intro tag b e q; exact absurd q (h2 tag b e)

/-- A failed write with the validity marker standing refuses what waits (R113, R114). -/
theorem setFault_refuses (s : State) (h : s.retention.marker = true) : WaitingRefused s s.setFault := by
  obtain ⟨c, bs, k, p, e, h1, h2, h3⟩ := refuseProgram_eq { s with
    control := { s.control with fault := true }
    retention := { s.retention with alarmFlags := s.retention.alarmFlags ||| 0x40 } }
  have hl : s.setFault = ({ s with
      control := { s.control with fault := true }
      retention := { s.retention with
        alarmFlags := s.retention.alarmFlags ||| 0x40 } } : State).refuseProgram.refuseAdmin := by
    unfold State.setFault
    rw [latch_live _ _ (by simpa using h)]
    rfl
  rw [hl, e]
  unfold State.refuseAdmin
  cases ha : s.control.adminWait with
  | none =>
    simp only [ha]
    exact ⟨rfl, rfl, rfl, rfl, h3, fun _ q => by (rw [ha] at q; cases q), fun _ _ q => by (rw [ha] at q; cases q),
      fun _ _ _ _ q => by (rw [ha] at q; cases q), fun _ _ _ q => by (rw [ha] at q; cases q)⟩
  | some op =>
    cases op with
    | mark m =>
      simp only [State.withControl]
      obtain ⟨ss, rs, e1, g1, g2, g3, g4⟩ := markEnd_eq { s with
        control := { s.control with fault := true, ceremonyWait := none, adminWait := none }, ceremony := c
        retention := { s.retention with alarmFlags := s.retention.alarmFlags ||| 0x40 }
        custLink := k, custProgress := p, directory := { s.directory with banks := bs } } m
      rw [e1]
      obtain ⟨ss', rs', k', p', e2, f1, f2, f3, f4⟩ := adminEmptied_fault { s with
        control := { s.control with fault := true, ceremonyWait := none, adminWait := none }, ceremony := c
        retention := { s.retention with slots := rs, alarmFlags := s.retention.alarmFlags ||| 0x40 }
        custLink := k, custProgress := p, directory := { s.directory with slots := ss, banks := bs } } rfl
      rw [e2]
      refine ⟨rfl, rfl, rfl, rfl, ?_, ?_, ?_, ?_, ?_⟩
      · intro r o tag a1 a2 a3
        obtain ⟨b1, b2, b3, b4⟩ := h3 r o tag a1 a2 a3
        obtain ⟨d1, d2⟩ := f4 (by intro _ _ _ _ q; simp_all) (by intro _ _ _ q; simp_all)
        exact ⟨b1, b2, by rw [d2]; exact b3, by rw [d1]; exact b4⟩
      · intro n q
        rw [ha] at q; cases q
        refine ⟨(f1 m).1 g2, fun q => ?_⟩
        have h' := g3 q
        have := (f1 m).2.2 (by rw [h'.1]; decide)
        exact ⟨by rw [this.1]; exact h'.1, by rw [this.2]; exact h'.2⟩
      · intro b prior q; rw [ha] at q; cases q
      · intro tag hd n recalled _ q
        have hk := h2 (by intro t q'; rw [q] at q'; cases q')
        obtain ⟨d1, d2, d3⟩ := f2 tag hd n recalled (hk.2.trans q)
        exact ⟨d1, d2, by rw [d3]; exact congrArg (fun k : Link => k.completions ++ _) hk.1⟩
      · intro tag b epoch _ q
        have hk := h2 (by intro t q'; rw [q] at q'; cases q')
        obtain ⟨d1, d2⟩ := f3 tag b epoch (hk.2.trans q)
        exact ⟨d1, by rw [d2]; exact congrArg (fun k : Link => k.completions ++ _) hk.1⟩
    | erase b prior =>
      simp only [State.withControl, State.withBank]
      obtain ⟨ss', rs', k', p', e2, f1, f2, f3, f4⟩ := adminEmptied_fault { s with
        control := { s.control with fault := true, ceremonyWait := none, adminWait := none }, ceremony := c
        retention := { s.retention with alarmFlags := s.retention.alarmFlags ||| 0x40 }
        custLink := k, custProgress := p
        directory := { s.directory with banks := put bs b { bs[b] with condition := prior } } } rfl
      rw [e2]
      refine ⟨rfl, rfl, rfl, rfl, ?_, ?_, ?_, ?_, ?_⟩
      · intro r o tag a1 a2 a3
        obtain ⟨b1, b2, b3, b4⟩ := h3 r o tag a1 a2 a3
        obtain ⟨d1, d2⟩ := f4 (by intro _ _ _ _ q; simp_all) (by intro _ _ _ q; simp_all)
        refine ⟨b1, ?_, by rw [d2]; exact b3, by rw [d1]; exact b4⟩
        change (put bs b _)[bankOf o.slot].reserved = false
        rw [put_get]; split
        · next q => subst q; exact b2
        · exact b2
      · intro n q; rw [ha] at q; cases q
      · intro b' prior' q
        rw [ha] at q; cases q
        change (put bs b _)[b].condition = prior
        rw [put_get_same]
      · intro tag hd n recalled _ q
        have hk := h2 (by intro t q'; rw [q] at q'; cases q')
        obtain ⟨d1, d2, d3⟩ := f2 tag hd n recalled (hk.2.trans q)
        exact ⟨d1, d2, by rw [d3]; exact congrArg (fun k : Link => k.completions ++ _) hk.1⟩
      · intro tag b epoch _ q
        have hk := h2 (by intro t q'; rw [q] at q'; cases q')
        obtain ⟨d1, d2⟩ := f3 tag b epoch (hk.2.trans q)
        exact ⟨d1, by rw [d2]; exact congrArg (fun k : Link => k.completions ++ _) hk.1⟩
end Sys2Proof.Machine
end

