-- ==== Sys2Proof/Laws/Forms.lean ====
section
/-! SUPPORT. One lemma per operand form: the messages it takes and the fields it reads, at their offsets and in their ranges
(R38, R40, R42, R58, R122, R142, R183, R188, 11.7). -/

namespace Sys2Proof.Machine

theorem posOf_eq_some_iff (b : Byte) (p : Pos) : posOf b = some p ↔ b.toNat = p.val := by
  unfold posOf
  split
  · simp [Fin.ext_iff]
  · have := p.isLt
    simp; omega

theorem numBE_two (a b : Byte) : numBE [a, b] = 256 * a.toNat + b.toNat := by simp [numBE]; omega

theorem numBE_three (a b c : Byte) : numBE [a, b, c] = 65536 * a.toNat + 256 * b.toNat + c.toNat := by
  simp [numBE]; omega

theorem parseNone_iff (m : Message) : parseNone m = some () ↔ m.hasLength 2 := by
  unfold parseNone Message.body Message.hasLength
  split <;> simp_all

theorem parseHandle_iff (m : Message) (h : Handle) : parseHandle m = some h ↔ m.hasLength 5 ∧ h = m.handle 2 := by
  obtain ⟨bytes, long⟩ := m
  by_cases hl : bytes.length = 5
  · match bytes, hl with
    | [a0, a1, a2, a3, a4], _ =>
      cases long <;> simp [parseHandle, Message.body, Message.hasLength, Message.handle, Message.byte, eq_comm]
  · simp [parseHandle, Message.body, Message.hasLength, hl]

theorem parseBind_iff (m : Message) (h : Handle) (n : Nat) :
    parseBind m = some (h, n) ↔ m.hasLength 7 ∧ h = m.handle 2 ∧ n = m.two 5 ∧ 1 ≤ n := by
  obtain ⟨bytes, long⟩ := m
  by_cases hl : bytes.length = 7
  · match bytes, hl with
    | [a0, a1, a2, a3, a4, a5, a6], _ =>
      cases long <;> simp [parseBind, Message.body, Message.hasLength, Message.handle, Message.byte, Message.two, numBE_two]
      grind
  · simp [parseBind, Message.body, Message.hasLength, hl]

theorem parseExtend_iff (m : Message) (p : Pos) (n : Nat) :
    parseExtend m = some (p, n) ↔ m.hasLength 5 ∧ (m.byte 2).toNat = p.val ∧ n = m.two 3 ∧ 1 ≤ n := by
  obtain ⟨bytes, long⟩ := m
  by_cases hl : bytes.length = 5
  · match bytes, hl with
    | [a0, a1, a2, a3, a4], _ =>
      cases long
      · simp only [parseExtend, Message.body, Message.hasLength, Message.byte, Message.two]
        rw [show ([a0, a1, a2, a3, a4] : List Byte).getD 2 0 = a2 from rfl, ← posOf_eq_some_iff]
        cases hp : posOf a2 <;> simp [hp, numBE_two]
        grind
      · simp [parseExtend, Message.body, Message.hasLength]
  · simp [parseExtend, Message.body, Message.hasLength, hl]

theorem parseRelease_iff (m : Message) (p : Pos) (u : Nat) :
    parseRelease m = some (p, u) ↔ m.hasLength 6 ∧ (m.byte 2).toNat = p.val ∧ u = m.three 3 := by
  obtain ⟨bytes, long⟩ := m
  by_cases hl : bytes.length = 6
  · match bytes, hl with
    | [a0, a1, a2, a3, a4, a5], _ =>
      cases long
      · simp only [parseRelease, Message.body, Message.hasLength, Message.byte, Message.three]
        rw [show ([a0, a1, a2, a3, a4, a5] : List Byte).getD 2 0 = a2 from rfl, ← posOf_eq_some_iff]
        cases hp : posOf a2 <;> simp [hp, numBE_three]
        grind
      · simp [parseRelease, Message.body, Message.hasLength]
  · simp [parseRelease, Message.body, Message.hasLength, hl]

theorem parseReleaseAll_iff (m : Message) (u : Vector Nat 4) :
    parseReleaseAll m = some u ↔ m.hasLength 14 ∧ ∀ p : Pos, u[p] = m.three (2 + 3 * p.val) := by
  obtain ⟨bytes, long⟩ := m
  by_cases hl : bytes.length = 14
  · match bytes, hl with
    | [a0, a1, a2, a3, a4, a5, a6, a7, a8, a9, a10, a11, a12, a13], _ =>
      cases long
      · simp only [parseReleaseAll, Message.body, Message.hasLength, Message.byte, Message.three]
        simp
        rw [Vector.ext_iff]
        constructor
        · intro h p
          have h0 := h 0 (by decide)
          have h1 := h 1 (by decide)
          have h2 := h 2 (by decide)
          have h3 := h 3 (by decide)
          simp [numBE_three] at h0 h1 h2 h3
          fin_cases p <;> simp <;> omega
        · intro h i hi
          have := h ⟨i, hi⟩
          match i, hi with
          | 0, _ => simp_all [numBE_three]
          | 1, _ => simp_all [numBE_three]
          | 2, _ => simp_all [numBE_three]
          | 3, _ => simp_all [numBE_three]
      · simp [parseReleaseAll, Message.body, Message.hasLength]
  · simp [parseReleaseAll, Message.body, Message.hasLength, hl]

theorem parseFlags_iff (m : Message) (b : Byte) : parseFlags m = some b ↔ m.hasLength 3 ∧ b = m.byte 2 := by
  obtain ⟨bytes, long⟩ := m
  by_cases hl : bytes.length = 3
  · match bytes, hl with
    | [a0, a1, a2], _ => cases long <;> simp [parseFlags, Message.body, Message.hasLength, Message.byte, eq_comm]
  · simp [parseFlags, Message.body, Message.hasLength, hl]

theorem parseReclaim_iff (m : Message) (b : Bank) :
    parseReclaim m = some b ↔ m.hasLength 3 ∧ (m.byte 2).toNat = b.val := by
  obtain ⟨bytes, long⟩ := m
  by_cases hl : bytes.length = 3
  · match bytes, hl with
    | [a0, a1, a2], _ =>
      cases long <;> simp [parseReclaim, Message.body, Message.hasLength, Message.byte, posOf_eq_some_iff]
  · simp [parseReclaim, Message.body, Message.hasLength, hl]

theorem parseRetire_iff (m : Message) (h : Handle) (rc : Bool) :
    parseRetire m = some (h, rc) ↔
      m.hasLength 6 ∧ h = m.handle 2 ∧ (m.byte 5).toNat ≤ 1 ∧ rc = decide (m.byte 5 = 1) := by
  obtain ⟨bytes, long⟩ := m
  by_cases hl : bytes.length = 6
  · match bytes, hl with
    | [a0, a1, a2, a3, a4, a5], _ =>
      cases long <;> simp [parseRetire, Message.body, Message.hasLength, Message.handle, Message.byte]
      constructor
      · rintro ⟨h1, rfl, rfl⟩; exact ⟨rfl, h1, rfl⟩
      · rintro ⟨rfl, h1, rfl⟩; exact ⟨h1, rfl, rfl⟩
  · simp [parseRetire, Message.body, Message.hasLength, hl]

theorem parseAllocate_iff (m : Message) (l : Line) (d k : Byte) :
    parseAllocate m = some (l, d, k) ↔
      m.hasLength 5 ∧ (m.byte 2).toNat = l.val ∧ d = m.byte 3 ∧ d.toNat ≤ 15 ∧ k = m.byte 4 ∧ k.toNat ≤ 15 := by
  obtain ⟨bytes, long⟩ := m
  by_cases hl : bytes.length = 5
  · match bytes, hl with
    | [a0, a1, a2, a3, a4], _ =>
      cases long
      · simp only [parseAllocate, Message.body, Message.hasLength, Message.byte]
        rw [show ([a0, a1, a2, a3, a4] : List Byte).getD 2 0 = a2 from rfl, ← posOf_eq_some_iff]
        cases hp : posOf a2 <;> simp [hp]
        grind
      · simp [parseAllocate, Message.body, Message.hasLength]
  · simp [parseAllocate, Message.body, Message.hasLength, hl]

theorem parseSetTime_iff (m : Message) (d : Date) (t : Time) :
    parseSetTime m = some (d, t) ↔
      m.hasLength 8 ∧ d = m.date 2 ∧ t = ⟨(m.byte 5).toNat, (m.byte 6).toNat, (m.byte 7).toNat⟩ := by
  obtain ⟨bytes, long⟩ := m
  by_cases hl : bytes.length = 8
  · match bytes, hl with
    | [a0, a1, a2, a3, a4, a5, a6, a7], _ =>
      cases long <;>
        simp [parseSetTime, Message.body, Message.hasLength, Message.date, Message.byte, dateOfBytes, eq_comm]
  · simp [parseSetTime, Message.body, Message.hasLength, hl]

theorem parseOpen_iff (m : Message) (q : OpenRequest) :
    parseOpen m = some q ↔
      m.hasLength 10 ∧ q.handle = m.handle 2 ∧ q.domain = m.byte 5 ∧ (1 ≤ q.domain.toNat ∧ q.domain.toNat ≤ 15) ∧
      q.cls = m.byte 6 ∧ (1 ≤ q.cls.toNat ∧ q.cls.toNat ≤ 4) ∧ q.len = (m.byte 7).toNat ∧
      (q.len = 16 ∨ q.len = 24 ∨ q.len = 32) ∧ (m.byte 8).toNat ≤ 1 ∧ q.odd = decide (m.byte 8 = 1) ∧
      q.count = (m.byte 9).toNat ∧ (q.count = 2 ∨ q.count = 3) ∧ ¬ (q.len = 32 ∧ q.odd = true) := by
  obtain ⟨bytes, long⟩ := m
  obtain ⟨qh, qd, qc, qk, qo, qn⟩ := q
  by_cases hl : bytes.length = 10
  · match bytes, hl with
    | [a0, a1, a2, a3, a4, a5, a6, a7, a8, a9], _ =>
      cases long <;>
        simp [parseOpen, Message.body, Message.hasLength, Message.handle, Message.byte, keyLength, BitVec.toNat_eq]
      have : decide (a8 = 1) = decide (a8.toNat = 1) := by simp [BitVec.toNat_eq]
      grind
  · simp [parseOpen, Message.body, Message.hasLength, hl]

theorem parseComponent_iff (m : Message) (q : ComponentRequest) :
    parseComponent m = some q ↔
      (m.hasLength 21 ∨ m.hasLength 29 ∨ m.hasLength 37) ∧ q.index = (m.byte 2).toNat ∧ 1 ≤ q.index ∧ q.index ≤ 3 ∧
      q.word = (m.byte 3, m.byte 4) ∧ q.bytes = m.bytes.drop 5 := by
  obtain ⟨bytes, long⟩ := m
  obtain ⟨qi, qw, qb⟩ := q
  match bytes with
  | [] => simp [parseComponent, Message.hasLength]
  | [_] => simp [parseComponent, Message.hasLength]
  | [_, _] => simp [parseComponent, Message.hasLength]
  | [_, _, _] => simp [parseComponent, Message.hasLength]
  | [_, _, _, _] => simp [parseComponent, Message.hasLength]
  | a0 :: a1 :: a2 :: a3 :: a4 :: rest =>
    simp [parseComponent, Message.hasLength, Message.byte, keyLength]
    grind

theorem parseCommit_iff (m : Message) (q : CommitRequest) :
    parseCommit m = some q ↔
      m.hasLength 14 ∧ (m.byte 2).toNat < 8 ∧ q.kcw = (m.byte 3, m.byte 4) ∧
      q.activation = (if (m.byte 2).getLsbD 0 then some (m.date 5) else none) ∧
      q.expiry = (if (m.byte 2).getLsbD 1 then some (m.date 8) else none) ∧
      q.allowance = (if (m.byte 2).getLsbD 2 then some (m.three 11) else none) ∧ q.allowance ≠ some 0 := by
  obtain ⟨bytes, long⟩ := m
  obtain ⟨k, a, x, n⟩ := q
  by_cases hl : bytes.length = 14
  · match bytes, hl with
    | [a0, a1, a2, a3, a4, a5, a6, a7, a8, a9, a10, a11, a12, a13], _ =>
      cases long
      · simp [parseCommit, Message.body, Message.hasLength, Message.date, Message.three, Message.byte, dateOfBytes,
          numBE_three]
        grind
      · simp [parseCommit, Message.body, Message.hasLength]
  · simp [parseCommit, Message.body, Message.hasLength, hl]

/-- A record is its 62 bytes and its check word. -/
theorem record_eq_iff (b : List Byte) (w : Byte × Byte) (r : Vector Byte 64) (hb : b.length = 62) :
    Vector.ofFn (fun i : Fin 64 => (b ++ cwBytes w).getD i.val 0) = r ↔
      (∀ i : Fin 62, r[i.val] = b.getD i.val 0) ∧ (r[62], r[63]) = w := by
  rw [Vector.ext_iff]
  constructor
  · intro h
    refine ⟨fun i => ?_, ?_⟩
    · have := h i.val (by omega)
      rw [← this]
      simp [List.getElem?_append, hb]
    · have h2 := h 62 (by decide)
      have h3 := h 63 (by decide)
      simp [hb, cwBytes] at h2 h3
      simp [← h2, ← h3]
  · rintro ⟨h, rfl⟩ i hi
    by_cases hl : i < 62
    · have := h ⟨i, hl⟩
      simp at this
      simp [List.getElem?_append, hb, hl, this]
    · have : i = 62 ∨ i = 63 := by omega
      rcases this with rfl | rfl <;> simp [hb, cwBytes]

/-- The 31 bytes that are 00. -/
theorem zeros_iff (b : List Byte) (hb : b.length = 62) :
    ((b.drop 30).take 31).all (· == 0) = true ↔ ∀ i : Fin 64, 30 ≤ i.val → i.val ≤ 60 → b.getD i.val 0 = 0 := by
  rw [List.all_eq_true]
  constructor
  · intro h i h1 h2
    have := h (b.getD i.val 0) (List.mem_of_getElem? (i := i.val - 30) (by
      rw [List.getElem?_take, if_pos (by omega), List.getElem?_drop, show 30 + (i.val - 30) = i.val by omega,
        List.getElem?_eq_getElem (by omega), List.getD_eq_getElem?_getD, List.getElem?_eq_getElem (by omega)]
      rfl))
    simpa using this
  · intro h x hx
    obtain ⟨k, hk, rfl⟩ := List.getElem_of_mem hx
    simp at hk
    have := h ⟨30 + k, by omega⟩ (by simp) (by simp; omega)
    simp [List.getElem?_eq_getElem (show 30 + k < b.length by omega)] at this
    simpa using this

/-- The identity bytes. -/
theorem identity_iff (fuses : Vector Byte 64) (b : List Byte) (hb : b.length = 62) :
    (b.drop 19).take 11 = slice fuses 19 11 ↔
      ∀ i : Fin 64, 19 ≤ i.val → i.val ≤ 29 → b.getD i.val 0 = fuses[i] := by
  have key : ∀ k, k < 11 → (List.take 11 (List.drop 19 b))[k]? = some (b.getD (19 + k) 0) ∧
      (slice fuses 19 11)[k]? = fuses[19 + k]? := by
    intro k hk
    rw [List.getElem?_take, if_pos (by omega), List.getElem?_drop, List.getD_eq_getElem?_getD,
      List.getElem?_eq_getElem (show 19 + k < b.length by omega)]
    simp [slice, hk]
  constructor
  · intro e i h1 h2
    have hk := key (i.val - 19) (by omega)
    rw [e, hk.2, show 19 + (i.val - 19) = i.val by omega] at hk
    have := hk.1
    simp at this ⊢
    exact this.symm
  · intro h
    apply List.ext_getElem?
    intro k
    by_cases hk : k < 11
    · rw [(key k hk).1, (key k hk).2]
      have := h ⟨19 + k, by omega⟩ (by simp) (by simp; omega)
      simp at this ⊢
      simp [this, show 19 + k < 64 by omega]
    · rw [List.getElem?_eq_none (by simp; omega), List.getElem?_eq_none (by simp [slice]; omega)]

/-- The ranges of R182, with the identity bytes, the 31 bytes that are 00 and the marker (R183). -/
theorem recordInRange_iff (fuses r : Vector Byte 64) (b : List Byte) (hb : b.length = 62)
    (h : ∀ i : Fin 62, r[i.val] = b.getD i.val 0) :
    (recordInRange b = true ∧ (b.drop 19).take 11 = slice fuses 19 11) ↔
      (8 ≤ r[0].toNat ∧ r[0].toNat ≤ 0x77) ∧ (8 ≤ r[1].toNat ∧ r[1].toNat ≤ 0x77) ∧ r[2].toNat ≤ 15 ∧
      (r[3] = 1 ∨ r[3] = 2) ∧ (r[4] = 1 ∨ r[4] = 2) ∧ (r[5] = 1 ∨ r[5] = 2) ∧ r[6].toNat ≤ 31 ∧ 1 ≤ r[7].toNat ∧
      256 * r[8].toNat + r[9].toNat ≤ 1023 ∧ (1 ≤ r[10].toNat ∧ r[10].toNat ≤ 15) ∧
      60 ≤ 256 * r[11].toNat + r[12].toNat ∧ 1 ≤ r[14].toNat ∧
      (60 ≤ 256 * r[15].toNat + r[16].toNat ∧ 256 * r[15].toNat + r[16].toNat ≤ 3600) ∧
      (60 ≤ 256 * r[17].toNat + r[18].toNat ∧ 256 * r[17].toNat + r[18].toNat ≤ 7200) ∧
      (∀ i : Fin 64, 19 ≤ i.val → i.val ≤ 29 → r[i] = fuses[i]) ∧
      (∀ i : Fin 64, 30 ≤ i.val → i.val ≤ 60 → r[i] = 0) ∧ r[61] = 0x5A := by
  have g : ∀ k, (hk : k < 62) → b.getD k 0 = r[k] := fun k hk => (h ⟨k, hk⟩).symm
  have hi : (∀ i : Fin 64, 19 ≤ i.val → i.val ≤ 29 → b.getD i.val 0 = fuses[i]) ↔
      ∀ i : Fin 64, 19 ≤ i.val → i.val ≤ 29 → r[i] = fuses[i] :=
    forall_congr' fun i => forall_congr' fun _ => forall_congr' fun h2 => by rw [g i.val (by omega)]; rfl
  have hz : (∀ i : Fin 64, 30 ≤ i.val → i.val ≤ 60 → b.getD i.val 0 = 0) ↔
      ∀ i : Fin 64, 30 ≤ i.val → i.val ≤ 60 → r[i] = 0 :=
    forall_congr' fun i => forall_congr' fun _ => forall_congr' fun h2 => by rw [g i.val (by omega)]; rfl
  rw [recordInRange, identity_iff _ _ hb, hi]
  simp only [Bool.and_eq_true, zeros_iff b hb, hz]
  simp only [within, actionByte, Bool.and_eq_true, Bool.or_eq_true, decide_eq_true_eq, beq_iff_eq, Nat.reduceAdd,
    g 0 (by decide), g 1 (by decide), g 2 (by decide), g 3 (by decide), g 4 (by decide), g 5 (by decide),
    g 6 (by decide), g 7 (by decide), g 8 (by decide), g 9 (by decide), g 10 (by decide), g 11 (by decide),
    g 12 (by decide), g 14 (by decide), g 15 (by decide), g 16 (by decide), g 17 (by decide), g 18 (by decide),
    g 61 (by decide)]
  have b2 := r[2].isLt
  have b7 := r[7].isLt
  have b11 := r[11].isLt
  have b12 := r[12].isLt
  have b14 := r[14].isLt
  constructor
  · rintro ⟨⟨⟨⟨⟨⟨⟨⟨⟨⟨⟨⟨⟨⟨⟨⟨c0, c1⟩, c2⟩, c3⟩, c4⟩, c5⟩, c6⟩, c7⟩, c8⟩, c10⟩, c11⟩, c14⟩, c15⟩, c17⟩, cz⟩, cm⟩, ci⟩
    exact ⟨c0, c1, c2.2, c3, c4, c5, c6.2, c7.1, by omega, c10, by omega, c14.1, by omega, by omega, ci, cz, cm⟩
  · rintro ⟨c0, c1, c2, c3, c4, c5, c6, c7, c8, c10, c11, c14, c15, c17, ci, cz, cm⟩
    exact ⟨⟨⟨⟨⟨⟨⟨⟨⟨⟨⟨⟨⟨⟨⟨⟨c0, c1⟩, by omega⟩, c3⟩, c4⟩, c5⟩, by omega⟩, by omega⟩, by omega⟩, c10⟩, by omega⟩,
      by omega⟩, by omega⟩, by omega⟩, cz⟩, cm⟩, ci⟩

theorem parseCommission_iff (fuses : Vector Byte 64) (m : Message) (r : Vector Byte 64) :
    parseCommission fuses m = some r ↔
      m.hasLength 64 ∧ (∀ i : Fin 62, r[i.val] = m.byte (i.val + 2)) ∧ (r[62], r[63]) = checkWord (m.bytes.drop 2) ∧
      (8 ≤ r[0].toNat ∧ r[0].toNat ≤ 0x77) ∧ (8 ≤ r[1].toNat ∧ r[1].toNat ≤ 0x77) ∧ r[2].toNat ≤ 15 ∧
      (r[3] = 1 ∨ r[3] = 2) ∧ (r[4] = 1 ∨ r[4] = 2) ∧ (r[5] = 1 ∨ r[5] = 2) ∧ r[6].toNat ≤ 31 ∧ 1 ≤ r[7].toNat ∧
      256 * r[8].toNat + r[9].toNat ≤ 1023 ∧ (1 ≤ r[10].toNat ∧ r[10].toNat ≤ 15) ∧
      60 ≤ 256 * r[11].toNat + r[12].toNat ∧ 1 ≤ r[14].toNat ∧
      (60 ≤ 256 * r[15].toNat + r[16].toNat ∧ 256 * r[15].toNat + r[16].toNat ≤ 3600) ∧
      (60 ≤ 256 * r[17].toNat + r[18].toNat ∧ 256 * r[17].toNat + r[18].toNat ≤ 7200) ∧
      (∀ i : Fin 64, 19 ≤ i.val → i.val ≤ 29 → r[i] = fuses[i]) ∧
      (∀ i : Fin 64, 30 ≤ i.val → i.val ≤ 60 → r[i] = 0) ∧ r[61] = 0x5A := by
  by_cases hl : m.hasLength 64
  · have hb : (m.bytes.drop 2).length = 62 := by simp [hl.1]
    have hm : ∀ i, m.byte (i + 2) = (m.bytes.drop 2).getD i 0 := by
      intro i; simp [Message.byte, Nat.add_comm]
    have hbody : m.body 64 = some (m.bytes.drop 2) := by
      simp [Message.body, show m.bytes.length = 64 ∧ m.overlong = false from hl]
    simp only [parseCommission, hbody, hl, true_and, hm]
    generalize m.bytes.drop 2 = b at hb
    split
    · rename_i hr
      simp only [Option.some.injEq, record_eq_iff _ _ _ hb]
      exact ⟨fun h => ⟨h.1, h.2, (recordInRange_iff fuses r b hb h.1).mp hr⟩, fun h => ⟨h.1, h.2.1⟩⟩
    · rename_i hr
      simp only [false_iff, reduceCtorEq]
      exact fun h => hr ((recordInRange_iff fuses r b hb h.1).mpr h.2.2)
  · simp only [hl, false_and, iff_false]
    have : m.body 64 = none := by
      have := hl
      simp only [Message.hasLength] at this
      simp [Message.body, this]
    simp [parseCommission, this]

end Sys2Proof.Machine
end

