-- ==== Sys2Proof/Laws/Links.lean ====
section
/-! SUPPORT. What the shared operations of a link transaction do: an address, written bytes by where the write stands, and
the bytes of a read by its source (R185 to R190). -/

namespace Sys2Proof.Machine

/-! ## A port's link -/

theorem withLink_withLink (s : State) (p : Port) (f g : Link → Link) :
    (s.withLink p f).withLink p g = s.withLink p fun l => g (f l) := by
  cases p with
  | line l => simp [State.withLink, put_put]
  | cust => rfl

/-- A change that gives the port's link its own value changes nothing. -/
theorem withLink_id (s : State) (p : Port) (f : Link → Link) (h : f (s.link p) = s.link p) : s.withLink p f = s := by
  cases p with
  | line l => simp only [State.withLink, State.link] at h ⊢; rw [h, put_get_self]
  | cust => simp only [State.withLink, State.link] at h ⊢; rw [h]

/-- Two changes that agree on the port's link are one. -/
theorem withLink_congr (s : State) (p : Port) (f g : Link → Link) (h : f (s.link p) = g (s.link p)) :
    s.withLink p f = s.withLink p g := by
  cases p with
  | line l => simp only [State.withLink, State.link] at h ⊢; rw [h]
  | cust => simp only [State.withLink, State.link] at h ⊢; rw [h]

/-! ## What a port acknowledges does not depend on its link -/

@[simp] theorem acknowledges_withLink (s : State) (p q : Port) (addr : Address) (f : Link → Link) :
    (s.withLink p f).acknowledges q addr = s.acknowledges q addr := by cases p <;> rfl

theorem requestOpen_withLink (s : State) (p : Port) (f : Link → Link) (h : (f (s.link p)).requests = (s.link p).requests) :
    (s.withLink p f).requestOpen p = s.requestOpen p := by
  simp only [State.requestOpen, link_withLink, h]
  cases p <;> rfl

/-! ## The start of a transaction -/

theorem ended_of_ne (l : Link) (h : l.transfer ≠ .message) : l.ended = { l with transfer := .idle } := by
  unfold Link.ended; split
  · next e => exact absurd e h
  · rfl

/-- A start that finds no message being assembled. -/
theorem start_eq (s : State) (p : Port) (addr : Address) (x : Transfer) (h : (s.link p).transfer ≠ .message) :
    s.start p addr x = s.withLink p fun l => { l with
      transfer := if s.acknowledges p addr then x else .idle
      acks := [s.acknowledges p addr]
      sent := if s.acknowledges p addr && x == .opened then [] else l.sent } := by
  unfold State.start State.address
  simp only [acknowledges_withLink, withLink_withLink]
  refine withLink_congr _ _ _ _ ?_
  simp [Link.ended]

/-- A start that finds a message being assembled admits it and is then as any other (R185, R187). -/
theorem start_repeated (s : State) (p : Port) (addr : Address) (x : Transfer) (h : (s.link p).transfer = .message) :
    s.start p addr x = (s.withLink p fun l => { l.enqueue with transfer := .idle }).start p addr x := by
  unfold State.start State.address
  simp only [acknowledges_withLink, withLink_withLink]
  refine withLink_congr _ _ _ _ ?_
  simp [Link.ended, Link.enqueue, h]

/-! ## Written bytes -/

/-- Message bytes: the first 64 of the message are kept, and one beyond them marks it overlong (R187). -/
theorem writeBytes_message (s : State) (p : Port) (bytes : List Byte) (h : (s.link p).transfer = .message)
    (hn : (s.link p).assembly.length ≤ 64) :
    s.writeBytes p bytes = s.withLink p fun l => { l with
      assembly := (l.assembly ++ bytes).take 64
      overlong := l.overlong || decide (64 < (l.assembly ++ bytes).length)
      acks := l.acks ++ List.replicate bytes.length true } := by
  induction bytes generalizing s with
  | nil =>
    refine (withLink_id s p _ ?_).symm
    simp [List.take_of_length_le hn, Nat.not_lt.mpr hn]
  | cons b bytes ih =>
    have e : s.writeByte p b = s.withLink p fun l => l.store b := by unfold State.writeByte; rw [h]
    rw [State.writeBytes, List.foldl_cons, e, ← State.writeBytes]
    have hl := link_withLink s p fun l => l.store b
    by_cases hk : (s.link p).assembly.length < 64
    · rw [ih _ (by rw [hl]; simp [Link.store, hk, h]) (by rw [hl]; simp [Link.store, hk]),
        withLink_withLink]
      refine withLink_congr _ _ _ _ ?_
      simp [Link.store, hk, List.replicate_succ]
    · rw [ih _ (by rw [hl]; simp [Link.store, hk, h]) (by rw [hl]; simp [Link.store, hk]; exact hn), withLink_withLink]
      refine withLink_congr _ _ _ _ ?_
      have e64 : (s.link p).assembly.length = 64 := by omega
      simp [Link.store, List.replicate_succ, e64]

/-- Every byte of a write that refuses them is refused (R185, R186). -/
theorem writeBytes_refusing (s : State) (p : Port) (bytes : List Byte) (h : (s.link p).transfer = .refusing) :
    s.writeBytes p bytes = s.withLink p fun l => { l with acks := l.acks ++ List.replicate bytes.length false } := by
  induction bytes generalizing s with
  | nil => exact (withLink_id s p _ (by simp)).symm
  | cons b bytes ih =>
    have e : s.writeByte p b = s.withLink p Link.refuse := by unfold State.writeByte; rw [h]
    rw [State.writeBytes, List.foldl_cons, e, ← State.writeBytes, ih _ (by rw [link_withLink]; rfl), withLink_withLink]
    refine withLink_congr _ _ _ _ ?_
    simp [Link.refuse, List.replicate_succ, h]

/-- Where no write is in progress written bytes do not reach the port. -/
theorem writeBytes_none (s : State) (p : Port) (bytes : List Byte) (h : (s.link p).transfer.isWrite = false) :
    s.writeBytes p bytes = s := by
  have e : ∀ b, s.writeByte p b = s := by
    intro b; unfold State.writeByte
    cases k : (s.link p).transfer <;> simp_all [Transfer.isWrite]
  induction bytes with
  | nil => rfl
  | cons b bytes ih => rw [State.writeBytes, List.foldl_cons, e b]; exact ih

/-! ## Read bytes -/

/-- A read whose source has been judged goes on (R186). -/
theorem readBytes_judged (s : State) (p : Port) (n : Nat) (h : (s.link p).transfer ≠ .opened) (hn : 0 < n) :
    s.readBytes p n = s.clock p n := by
  unfold State.readBytes
  rw [if_neg (by omega), if_neg h]

/-- The first byte of a read judges its source (R186). -/
theorem readBytes_opened (s : State) (p : Port) (n : Nat) (h : (s.link p).transfer = .opened) (hn : 0 < n) :
    s.readBytes p n = (s.withLink p fun l => { l with transfer := s.source p }).clock p n := by
  unfold State.readBytes
  rw [if_neg (by omega), if_pos h]

theorem readBytes_zero (s : State) (p : Port) : s.readBytes p 0 = s := by
  unfold State.readBytes; rw [if_pos rfl]

theorem clock_fill (s : State) (p : Port) (n : Nat) (h : (s.link p).transfer = .fill) :
    s.clock p n = s.withLink p fun l => { l with sent := l.sent ++ List.replicate n 0xFF } := by
  unfold State.clock; rw [h]

theorem clock_record (s : State) (p : Port) (n : Nat) (left : List Byte) (h : (s.link p).transfer = .record left) :
    s.clock p n = s.withLink p fun l =>
      { l with sent := l.sent ++ clocked left n, transfer := .record (left.drop n) } := by
  unfold State.clock; rw [h]

theorem clock_completion (s : State) (p : Port) (n : Nat) (left : List Byte)
    (h : (s.link p).transfer = .completion left) : s.clock p n = s.clockCompletion p left n := by
  unfold State.clock; rw [h]

theorem clock_directory (s : State) (p : Port) (n : Nat) (left : List Byte)
    (h : (s.link p).transfer = .directory left) : s.clock p n = s.clockDirectory p left n := by
  unfold State.clock; rw [h]

/-- No read is in progress: no byte is clocked. -/
theorem clock_none (s : State) (p : Port) (n : Nat)
    (h : (s.link p).transfer = .idle ∨ (s.link p).transfer.isWrite = true) : s.clock p n = s := by
  unfold State.clock
  cases k : (s.link p).transfer <;> simp_all [Transfer.isWrite]

end Sys2Proof.Machine
end

