-- ==== Sys2Proof/Laws/PerInstr.lean ====
section
/-! SUPPORT. A family of statements, one per command: no word of the table spells it (98_reader.md: no row gives bits). -/

namespace Sys2Proof.Laws

/-- No table word decodes to the command. -/
def NoWord.Statement (i : Instr) : Prop := ∀ nbits w : Nat, decodeTableWord nbits w ≠ some i

theorem NoWord.requestAdmitted (port : Port) (addr : Address) (message : List Byte) (part : Part) :
    NoWord.Statement (.requestAdmitted port addr message part) := by
  intro _ _ h; cases h
theorem NoWord.windowSelect (port : Port) (addr : Address) (code : Option Byte) (reads : Nat) (written : List Byte)
    (part : Part) :
    NoWord.Statement (.windowSelect port addr code reads written part) := by
  intro _ _ h; cases h
theorem NoWord.directoryPointerWrite (port : Port) (addr : Address) (pointer : Byte) (extra : List Byte) :
    NoWord.Statement (.directoryPointerWrite port addr pointer extra) := by
  intro _ _ h; cases h
theorem NoWord.completionRead (port : Port) (addr : Address) (reads : Nat) (part : Part) :
    NoWord.Statement (.completionRead port addr reads part) := by
  intro _ _ h; cases h
theorem NoWord.directoryRead (port : Port) (addr : Address) (reads : Nat) (part : Part) :
    NoWord.Statement (.directoryRead port addr reads part) := by
  intro _ _ h; cases h
theorem NoWord.unknownRequestCode (port : Port) : NoWord.Statement (.unknownRequestCode port) := by
  intro _ _ h; cases h
theorem NoWord.openCeremony : NoWord.Statement (.openCeremony) := by
  intro _ _ h; cases h
theorem NoWord.component : NoWord.Statement (.component) := by
  intro _ _ h; cases h
theorem NoWord.commit : NoWord.Statement (.commit) := by
  intro _ _ h; cases h
theorem NoWord.abandon : NoWord.Statement (.abandon) := by
  intro _ _ h; cases h
theorem NoWord.switchDrop (switch : Switch) (samples : Samples) :
    NoWord.Statement (.switchDrop switch samples) := by
  intro _ _ h; cases h
theorem NoWord.switchPresent (switch : Switch) (samples : Samples) :
    NoWord.Statement (.switchPresent switch samples) := by
  intro _ _ h; cases h
theorem NoWord.ceremonyTimeout : NoWord.Statement (.ceremonyTimeout) := by
  intro _ _ h; cases h
theorem NoWord.allocate : NoWord.Statement (.allocate) := by
  intro _ _ h; cases h
theorem NoWord.hold : NoWord.Statement (.hold) := by
  intro _ _ h; cases h
theorem NoWord.unhold : NoWord.Statement (.unhold) := by
  intro _ _ h; cases h
theorem NoWord.retire : NoWord.Statement (.retire) := by
  intro _ _ h; cases h
theorem NoWord.reclaim : NoWord.Statement (.reclaim) := by
  intro _ _ h; cases h
theorem NoWord.openServiceWindow : NoWord.Statement (.openServiceWindow) := by
  intro _ _ h; cases h
theorem NoWord.closeServiceWindow : NoWord.Statement (.closeServiceWindow) := by
  intro _ _ h; cases h
theorem NoWord.serviceWindowExpiry : NoWord.Statement (.serviceWindowExpiry) := by
  intro _ _ h; cases h
theorem NoWord.setAlarmMask : NoWord.Statement (.setAlarmMask) := by
  intro _ _ h; cases h
theorem NoWord.clearAlarms : NoWord.Statement (.clearAlarms) := by
  intro _ _ h; cases h
theorem NoWord.clearNvFault : NoWord.Statement (.clearNvFault) := by
  intro _ _ h; cases h
theorem NoWord.clearResetFlags : NoWord.Statement (.clearResetFlags) := by
  intro _ _ h; cases h
theorem NoWord.zeroize : NoWord.Statement (.zeroize) := by
  intro _ _ h; cases h
theorem NoWord.rearm : NoWord.Statement (.rearm) := by
  intro _ _ h; cases h
theorem NoWord.setTime : NoWord.Statement (.setTime) := by
  intro _ _ h; cases h
theorem NoWord.commission : NoWord.Statement (.commission) := by
  intro _ _ h; cases h
theorem NoWord.commissionRestart (crystalRan : Bool) (drift : List (Nat × List Byte)) : NoWord.Statement (.commissionRestart crystalRan drift) := by
  intro _ _ h; cases h
theorem NoWord.bind (line : Line) : NoWord.Statement (.bind line) := by
  intro _ _ h; cases h
theorem NoWord.extend (line : Line) : NoWord.Statement (.extend line) := by
  intro _ _ h; cases h
theorem NoWord.release (line : Line) : NoWord.Statement (.release line) := by
  intro _ _ h; cases h
theorem NoWord.releaseAll (line : Line) : NoWord.Statement (.releaseAll line) := by
  intro _ _ h; cases h
theorem NoWord.clearBlocked (line : Line) : NoWord.Statement (.clearBlocked line) := by
  intro _ _ h; cases h
theorem NoWord.readSlotComplete (drift : List Byte) : NoWord.Statement (.readSlotComplete drift) := by
  intro _ _ h; cases h
theorem NoWord.frameSendStart (engine : Line) : NoWord.Statement (.frameSendStart engine) := by
  intro _ _ h; cases h
theorem NoWord.frameSent (engine : Line) : NoWord.Statement (.frameSent engine) := by
  intro _ _ h; cases h
theorem NoWord.accept (engine : Line) (reply : List Byte) : NoWord.Statement (.accept engine reply) := by
  intro _ _ h; cases h
theorem NoWord.refuse (engine : Line) (reply : List Byte) : NoWord.Statement (.refuse engine reply) := by
  intro _ _ h; cases h
theorem NoWord.done (engine : Line) (reply : List Byte) : NoWord.Statement (.done engine reply) := by
  intro _ _ h; cases h
theorem NoWord.replyTimeout (engine : Line) : NoWord.Statement (.replyTimeout engine) := by
  intro _ _ h; cases h
theorem NoWord.engineReadyFall (engine : Line) (samples : Samples) :
    NoWord.Statement (.engineReadyFall engine samples) := by
  intro _ _ h; cases h
theorem NoWord.engineReadyRise (engine : Line) (samples : Samples) :
    NoWord.Statement (.engineReadyRise engine samples) := by
  intro _ _ h; cases h
theorem NoWord.arrayOperationStart : NoWord.Statement (.arrayOperationStart) := by
  intro _ _ h; cases h
theorem NoWord.programRecordDone : NoWord.Statement (.programRecordDone) := by
  intro _ _ h; cases h
theorem NoWord.programFailed : NoWord.Statement (.programFailed) := by
  intro _ _ h; cases h
theorem NoWord.programMarkEnd (ok : Bool) : NoWord.Statement (.programMarkEnd ok) := by
  intro _ _ h; cases h
theorem NoWord.eraseComplete : NoWord.Statement (.eraseComplete) := by
  intro _ _ h; cases h
theorem NoWord.eraseFailed : NoWord.Statement (.eraseFailed) := by
  intro _ _ h; cases h
theorem NoWord.eraseSuspend (ran : Nat) : NoWord.Statement (.eraseSuspend ran) := by
  intro _ _ h; cases h
theorem NoWord.eraseSuspended : NoWord.Statement (.eraseSuspended) := by
  intro _ _ h; cases h
theorem NoWord.suspensionCap : NoWord.Statement (.suspensionCap) := by
  intro _ _ h; cases h
theorem NoWord.doorEvent (samples : Samples) : NoWord.Statement (.doorEvent samples) := by
  intro _ _ h; cases h
theorem NoWord.meshEvent (samples : Samples) : NoWord.Statement (.meshEvent samples) := by
  intro _ _ h; cases h
theorem NoWord.enclosureNormal (input : Enclosure) (samples : Samples) :
    NoWord.Statement (.enclosureNormal input samples) := by
  intro _ _ h; cases h
theorem NoWord.supplyHighEvent (samples : Samples) : NoWord.Statement (.supplyHighEvent samples) := by
  intro _ _ h; cases h
theorem NoWord.supplyNotHigh (samples : Samples) : NoWord.Statement (.supplyNotHigh samples) := by
  intro _ _ h; cases h
theorem NoWord.batteryLow (samples : Samples) : NoWord.Statement (.batteryLow samples) := by
  intro _ _ h; cases h
theorem NoWord.batteryNotLow (samples : Samples) : NoWord.Statement (.batteryNotLow samples) := by
  intro _ _ h; cases h
theorem NoWord.clockMeasurement (cycles : Nat) (ends : Bool) :
    NoWord.Statement (.clockMeasurement cycles ends) := by
  intro _ _ h; cases h
theorem NoWord.patternTestInterval : NoWord.Statement (.patternTestInterval) := by
  intro _ _ h; cases h
theorem NoWord.patternTestResult (drift : List Byte) : NoWord.Statement (.patternTestResult drift) := by
  intro _ _ h; cases h
theorem NoWord.calendarSecond : NoWord.Statement (.calendarSecond) := by
  intro _ _ h; cases h
theorem NoWord.brownout (samples : Samples) : NoWord.Statement (.brownout samples) := by
  intro _ _ h; cases h
theorem NoWord.mainPowerValid (samples : Samples) : NoWord.Statement (.mainPowerValid samples) := by
  intro _ _ h; cases h
theorem NoWord.warmResetOnset (samples : Samples) : NoWord.Statement (.warmResetOnset samples) := by
  intro _ _ h; cases h
theorem NoWord.resetRelease (crystalRan : Bool) (drift : List (Nat × List Byte)) (samples : Samples) :
    NoWord.Statement (.resetRelease crystalRan drift samples) := by
  intro _ _ h; cases h
theorem NoWord.crystalStarted (drift : List (Nat × List Byte)) : NoWord.Statement (.crystalStarted drift) := by
  intro _ _ h; cases h
theorem NoWord.crystalStartTimeout : NoWord.Statement (.crystalStartTimeout) := by
  intro _ _ h; cases h
theorem NoWord.startUpComplete : NoWord.Statement (.startUpComplete) := by
  intro _ _ h; cases h
theorem NoWord.retentionMarkerLost : NoWord.Statement (.retentionMarkerLost) := by
  intro _ _ h; cases h
theorem NoWord.commissionProgrammingEnd (ok : Bool) : NoWord.Statement (.commissionProgrammingEnd ok) := by
  intro _ _ h; cases h
theorem NoWord.disregardedReply (engine : Line) (reply : List Byte) : NoWord.Statement (.disregardedReply engine reply) := by
  intro _ _ h; cases h

end Sys2Proof.Laws
end

