-- ==== Sys2Proof/Laws/Power.lean ====
section
/-! SUPPORT. One lemma for what the start-up's offers can do (R96) and one for what a fuse programming that fails leaves
(R183), with the small lemmas of the programming order. -/

namespace Sys2Proof.Machine

/-! ## The offers of a start-up's CLEAR-ALL (R96, log 17) -/

/-- An offer to one transmitter changes nothing but its offer and its queue. -/
theorem offerClear_spec (s : State) (k : Line) :
    State.offerClear s k = { s with
      custody := { s.custody with offers := (State.offerClear s k).custody.offers }
      buses := (State.offerClear s k).buses } ∧
    ∀ e : Line,
      (State.offerClear s k).custody.offers[e] =
        (if e = k ∧ s.custody.offers[e] = .toMake ∧ s.buses[e].ready = true then .inFlight else s.custody.offers[e]) ∧
      (State.offerClear s k).buses[e] =
        (if e = k ∧ s.custody.offers[e] = .toMake ∧ s.buses[e].ready = true
          then { s.buses[e] with queue := s.buses[e].queue ++ [{ kind := .clearAll, stale := false }] }
          else s.buses[e]) := by
  by_cases h : s.buses[k].ready = true ∧ s.custody.offers[k] = .toMake
  · simp only [State.offerClear, if_pos h, State.queueFrame, State.withBus, State.withCustody, true_and]
    intro e
    by_cases he : e = k
    · subst he; simp only [put_get_same, h, and_self, if_true]
    · simp only [put_get_other _ _ _ _ (Ne.symm he), he, false_and, if_false, and_self]
  · simp only [State.offerClear, if_neg h, true_and]
    intro e
    by_cases he : e = k
    · subst he
      have : ¬ (s.custody.offers[e] = .toMake ∧ s.buses[e].ready = true) := fun g => h g.symm
      simp only [true_and, if_neg this, and_self]
    · simp only [he, false_and, if_false, and_self]

/-- Settling one transmitter's offer changes nothing but that offer. -/
theorem offerSettled_spec (s : State) (k : Line) :
    State.offerSettled s k = { s with custody := { s.custody with offers := (State.offerSettled s k).custody.offers } } ∧
    ∀ e : Line, (State.offerSettled s k).custody.offers[e] =
      if e = k ∧ s.custody.offers[e] = .toMake then .done else s.custody.offers[e] := by
  by_cases h : s.custody.offers[k] = .toMake
  · simp only [State.offerSettled, if_pos h, State.withCustody, true_and]
    intro e
    by_cases he : e = k
    · subst he; simp only [put_get_same, h, and_self, if_true]
    · simp only [put_get_other _ _ _ _ (Ne.symm he), he, false_and, if_false]
  · simp only [State.offerSettled, if_neg h, true_and]
    intro e
    by_cases he : e = k
    · subst he; simp only [h, and_false, if_false]
    · simp only [he, false_and, if_false]

/-- The offers to a list of transmitters. -/
theorem offersClear_spec (l : List Line) (s : State) :
    l.foldl State.offerClear s = { s with
      custody := { s.custody with offers := (l.foldl State.offerClear s).custody.offers }
      buses := (l.foldl State.offerClear s).buses } ∧
    ∀ e : Line,
      (l.foldl State.offerClear s).custody.offers[e] =
        (if e ∈ l ∧ s.custody.offers[e] = .toMake ∧ s.buses[e].ready = true then .inFlight else s.custody.offers[e]) ∧
      (l.foldl State.offerClear s).buses[e] =
        (if e ∈ l ∧ s.custody.offers[e] = .toMake ∧ s.buses[e].ready = true
          then { s.buses[e] with queue := s.buses[e].queue ++ [{ kind := .clearAll, stale := false }] }
          else s.buses[e]) := by
  induction l generalizing s with
  | nil => simp
  | cons k l ih =>
    obtain ⟨h1, h2⟩ := ih (State.offerClear s k)
    obtain ⟨g1, g2⟩ := offerClear_spec s k
    simp only [List.foldl_cons]
    refine ⟨by rw [h1, g1], fun e => ?_⟩
    rw [(h2 e).1, (h2 e).2, (g2 e).1, (g2 e).2]
    generalize s.buses[e] = x
    generalize s.custody.offers[e] = o
    by_cases hk : e = k <;> by_cases hl : e ∈ l <;> cases o <;> cases hx : x.ready <;> simp [hk, hl, hx]

/-- Settling the offers of a list of transmitters. -/
theorem offersSettled_spec (l : List Line) (s : State) :
    l.foldl State.offerSettled s = { s with
      custody := { s.custody with offers := (l.foldl State.offerSettled s).custody.offers } } ∧
    ∀ e : Line, (l.foldl State.offerSettled s).custody.offers[e] =
      if e ∈ l ∧ s.custody.offers[e] = .toMake then .done else s.custody.offers[e] := by
  induction l generalizing s with
  | nil => simp
  | cons k l ih =>
    obtain ⟨h1, h2⟩ := ih (State.offerSettled s k)
    obtain ⟨g1, g2⟩ := offerSettled_spec s k
    simp only [List.foldl_cons]
    refine ⟨by rw [h1, g1], fun e => ?_⟩
    rw [h2 e, g2 e]
    generalize s.custody.offers[e] = o
    by_cases hk : e = k <;> by_cases hl : e ∈ l <;> cases o <;> simp [hk, hl]

/-- Everything the offers can do: each offer to be made is in flight to a ready engine, its CLEAR-ALL queued, and done for
another; nothing else changes. -/
theorem makeOffers_spec (s : State) :
    s.makeOffers = { s with
      custody := { s.custody with offers := s.makeOffers.custody.offers }, buses := s.makeOffers.buses } ∧
    ∀ e : Line,
      s.makeOffers.custody.offers[e] = (if s.custody.offers[e] = .toMake
        then (if s.buses[e].ready then .inFlight else .done) else s.custody.offers[e]) ∧
      s.makeOffers.buses[e] = (if s.custody.offers[e] = .toMake ∧ s.buses[e].ready = true
        then { s.buses[e] with queue := s.buses[e].queue ++ [{ kind := .clearAll, stale := false }] }
        else s.buses[e]) := by
  have hf : ∀ e : Line, e ∈ four := by decide
  obtain ⟨h1, h2⟩ := offersClear_spec four s
  obtain ⟨g1, g2⟩ := offersSettled_spec four (four.foldl State.offerClear s)
  have hb : s.makeOffers.buses = (four.foldl State.offerClear s).buses := by rw [State.makeOffers, g1]
  refine ⟨?_, fun e => ?_⟩
  · rw [hb, State.makeOffers, g1, h1]
  · rw [hb, State.makeOffers, g2 e, (h2 e).1, (h2 e).2]
    generalize s.buses[e] = x
    generalize s.custody.offers[e] = o
    cases o <;> cases hx : x.ready <;> simp [hf, hx]

/-- After the offers every one is done exactly when none was in flight and none was made to a ready engine. -/
theorem makeOffers_done (s : State) : s.makeOffers.custody.offers.toList.all (· == .done) = true ↔
    ∀ e : Line, s.custody.offers[e] = .done ∨ (s.custody.offers[e] = .toMake ∧ s.buses[e].ready = false) := by
  have h : s.makeOffers.custody.offers.toList.all (· == .done) = true ↔
      ∀ e : Line, s.makeOffers.custody.offers[e] = .done := by
    generalize s.makeOffers.custody.offers = v
    simp [Fin.forall_iff]
  rw [h]
  refine forall_congr' fun e => ?_
  rw [((makeOffers_spec s).2 e).1]
  generalize s.buses[e] = x
  generalize s.custody.offers[e] = o
  cases o <;> cases x.ready <;> simp

/-! ## Fuse programming (R183) -/

/-- A free number below a bound. -/
theorem freeBelow_lt (d i bound : Nat) (h : 0 < bound) : freeBelow d i bound < bound := Nat.mod_lt _ h

theorem fuseAt_fuseRank (i : Fin 64) : fuseAt (fuseRank i.val) = i.val := by revert i; decide
theorem fuseRank_fuseAt (rank : Nat) (h : rank < 64) : fuseRank (fuseAt rank) = rank := by
  have : ∀ r : Fin 64, fuseRank (fuseAt r.val) = r.val := by decide
  exact this ⟨rank, h⟩
theorem fuseRank_lt (i : Fin 64) : fuseRank i.val < 64 := by revert i; decide
theorem fuseAt_lt (rank : Nat) (h : rank < 64) : fuseAt rank < 64 := by
  have : ∀ r : Fin 64, fuseAt r.val < 64 := by decide
  exact this ⟨rank, h⟩
/-- The marker is programmed last. -/
theorem fuseRank_marker (i : Fin 64) (h : i ≠ 61) : fuseRank i.val < fuseRank 61 := by revert i; decide

/-- Bits once programmed stay, and no bit beyond the target's is programmed. -/
theorem kept_bits (old target free : Byte) :
    old &&& ~~~ (old ||| (target &&& free)) = 0 ∧ (old ||| (target &&& free)) &&& ~~~ (old ||| target) = 0 := by
  constructor <;> apply BitVec.eq_of_getLsbD_eq <;> intro i hi <;> simp <;> grind

/-- Every byte the programming leaves is the old one, the whole target over it, or part of it. -/
theorem programFuses_cases (d rank : Nat) (old target : Vector Byte 64) (i : Fin 64) :
    (fuseRank i.val < rank → (programFuses d rank old target)[i] = old[i] ||| target[i]) ∧
    (rank < fuseRank i.val → (programFuses d rank old target)[i] = old[i]) ∧
    ∃ free : Byte, (programFuses d rank old target)[i] = old[i] ||| (target[i] &&& free) := by
  simp only [programFuses, Fin.getElem_fin, Vector.getElem_ofFn]
  refine ⟨fun h => by rw [if_pos h], fun h => by rw [if_neg (by omega), if_neg (by omega)], ?_⟩
  split
  · exact ⟨BitVec.allOnes 8, by rw [BitVec.and_allOnes]⟩
  · split
    · exact ⟨_, rfl⟩
    · exact ⟨0, by simp⟩

theorem failFuses_cases (d rank : Nat) (old target : Vector Byte 64) (i : Fin 64) :
    (fuseRank i.val < rank → (failFuses d rank old target)[i] = old[i] ||| target[i]) ∧
    (rank < fuseRank i.val → (failFuses d rank old target)[i] = old[i]) ∧
    (fuseRank i.val = rank → old[i] ≠ target[i] → (failFuses d rank old target)[i] ≠ target[i]) ∧
    ∃ free : Byte, (failFuses d rank old target)[i] = old[i] ||| (target[i] &&& free) := by
  obtain ⟨h1, h2, h3⟩ := programFuses_cases d rank old target i
  have e : (failFuses d rank old target)[i] = if fuseRank i.val = rank ∧ (programFuses d rank old target)[i] = target[i]
      then old[i] else (programFuses d rank old target)[i] := by
    simp [failFuses]
  rw [e]
  refine ⟨fun h => by rw [if_neg (by omega)]; exact h1 h, fun h => by rw [if_neg (by omega)]; exact h2 h,
    fun h hne => ?_, ?_⟩
  · split
    · exact hne
    · rename_i g; exact fun x => g ⟨h, x⟩
  · split
    · exact ⟨0, by simp⟩
    · exact h3

/-- The places before the first conflict have no bit in the way. -/
theorem fuseConflict_before (old target : Vector Byte 64) (i : Fin 64)
    (h : fuseRank i.val < fuseConflict old target) : old[i] &&& ~~~ target[i] = 0 := by
  have := List.not_of_lt_findIdx h
  have hr := fuseRank_lt i
  simpa [fuseAt_fuseRank] using this

/-- There is no conflict exactly when no programmed bit is one the target leaves unprogrammed. -/
theorem fuseConflict_eq_64 (old target : Vector Byte 64) :
    fuseConflict old target = 64 ↔ ∀ i : Fin 64, old[i] &&& ~~~ target[i] = 0 := by
  constructor
  · intro h i; exact fuseConflict_before old target i (by have := fuseRank_lt i; omega)
  · intro h
    have : fuseConflict old target = (List.range 64).length := by
      rw [fuseConflict, List.findIdx_eq_length]
      intro r hr
      simp at hr
      have := h ⟨fuseAt r, fuseAt_lt r hr⟩
      simp at this
      simp [this, fuseAt_lt r hr]
    simpa using this

/-- The places that can fail: those up to the conflict whose byte is not yet the target's. -/
theorem mem_fuseFailing (old target : Vector Byte 64) (i : Fin 64) :
    fuseRank i.val ∈ fuseFailing old target ↔ fuseRank i.val ≤ fuseConflict old target ∧ old[i] ≠ target[i] := by
  have hr := fuseRank_lt i
  simp [fuseFailing, hr, fuseAt_fuseRank]

theorem fuseFailing_place (old target : Vector Byte 64) (rank : Nat) (h : rank ∈ fuseFailing old target) :
    ∃ i : Fin 64, fuseRank i.val = rank := by
  have : rank < 64 := by simp [fuseFailing] at h; exact h.1
  exact ⟨⟨fuseAt rank, fuseAt_lt rank this⟩, fuseRank_fuseAt rank this⟩

/-- Without a conflict nothing can fail exactly when the target stands in the fuses already. -/
theorem fuseFailing_eq_nil (old target : Vector Byte 64) (h : fuseConflict old target = 64) :
    fuseFailing old target = [] ↔ old = target := by
  rw [List.eq_nil_iff_forall_not_mem]
  constructor
  · intro g
    apply Vector.ext
    intro i hi
    by_contra hne
    exact g _ ((mem_fuseFailing old target ⟨i, hi⟩).mpr ⟨by have := fuseRank_lt ⟨i, hi⟩; omega, hne⟩)
  · rintro rfl r hr
    obtain ⟨i, rfl⟩ := fuseFailing_place _ _ _ hr
    exact ((mem_fuseFailing old old i).mp hr).2 rfl

/-- What a failing programming leaves: bits once programmed stay, none is programmed beyond the target's, the failing byte
falls short, and the marker is reached only with every other byte whole. -/
theorem failFuses_spec (d rank : Nat) (old target : Vector Byte 64) (h : rank ∈ fuseFailing old target) :
    (∀ i : Fin 64, old[i] &&& ~~~ (failFuses d rank old target)[i] = 0 ∧
      (failFuses d rank old target)[i] &&& ~~~ (old[i] ||| target[i]) = 0) ∧
    failFuses d rank old target ≠ target ∧
    ((∃ i : Fin 64, i ≠ 61 ∧ (failFuses d rank old target)[i] ≠ target[i]) →
      (failFuses d rank old target)[61] = old[61]) := by
  obtain ⟨k, rfl⟩ := fuseFailing_place _ _ _ h
  obtain ⟨hc, hne⟩ := (mem_fuseFailing old target k).mp h
  refine ⟨fun i => ?_, fun e => ?_, fun ⟨i, hi, g⟩ => ?_⟩
  · obtain ⟨_, _, _, free, e⟩ := failFuses_cases d (fuseRank k.val) old target i
    rw [e]; exact kept_bits _ _ _
  · exact (failFuses_cases d (fuseRank k.val) old target k).2.2.1 rfl hne (by rw [e])
  · have hm := fuseRank_marker i hi
    have : fuseRank k.val ≤ fuseRank i.val := by
      by_contra hlt
      have e := (failFuses_cases d (fuseRank k.val) old target i).1 (by omega)
      have z := fuseConflict_before old target i (by omega)
      apply g
      rw [e]
      apply BitVec.eq_of_getLsbD_eq
      intro j hj
      have := congrArg (fun v => v.getLsbD j) z
      simp at this ⊢
      grind
    exact (failFuses_cases d (fuseRank k.val) old target 61).2.1 (by
      have : fuseRank (61 : Fin 64).val = fuseRank 61 := rfl
      omega)

end Sys2Proof.Machine
end

