-- ==== Sys2Proof/Laws/Undisturbed.lean ====
section
/-! SUPPORT. What most operations leave alone: the command queue, the present mode, the start-up's place, the record
state, the validity marker, resume mode, calendar and covers of retention, whether the directory is in use, its lost
flags, and the state of every slot that is not ACTIVE. One lemma per operation, for every proof about those fields. -/

namespace Sys2Proof.Machine

/-- t has these fields as s has them. -/
structure Undisturbed (s t : State) : Prop where
  pending : t.pending = s.pending
  present : t.custody.present = s.custody.present
  phase : t.custody.phase = s.custody.phase
  record : t.custody.record = s.custody.record
  marker : t.retention.marker = s.retention.marker
  resume : t.retention.resume = s.retention.resume
  calendar : t.retention.calendar = s.retention.calendar
  covers : t.retention.covers = s.retention.covers
  inUse : t.directory.inUse = s.directory.inUse
  lost : ∀ b : Bank, t.directory.banks[b].lost = s.directory.banks[b].lost
  states : ∀ n : SlotNo, t.directory.slots[n].state = s.directory.slots[n].state ∨ s.directory.slots[n].state = .active

namespace Undisturbed

theorem refl (s : State) : Undisturbed s s := ⟨rfl, rfl, rfl, rfl, rfl, rfl, rfl, rfl, rfl, fun _ => rfl, fun _ => .inl rfl⟩

theorem trans {s t u : State} (h : Undisturbed s t) (k : Undisturbed t u) : Undisturbed s u :=
  ⟨k.1.trans h.1, k.2.trans h.2, k.3.trans h.3, k.4.trans h.4, k.5.trans h.5, k.6.trans h.6, k.7.trans h.7,
    k.8.trans h.8, k.9.trans h.9, fun b => (k.10 b).trans (h.10 b), fun n => by
    rcases h.11 n with e | e
    · rcases k.11 n with e' | e'
      · exact .inl (e'.trans e)
      · exact .inr (e ▸ e')
    · exact .inr e⟩

/-- Through a fold whose every step is undisturbed. -/
theorem foldl {α : Type} (f : State → α → State) (hf : ∀ s a, Undisturbed s (f s a)) (l : List α) (s : State) :
    Undisturbed s (l.foldl f s) := by
  induction l generalizing s with
  | nil => exact refl s
  | cons a l ih => exact (hf s a).trans (ih _)

/-! ## Field updates -/

theorem withControl (s : State) (f : ArrayControl → ArrayControl) : Undisturbed s (s.withControl f) :=
  ⟨rfl, rfl, rfl, rfl, rfl, rfl, rfl, rfl, rfl, fun _ => rfl, fun _ => .inl rfl⟩
theorem withCeremony (s : State) (f : Ceremony → Ceremony) : Undisturbed s (s.withCeremony f) :=
  ⟨rfl, rfl, rfl, rfl, rfl, rfl, rfl, rfl, rfl, fun _ => rfl, fun _ => .inl rfl⟩
theorem withMonitor (s : State) (f : Monitor → Monitor) : Undisturbed s (s.withMonitor f) :=
  ⟨rfl, rfl, rfl, rfl, rfl, rfl, rfl, rfl, rfl, fun _ => rfl, fun _ => .inl rfl⟩
theorem withArray (s : State) (f : KeyArray → KeyArray) : Undisturbed s (s.withArray f) :=
  ⟨rfl, rfl, rfl, rfl, rfl, rfl, rfl, rfl, rfl, fun _ => rfl, fun _ => .inl rfl⟩
theorem withBus (s : State) (e : Line) (f : Transmitter → Transmitter) : Undisturbed s (s.withBus e f) :=
  ⟨rfl, rfl, rfl, rfl, rfl, rfl, rfl, rfl, rfl, fun _ => rfl, fun _ => .inl rfl⟩
/-- A change of a slot's directory entry that keeps its state or finds it ACTIVE. -/
theorem withSlot (s : State) (n : SlotNo) (f : SlotDir → SlotDir) (hf : ∀ d, (f d).state = d.state ∨ d.state = .active) :
    Undisturbed s (s.withSlot n f) := by
  refine ⟨rfl, rfl, rfl, rfl, rfl, rfl, rfl, rfl, rfl, fun _ => rfl, fun m => ?_⟩
  simp only [State.withSlot, put_get]
  split
  · next h => subst h; exact hf _
  · exact .inl rfl
theorem withSlotRet (s : State) (n : SlotNo) (f : SlotRetention → SlotRetention) : Undisturbed s (s.withSlotRet n f) :=
  ⟨rfl, rfl, rfl, rfl, rfl, rfl, rfl, rfl, rfl, fun _ => rfl, fun _ => .inl rfl⟩
theorem withLink (s : State) (p : Port) (f : Link → Link) : Undisturbed s (s.withLink p f) := by
  cases p <;> exact ⟨rfl, rfl, rfl, rfl, rfl, rfl, rfl, rfl, rfl, fun _ => rfl, fun _ => .inl rfl⟩
theorem setProgress (s : State) (l : Line) (x : Option LineProgress) : Undisturbed s (s.setProgress l x) :=
  ⟨rfl, rfl, rfl, rfl, rfl, rfl, rfl, rfl, rfl, fun _ => rfl, fun _ => .inl rfl⟩
theorem setPos (s : State) (e : Line) (p : Pos) (x : Position) : Undisturbed s (s.setPos e p x) :=
  ⟨rfl, rfl, rfl, rfl, rfl, rfl, rfl, rfl, rfl, fun _ => rfl, fun _ => .inl rfl⟩
theorem nextDraw (s : State) : Undisturbed s s.nextDraw := ⟨rfl, rfl, rfl, rfl, rfl, rfl, rfl, rfl, rfl, fun _ => rfl, fun _ => .inl rfl⟩
theorem withCustProgress (s : State) (x : Option CustProgress) : Undisturbed s { s with custProgress := x } :=
  ⟨rfl, rfl, rfl, rfl, rfl, rfl, rfl, rfl, rfl, fun _ => rfl, fun _ => .inl rfl⟩
theorem withAllocations (s : State) (x : Vector Allocation 4) : Undisturbed s { s with allocations := x } :=
  ⟨rfl, rfl, rfl, rfl, rfl, rfl, rfl, rfl, rfl, fun _ => rfl, fun _ => .inl rfl⟩
theorem withPositions (s : State) (x : Vector (Vector Position 4) 4) : Undisturbed s { s with positions := x } :=
  ⟨rfl, rfl, rfl, rfl, rfl, rfl, rfl, rfl, rfl, fun _ => rfl, fun _ => .inl rfl⟩
theorem withBuses (s : State) (x : Vector Transmitter 4) : Undisturbed s { s with buses := x } :=
  ⟨rfl, rfl, rfl, rfl, rfl, rfl, rfl, rfl, rfl, fun _ => rfl, fun _ => .inl rfl⟩

/-- A change of Custody Control that keeps mode, phase and record state. -/
theorem withCustody (s : State) (f : Custody → Custody) (h : (f s.custody).present = s.custody.present ∧
    (f s.custody).phase = s.custody.phase ∧ (f s.custody).record = s.custody.record) :
    Undisturbed s (s.withCustody f) :=
  ⟨rfl, h.1, h.2.1, h.2.2, rfl, rfl, rfl, rfl, rfl, fun _ => rfl, fun _ => .inl rfl⟩

/-- A change of a bank's directory entry that keeps its lost flag. -/
theorem withBank (s : State) (b : Bank) (f : BankDir → BankDir) (hf : ∀ d, (f d).lost = d.lost) :
    Undisturbed s (s.withBank b f) := by
  refine ⟨rfl, rfl, rfl, rfl, rfl, rfl, rfl, rfl, rfl, fun c => ?_, fun _ => .inl rfl⟩
  simp only [State.withBank, put_get]
  split
  · next h => rw [hf, h]
  · rfl

/-- A change of retention that keeps marker, resume mode, calendar and covers. -/
theorem withRetention (s : State) (f : Retention → Retention) (h : (f s.retention).marker = s.retention.marker ∧
    (f s.retention).resume = s.retention.resume ∧ (f s.retention).calendar = s.retention.calendar ∧
    (f s.retention).covers = s.retention.covers) : Undisturbed s (s.withRetention f) :=
  ⟨rfl, rfl, rfl, rfl, h.1, h.2.1, h.2.2.1, h.2.2.2, rfl, fun _ => rfl, fun _ => .inl rfl⟩

/-! ## Shared operations -/

theorem popRequest (s : State) (p : Port) : Undisturbed s (s.popRequest p) := withLink _ _ _
theorem pushCompletion (s : State) (p : Port) (c : Completion) : Undisturbed s (s.pushCompletion p c) := withLink _ _ _
theorem finishLine (s : State) (l : Line) (t c : Byte) (oc : OutcomeCode) (d : List Byte) :
    Undisturbed s (s.finishLine l t c oc d) := (pushCompletion _ _ _).trans (setProgress _ _ _)
theorem finishCust (s : State) (t c : Byte) (oc : OutcomeCode) (d : List Byte) :
    Undisturbed s (s.finishCust t c oc d) := (pushCompletion _ _ _).trans (withCustProgress _ _)
theorem takeGrant (s : State) (n : SlotNo) (g : Nat) : Undisturbed s (s.takeGrant n g) := by
  unfold State.takeGrant; split
  · exact withSlotRet _ _ _
  · exact refl _
theorem charge (s : State) (n : SlotNo) (g : Nat) : Undisturbed s (s.charge n g) := withSlotRet _ _ _
theorem giveBack (s : State) (n : SlotNo) (g : Nat) : Undisturbed s (s.giveBack n g) := by
  unfold State.giveBack; split
  · exact withSlotRet _ _ _
  · exact refl _
theorem settle (s : State) (b : Binding) (u : Nat) : Undisturbed s (s.settle b u) :=
  (charge _ _ _).trans (giveBack _ _ _)
theorem chargePosition (s : State) (x : Position) : Undisturbed s (s.chargePosition x) := by
  unfold State.chargePosition; split
  · exact charge _ _ _
  · exact refl _
theorem endTable (s : State) : Undisturbed s s.endTable :=
  (foldl _ chargePosition _ _).trans (withPositions _ _)
theorem queueFrame (s : State) (e : Line) (k : FrameKind) : Undisturbed s (s.queueFrame e k) := withBus _ _ _
theorem endCeremony (s : State) : Undisturbed s s.endCeremony := by
  unfold State.endCeremony; split
  · exact refl _
  · refine (withBank _ _ _ ?_).trans (withCeremony _ _)
    exact fun _ => rfl
theorem reportAbandoned (s : State) (c : Cause) (o : OpenRecord) : Undisturbed s (s.reportAbandoned c o) := by
  unfold State.reportAbandoned; split
  · exact pushCompletion _ _ _
  · exact withCeremony _ _
theorem abandonFor (s : State) (c : Cause) : Undisturbed s (s.abandonFor c) := by
  unfold State.abandonFor; split
  · exact refl _
  · split
    · exact refl _
    · exact (endCeremony _).trans (reportAbandoned _ _ _)
theorem finishCommit (s : State) (oc : OutcomeCode) (d : List Byte) : Undisturbed s (s.finishCommit oc d) := by
  unfold State.finishCommit; split
  · exact finishCust _ _ _ _ _
  · exact refl _
theorem markEnd (s : State) (n : SlotNo) : Undisturbed s (s.markEnd n) := by
  have h : ∀ d : SlotDir, (if d.state = .active then SlotState.retired else d.state) = d.state ∨ d.state = .active := by
    intro d; split
    · next e => exact .inr e
    · exact .inl rfl
  simp only [State.markEnd]; split
  · exact (withSlot _ _ _ h).trans (withSlotRet _ _ _)
  · exact withSlot _ _ _ h
theorem submitErase (s : State) (b : Bank) : Undisturbed s (s.submitErase b) := by
  refine (withControl s _).trans (withBank _ _ _ ?_)
  exact fun _ => rfl
theorem submitMark (s : State) (t : Byte) (h : Handle) (n : SlotNo) (r : Nat) :
    Undisturbed s (s.submitMark t h n r) := by
  unfold State.submitMark; split
  · exact (markEnd _ _).trans (finishCust _ _ _ _ _)
  · exact (withControl _ _).trans (finishCust _ _ _ _ _)
theorem adminEmptied (s : State) : Undisturbed s s.adminEmptied := by
  unfold State.adminEmptied; split
  · exact submitMark _ _ _ _ _
  · split
    · exact finishCust _ _ _ _ _
    · exact (submitErase _ _).trans (finishCust _ _ _ _ _)
  · exact refl _
theorem latch (s : State) (a : Alarm) : Undisturbed s (s.latch a) := by
  unfold State.latch; split
  · exact withRetention _ _ ⟨rfl, rfl, rfl, rfl⟩
  · exact refl _
theorem refuseProgram (s : State) : Undisturbed s s.refuseProgram := by
  unfold State.refuseProgram; split
  · exact refl _
  · exact ((withControl _ _).trans (endCeremony _)).trans (finishCommit _ _ _)
theorem refuseAdmin (s : State) : Undisturbed s s.refuseAdmin := by
  unfold State.refuseAdmin; split
  · exact refl _
  · exact ((withControl _ _).trans (markEnd _ _)).trans (adminEmptied _)
  · refine ((withControl s _).trans (withBank _ _ _ ?_)).trans (adminEmptied _)
    exact fun _ => rfl
theorem setFault (s : State) : Undisturbed s s.setFault :=
  (((withControl _ _).trans (latch _ _)).trans (refuseProgram _)).trans (refuseAdmin _)
theorem withRecord (s : State) (n : SlotNo) (f : SlotRecord → SlotRecord) : Undisturbed s (s.withRecord n f) :=
  withArray _ _
theorem leaveFailedProgram (s : State) (r : ProgramRequest) : Undisturbed s (s.leaveFailedProgram r) :=
  (withRecord _ _ _).trans (nextDraw _)
theorem leaveStoppedProgram (s : State) (r : ProgramRequest) : Undisturbed s (s.leaveStoppedProgram r) :=
  (withRecord _ _ _).trans (nextDraw _)
theorem leaveFailedMark (s : State) (n : SlotNo) : Undisturbed s (s.leaveFailedMark n) :=
  (withRecord _ _ _).trans (nextDraw _)
theorem leaveStoppedMark (s : State) (n : SlotNo) : Undisturbed s (s.leaveStoppedMark n) :=
  (withRecord _ _ _).trans (nextDraw _)
theorem markBank (s : State) (b : Bank) (on : Bool) : Undisturbed s (s.markBank b on) := withArray _ _
theorem leaveStoppedErase (s : State) (b : Bank) : Undisturbed s (s.leaveStoppedErase b) := by
  simp only [State.leaveStoppedErase]; split
  · exact (markBank _ _ _).trans (nextDraw _)
  · exact ((markBank _ _ _).trans (withArray _ _)).trans (nextDraw _)
theorem leaveStopped (s : State) : Undisturbed s s.leaveStopped := by
  simp only [State.leaveStopped]
  have h : Undisturbed s (match s.control.exec with
      | some (.programRecord r) => s.leaveStoppedProgram r
      | some (.programMark n) => s.leaveStoppedMark n
      | some (.erase b _) => s.leaveStoppedErase b
      | some (.readSlot ..) => s
      | some (.readReference _) => s
      | none => s) := by
    split
    · exact leaveStoppedProgram _ _
    · exact leaveStoppedMark _ _
    · exact leaveStoppedErase _ _
    · exact refl _
    · exact refl _
    · exact refl _
  split
  · exact h.trans (leaveStoppedErase _ _)
  · exact h
theorem incomplete (s : State) (b : Bank) : Undisturbed s (s.incomplete b) := by
  refine withBank _ _ _ ?_
  exact fun _ => rfl
theorem abortArray (s : State) : Undisturbed s s.abortArray := by
  simp only [State.abortArray]
  refine Undisturbed.trans ?_ (withControl _ _)
  exact (leaveStopped s).trans (foldl _ incomplete _ _)
theorem zeroizeLine (s : State) (l : Line) : Undisturbed s (s.zeroizeLine l) := by
  unfold State.zeroizeLine; split
  · exact finishLine _ _ _ _ _ _
  · exact refl _
theorem zeroizeCeremony (s : State) : Undisturbed s s.zeroizeCeremony := by
  unfold State.zeroizeCeremony; split
  · exact refl _
  · split
    · exact (endCeremony _).trans (finishCommit _ _ _)
    · exact abandonFor _ _
theorem zeroizeCust (s : State) : Undisturbed s s.zeroizeCust := by
  unfold State.zeroizeCust; split
  · exact finishCust _ _ _ _ _
  · exact finishCust _ _ _ _ _
  · exact refl _
theorem nextOwed (s : State) : Undisturbed s s.nextOwed := by
  unfold State.nextOwed; split
  · split
    · refine (withControl s _).trans (withBank _ _ _ ?_)
      exact fun _ => rfl
    · exact refl _
  · exact refl _
theorem latchSource (s : State) (src : Source) : Undisturbed s (s.latchSource src) := by
  unfold State.latchSource; split
  · exact latch _ _
  · exact refl _
theorem recordEvent (s : State) (src : Source) (oc : EventOutcome) : Undisturbed s (s.recordEvent src oc) :=
  withRetention _ _ ⟨rfl, rfl, rfl, rfl⟩
theorem recordZeroization (s : State) (src : Source) (p : Place) : Undisturbed s (s.recordZeroization src p) :=
  withRetention _ _ ⟨rfl, rfl, rfl, rfl⟩
theorem sweep (s : State) : Undisturbed s s.sweep := by
  unfold State.sweep State.withDirectory
  refine ⟨rfl, rfl, rfl, rfl, rfl, rfl, rfl, rfl, rfl, fun _ => rfl, fun n => .inl ?_⟩
  simp only [mapTable_get]
  split <;> rfl

/-! ## Takes -/

/-- A line take whose own handling is undisturbed. -/
theorem takeLine {α : Type} (s : State) (l : Line) (code : Byte) (parse : Message → Option α)
    (act : Byte → α → State → State) (h : ∀ t q u, Undisturbed u (act t q u)) :
    Undisturbed s (s.takeLine l code parse act) := by
  unfold State.takeLine; split
  · exact refl _
  · split
    · simp only
      split
      · split
        · exact (popRequest _ _).trans (finishLine _ _ _ _ _ _)
        · exact (popRequest _ _).trans (h _ _ _)
      · exact (popRequest _ _).trans (finishLine _ _ _ _ _ _)
    · exact refl _

/-- A custodian take whose own handling is undisturbed. -/
theorem takeCust {α : Type} (s : State) (code : Byte) (gate : Mode → Option OutcomeCode) (need : SwitchNeed)
    (parse : Message → Option α) (act : Byte → α → State → State) (h : ∀ t q u, Undisturbed u (act t q u)) :
    Undisturbed s (s.takeCust code gate need parse act) := by
  have hp : ∀ m : Message, Undisturbed s { s.popRequest .cust with custProgress := some (.taking m.tag) } :=
    fun m => (popRequest s .cust).trans (withCustProgress _ _)
  unfold State.takeCust; split
  · exact refl _
  · split
    · simp only
      split
      · exact (hp _).trans (finishCust _ _ _ _ _)
      · split
        · exact (hp _).trans (finishCust _ _ _ _ _)
        · split
          · exact (hp _).trans (h _ _ _)
          · exact (hp _).trans (finishCust _ _ _ _ _)
    · exact refl _

/-! ## Handlings of the requests -/

theorem restartInactivity (s : State) : Undisturbed s s.restartInactivity := withCeremony _ _
theorem withOpen (s : State) (f : OpenRecord → OpenRecord) : Undisturbed s (s.withOpen f) := withCeremony _ _
theorem takeOpen (t : Byte) (q : OpenRequest) (s : State) : Undisturbed s (takeOpen t q s) := by
  unfold Machine.takeOpen; split
  · exact (restartInactivity _).trans (finishCust _ _ _ _ _)
  · split
    · exact finishCust _ _ _ _ _
    · split
      · exact finishCust _ _ _ _ _
      · split
        · exact finishCust _ _ _ _ _
        · refine Undisturbed.trans ?_ (finishCust _ _ _ _ _)
          unfold State.openOn
          refine (withBank s _ _ ?_).trans (withCeremony _ _)
          exact fun _ => rfl
theorem takeComponent (t : Byte) (q : ComponentRequest) (s : State) : Undisturbed s (takeComponent t q s) := by
  unfold Machine.takeComponent; split
  · exact finishCust _ _ _ _ _
  · simp only
    split
    · exact finishCust _ _ _ _ _
    · refine (restartInactivity s).trans ?_
      split
      · exact finishCust _ _ _ _ _
      · split
        · exact finishCust _ _ _ _ _
        · split
          · exact ((withOpen _ _).trans (withCeremony _ _)).trans (finishCust _ _ _ _ _)
          · split
            · exact (withOpen _ _).trans (finishCust _ _ _ _ _)
            · exact (endCeremony _).trans (finishCust _ _ _ _ _)
theorem commitKey (s : State) (t : Byte) (o : OpenRecord) (q : CommitRequest) : Undisturbed s (s.commitKey t o q) := by
  simp only [State.commitKey]; split
  · exact ((withCeremony s _).trans (restartInactivity _)).trans (finishCust _ _ _ _ _)
  · split
    · exact ((withCeremony s _).trans (endCeremony _)).trans (finishCust _ _ _ _ _)
    · exact (((withCeremony s _).trans (withOpen _ _)).trans (withControl _ _)).trans (withCustProgress _ _)
theorem takeCommit (t : Byte) (q : CommitRequest) (s : State) : Undisturbed s (takeCommit t q s) := by
  unfold Machine.takeCommit; split
  · exact finishCust _ _ _ _ _
  · simp only
    split
    · exact finishCust _ _ _ _ _
    · split
      · exact (restartInactivity _).trans (finishCust _ _ _ _ _)
      · split
        · exact (restartInactivity _).trans (finishCust _ _ _ _ _)
        · split
          · exact (restartInactivity _).trans (finishCust _ _ _ _ _)
          · exact commitKey _ _ _ _
theorem takeAbandon (t : Byte) (q : Unit) (s : State) : Undisturbed s (takeAbandon t q s) := by
  unfold Machine.takeAbandon; split
  · exact finishCust _ _ _ _ _
  · split
    · exact finishCust _ _ _ _ _
    · exact (endCeremony _).trans (finishCust _ _ _ _ _)
theorem takeAllocate (t : Byte) (q : Line × Byte × Byte) (s : State) : Undisturbed s (takeAllocate t q s) := by
  simp only [Machine.takeAllocate]; split
  · exact finishCust _ _ _ _ _
  · exact (withAllocations _ _).trans (finishCust _ _ _ _ _)
theorem takeHold (code : Byte) (on : Bool) (t : Byte) (h : Handle) (s : State) :
    Undisturbed s (takeHold code on t h s) := by
  unfold Machine.takeHold; split
  · exact finishCust _ _ _ _ _
  · split
    · exact finishCust _ _ _ _ _
    · exact finishCust _ _ _ _ _
    all_goals exact (withSlotRet _ _ _).trans (finishCust _ _ _ _ _)
theorem recallAt (n : SlotNo) (s : State) (ep : Line × Pos) : Undisturbed s (State.recallAt n s ep) := by
  unfold State.recallAt; split
  · split
    · exact (queueFrame _ _ _).trans (setPos _ _ _ _)
    · exact (queueFrame _ _ _).trans (setPos _ _ _ _)
    · exact refl _
  · exact refl _
theorem recallAll (s : State) (n : SlotNo) : Undisturbed s (s.recall n) := foldl _ (recallAt n) _ _
theorem takeRetire (t : Byte) (q : Handle × Bool) (s : State) : Undisturbed s (takeRetire t q s) := by
  simp only [Machine.takeRetire]; split
  · exact finishCust _ _ _ _ _
  · split
    · exact finishCust _ _ _ _ _
    · have pend : ∀ n : SlotNo, Undisturbed s (s.withSlot n fun d => { d with retirePending := true }) := by
        intro n; refine withSlot _ _ _ ?_; exact fun _ => .inl rfl
      have tail : ∀ (u : State) (n : SlotNo) (r : Nat), Undisturbed s u →
          Undisturbed s (if u.control.adminWait = none then u.submitMark t q.1 n r
            else { u with custProgress := some (.retire t q.1 n r) }) := by
        intro u n r h
        split
        · exact h.trans (submitMark _ _ _ _ _)
        · exact h.trans (withCustProgress _ _)
      split
      · exact tail _ _ _ ((pend _).trans (recallAll _ _))
      · exact tail _ _ _ (pend _)
theorem takeReclaim (t : Byte) (b : Bank) (s : State) : Undisturbed s (takeReclaim t b s) := by
  unfold Machine.takeReclaim; split
  · exact finishCust _ _ _ _ _
  · simp only
    split
    · exact (submitErase _ _).trans (finishCust _ _ _ _ _)
    · exact withCustProgress _ _
theorem takeOpenWindow (t : Byte) (q : Unit) (s : State) : Undisturbed s (takeOpenWindow t q s) :=
  (withMonitor _ _).trans (finishCust _ _ _ _ _)
theorem takeSetMask (t : Byte) (q : Byte) (s : State) : Undisturbed s (takeSetMask t q s) :=
  (withRetention s _ ⟨rfl, rfl, rfl, rfl⟩).trans (finishCust _ _ _ _ _)
theorem takeClearAlarms (t : Byte) (q : Byte) (s : State) : Undisturbed s (takeClearAlarms t q s) :=
  (withRetention s _ ⟨rfl, rfl, rfl, rfl⟩).trans (finishCust _ _ _ _ _)
theorem takeClearFault (t : Byte) (q : Unit) (s : State) : Undisturbed s (takeClearFault t q s) :=
  (withControl _ _).trans (finishCust _ _ _ _ _)
theorem takeClearReset (t : Byte) (q : Unit) (s : State) : Undisturbed s (takeClearReset t q s) :=
  (withRetention s _ ⟨rfl, rfl, rfl, rfl⟩).trans (finishCust _ _ _ _ _)
theorem takeCommission (t : Byte) (q : Vector Byte 64) (s : State) : Undisturbed s (takeCommission t q s) :=
  withCustProgress _ _

theorem reserve (s : State) (t : Byte) (l : Line) (h : Handle) (n : SlotNo) (p : Pos) (a g : Nat) :
    Undisturbed s (s.reserve t l h n p a g) :=
  (((takeGrant s n g).trans (setPos _ _ _ _)).trans (withControl _ _)).trans (setProgress _ _ _)
theorem takeBind (l : Line) (t : Byte) (q : Handle × Nat) (s : State) : Undisturbed s (takeBind l t q s) := by
  unfold Machine.takeBind; split
  · exact finishLine _ _ _ _ _ _
  · simp only
    split
    · exact finishLine _ _ _ _ _ _
    · exact reserve _ _ _ _ _ _ _ _
theorem takeExtend (l : Line) (t : Byte) (q : Pos × Nat) (s : State) : Undisturbed s (takeExtend l t q s) := by
  unfold Machine.takeExtend; split
  · split
    · exact finishLine _ _ _ _ _ _
    · simp only
      split
      · exact finishLine _ _ _ _ _ _
      · exact ((takeGrant _ _ _).trans (setPos _ _ _ _)).trans (finishLine _ _ _ _ _ _)
  · exact finishLine _ _ _ _ _ _
theorem releaseAt (s : State) (l : Line) (p : Pos) (u : Nat) : Undisturbed s (s.releaseAt l p u).1 := by
  unfold State.releaseAt; split
  · exact (queueFrame _ _ _).trans (setPos _ _ _ _)
  · exact (settle _ _ _).trans (setPos _ _ _ _)
  all_goals exact refl _
theorem takeRelease (l : Line) (t : Byte) (q : Pos × Nat) (s : State) : Undisturbed s (takeRelease l t q s) := by
  unfold Machine.takeRelease
  refine (releaseAt s l q.1 q.2).trans ?_
  simp only
  split
  · exact setProgress _ _ _
  · exact setProgress _ _ _
  all_goals exact finishLine _ _ _ _ _ _
theorem releaseAllCheck (s : State) (l : Line) (t : Byte) (e : Vector ReleaseEntry 4) :
    Undisturbed s (s.releaseAllCheck l t e) := by
  unfold State.releaseAllCheck; split
  · exact finishLine _ _ _ _ _ _
  · exact setProgress _ _ _
theorem takeReleaseAll (l : Line) (t : Byte) (u : Vector Nat 4) (s : State) :
    Undisturbed s (takeReleaseAll l t u s) := by
  unfold Machine.takeReleaseAll
  refine Undisturbed.trans ?_ (releaseAllCheck _ _ _ _)
  have h : ∀ (ps : List Pos) (acc : State × Vector ReleaseEntry 4), Undisturbed acc.1
      (ps.foldl (fun (acc : State × Vector ReleaseEntry 4) p =>
        ((acc.1.releaseAt l p u[p]).1, put acc.2 p (acc.1.releaseAt l p u[p]).2)) acc).1 := by
    intro ps
    induction ps with
    | nil => exact fun _ => refl _
    | cons p ps ih =>
      intro acc
      rw [List.foldl_cons]
      refine Undisturbed.trans ?_ (ih _)
      exact releaseAt acc.1 l p u[p]
  exact h four (s, _)
theorem clearBlockedCheck (s : State) (l : Line) (t : Byte) (w f : Vector Bool 4) :
    Undisturbed s (s.clearBlockedCheck l t w f) := by
  unfold State.clearBlockedCheck; split
  · exact setProgress _ _ _
  · exact finishLine _ _ _ _ _ _
theorem takeClearBlocked (l : Line) (t : Byte) (q : Unit) (s : State) : Undisturbed s (takeClearBlocked l t q s) := by
  unfold Machine.takeClearBlocked
  refine Undisturbed.trans ?_ (clearBlockedCheck _ _ _ _ _)
  exact foldl _ (fun u p => queueFrame u l (.clear p)) _ _

/-! ## A BIND's read, and the outcomes of frames -/

theorem bindFails (s : State) (l : Line) (t : Byte) (p : Pos) (b : Binding) (oc : OutcomeCode) :
    Undisturbed s (s.bindFails l t p b oc) :=
  ((setPos _ _ _ _).trans (giveBack _ _ _)).trans (finishLine _ _ _ _ _ _)
theorem damage (s : State) (n : SlotNo) : Undisturbed s (s.damage n) := by
  refine withSlot _ _ _ fun d => ?_
  split
  · next e => exact .inr e
  · exact .inl rfl
theorem queueLoad (s : State) (l : Line) (t : Byte) (p : Pos) (a g : Nat) (n : SlotNo) (r : SlotRecord)
    (c : Vector Byte 32) : Undisturbed s (s.queueLoad l t p a g n r c) := by
  simp only [State.queueLoad]
  exact ((queueFrame s l _).trans (withBus _ _ _)).trans (setProgress _ _ _)
theorem bindRead (s : State) (l : Line) (t : Byte) (p : Pos) (a g : Nat) (r : SlotRecord) :
    Undisturbed s (s.bindRead l t p a g r) := by
  unfold State.bindRead; split
  · simp only
    split
    · exact bindFails _ _ _ _ _ _
    · split
      · exact (damage _ _).trans (bindFails _ _ _ _ _ _)
      · split
        · exact bindFails _ _ _ _ _ _
        · exact queueLoad _ _ _ _ _ _ _ _ _
  · exact refl _
theorem popFrame (s : State) (e : Line) : Undisturbed s (s.popFrame e) := withBus _ _ _
theorem withdrawClear (s : State) (e : Line) (p : Pos) : Undisturbed s (s.withdrawClear e p) := withBus _ _ _
theorem finishBind (s : State) (e : Line) (p : Pos) (oc : OutcomeCode) (d : List Byte) :
    Undisturbed s (s.finishBind e p oc d) := by
  unfold State.finishBind; split
  · exact finishLine _ _ _ _ _ _
  · exact refl _
theorem loadAccepted (s : State) (e : Line) (p : Pos) : Undisturbed s (s.loadAccepted e p) := by
  unfold State.loadAccepted; split
  · simp only
    split
    · exact (setPos _ _ _ _).trans (finishBind _ _ _ _ _)
    · exact setPos _ _ _ _
  · exact refl _
theorem loadRefused (s : State) (e : Line) (p : Pos) (r : Byte) : Undisturbed s (s.loadRefused e p r) := by
  unfold State.loadRefused; split
  · exact (((setPos _ _ _ _).trans (giveBack _ _ _)).trans (withdrawClear _ _ _)).trans (finishBind _ _ _ _ _)
  · exact refl _
theorem loadSilent (s : State) (e : Line) (p : Pos) : Undisturbed s (s.loadSilent e p) := by
  unfold State.loadSilent; split
  · exact (((setPos _ _ _ _).trans (charge _ _ _)).trans (withdrawClear _ _ _)).trans (finishBind _ _ _ _ _)
  · exact refl _
theorem finishRelease (s : State) (e : Line) (p : Pos) (b : Binding) (u : Nat) (oc : OutcomeCode) :
    Undisturbed s (s.finishRelease e p b u oc) := by
  unfold State.finishRelease; split
  · exact finishLine _ _ _ _ _ _
  · exact releaseAllCheck _ _ _ _
  · exact refl _
theorem settleRelease (s : State) (e : Line) (p : Pos) (b : Binding) (u : Nat) (x : Position) (oc : OutcomeCode) :
    Undisturbed s (s.settleRelease e p b u x oc) :=
  ((settle _ _ _).trans (setPos _ _ _ _)).trans (finishRelease _ _ _ _ _ _)
theorem endPosition (s : State) (e : Line) (p : Pos) (b : Binding) (r : EndReason) (u : Bool) :
    Undisturbed s (s.endPosition e p b r u) := by
  unfold State.endPosition; split
  · exact settleRelease _ _ _ _ _ _ _
  · exact setPos _ _ _ _
theorem clearBlockedOutcome (s : State) (e : Line) (p : Pos) (f : Bool) :
    Undisturbed s (s.clearBlockedOutcome e p f) := by
  unfold State.clearBlockedOutcome; split
  · exact clearBlockedCheck _ _ _ _ _
  · exact refl _
theorem clearOutcome (s : State) (e : Line) (p : Pos) (silent : Bool) : Undisturbed s (s.clearOutcome e p silent) := by
  unfold State.clearOutcome; split
  · exact settleRelease _ _ _ _ _ _ _
  · exact endPosition _ _ _ _ _ _
  · split
    · exact clearBlockedOutcome _ _ _ _
    · exact (setPos _ _ _ _).trans (clearBlockedOutcome _ _ _ _)
  · exact refl _
theorem offerOver (s : State) (e : Line) : Undisturbed s (s.offerOver e) := withCustody _ _ ⟨rfl, rfl, rfl⟩
theorem clearAllOutcome (s : State) (e : Line) (silent : Bool) : Undisturbed s (s.clearAllOutcome e silent) :=
  (withPositions _ _).trans (offerOver _ _)
theorem deliverSilence (s : State) (e : Line) (f : Frame) : Undisturbed s (s.deliverSilence e f) := by
  unfold State.deliverSilence; split
  · exact refl _
  · split
    · exact loadSilent _ _ _
    · exact clearOutcome _ _ _ _
    · exact clearAllOutcome _ _ _
theorem deliverDone (s : State) (e : Line) (f : Frame) : Undisturbed s (s.deliverDone e f) := by
  unfold State.deliverDone; split
  · exact refl _
  · split
    · exact clearOutcome _ _ _ _
    · exact clearAllOutcome _ _ _
    · exact refl _
theorem bindLosesEngine (s : State) (e : Line) : Undisturbed s (s.bindLosesEngine e) := by
  unfold State.bindLosesEngine; split
  · split
    · exact (withControl _ _).trans (finishLine _ _ _ _ _ _)
    · exact setProgress _ _ _
  · exact finishLine _ _ _ _ _ _
  · exact refl _
theorem fallAt (e : Line) (s : State) (p : Pos) : Undisturbed s (State.fallAt e s p) := by
  unfold State.fallAt; split
  · exact refl _
  · exact ((setPos _ _ _ _).trans (giveBack _ _ _)).trans (bindLosesEngine _ _)
  · exact setPos _ _ _ _
  · exact endPosition _ _ _ _ _ _
  · exact setPos _ _ _ _
  · exact setPos _ _ _ _
theorem fallClearBlocked (s : State) (e : Line) (w : Vector Bool 4) : Undisturbed s (s.fallClearBlocked e w) := by
  unfold State.fallClearBlocked; split
  · exact finishLine _ _ _ _ _ _
  · exact refl _

/-! ## Port links -/

theorem address (s : State) (p : Port) (a : Address) (x : Transfer) : Undisturbed s (s.address p a x) := by
  simp only [State.address]; exact withLink _ _ _
theorem start (s : State) (p : Port) (a : Address) (x : Transfer) : Undisturbed s (s.start p a x) :=
  (withLink _ _ _).trans (address _ _ _ _)
theorem stop (s : State) (p : Port) (k : Part) : Undisturbed s (s.stop p k) := by
  unfold State.stop; split
  · exact withLink _ _ _
  · exact refl _
theorem writeCode (s : State) (p : Port) (b : Byte) : Undisturbed s (s.writeCode p b) := by
  unfold State.writeCode; split
  · exact withLink _ _ _
  · split <;> exact withLink _ _ _
  · exact withLink _ _ _
  · exact withLink _ _ _
theorem writeByte (p : Port) (s : State) (b : Byte) : Undisturbed s (State.writeByte p s b) := by
  unfold State.writeByte; split
  · exact writeCode _ _ _
  · exact withLink _ _ _
  · exact withLink _ _ _
  · exact withLink _ _ _
  all_goals exact refl _
theorem writeBytes (s : State) (p : Port) (bytes : List Byte) : Undisturbed s (s.writeBytes p bytes) :=
  foldl _ (writeByte p) _ _
theorem clock (s : State) (p : Port) (n : Nat) : Undisturbed s (s.clock p n) := by
  unfold State.clock; split
  · exact withLink _ _ _
  · exact withLink _ _ _
  · exact withLink _ _ _
  · simp only [State.clockDirectory]; split <;> exact withLink _ _ _
  all_goals exact refl _
theorem readBytes (s : State) (p : Port) (n : Nat) : Undisturbed s (s.readBytes p n) := by
  unfold State.readBytes; split
  · exact refl _
  · split
    · exact (withLink _ _ _).trans (clock _ _ _)
    · exact clock _ _ _
theorem readPart (s : State) (p : Port) (a : Address) (k : Part) (w : Window) (n : Nat) :
    Undisturbed s (s.readPart p a k w n) := by
  unfold State.readPart; split
  · split
    · exact ((start _ _ _ _).trans (readBytes _ _ _)).trans (stop _ _ _)
    · exact refl _
  · exact (readBytes _ _ _).trans (stop _ _ _)

/-! ## The offers of a start-up -/

theorem offerClear (s : State) (e : Line) : Undisturbed s (s.offerClear e) := by
  unfold State.offerClear; split
  · refine (queueFrame s e .clearAll).trans (withCustody _ _ ?_)
    exact ⟨rfl, rfl, rfl⟩
  · exact refl _
theorem offerSettled (s : State) (e : Line) : Undisturbed s (s.offerSettled e) := by
  unfold State.offerSettled; split
  · refine withCustody _ _ ?_
    exact ⟨rfl, rfl, rfl⟩
  · exact refl _
theorem makeOffers (s : State) : Undisturbed s s.makeOffers :=
  (foldl _ offerClear _ _).trans (foldl _ offerSettled _ _)

/-! ## The array and the pattern test -/

theorem setDegraded (s : State) (b : Bank) : Undisturbed s (s.setDegraded b) := by
  have h : Undisturbed s (s.withBank b fun d => { d with degraded := true }) := by
    refine withBank _ _ _ ?_
    exact fun _ => rfl
  simp only [State.setDegraded]; split
  · exact h.trans (latch _ _)
  · exact h
theorem writeTest (s : State) (b : Bank) (f : TestRecord → TestRecord) : Undisturbed s (s.writeTest b f) :=
  withRetention _ _ ⟨rfl, rfl, rfl, rfl⟩
theorem endSkipped (s : State) (b : Bank) : Undisturbed s (s.endSkipped b) := by
  unfold State.endSkipped State.skipTest
  exact (withControl s _).trans (writeTest _ _ _)
theorem judgeRow (s : State) (b : Bank) (d : List Byte) : Undisturbed s (s.judgeRow b d) := by
  simp only [State.judgeRow]; split
  · split
    · exact (writeTest _ _ _).trans (setDegraded _ _)
    · exact writeTest _ _ _
  · exact writeTest _ _ _
theorem startErase (s : State) (b : Bank) (c : Bool) : Undisturbed s (s.startErase b c) :=
  (withControl _ _).trans (markBank _ _ _)
theorem startWrite (s : State) : Undisturbed s s.startWrite := by
  unfold State.startWrite; split
  · exact (withControl _ _).trans (startErase _ _ _)
  · split
    · exact withControl _ _
    · split
      · exact (withControl _ _).trans (adminEmptied _)
      · exact ((withControl _ _).trans (startErase _ _ _)).trans (adminEmptied _)
      · exact refl _
theorem execEnded (s : State) : Undisturbed s s.execEnded := withControl _ _

end Undisturbed

end Sys2Proof.Machine
end

