-- ==== Sys2Proof/Laws/Zeroize.lean ====
section
/-! SUPPORT. What each block's part of a zeroization can change, and that a running one shows what Safety.Zeroized
says (R164, R14, R52, R80, R97, R116). -/

namespace Sys2Proof.Machine

/-- A property every step of a fold keeps holds at its end. -/
theorem foldl_keeps {α : Type} (P : State → Prop) (f : State → α → State) (hf : ∀ s a, P s → P (f s a))
    (l : List α) (s : State) (h : P s) : P (l.foldl f s) := by
  induction l generalizing s with
  | nil => exact h
  | cons a l ih => exact ih _ (hf _ _ h)

/-- A charge, a return and a settlement change slot retention alone (R60, R61). -/
theorem charge_eq (s : State) (n : SlotNo) (k : Nat) :
    ∃ v, s.charge n k = { s with retention := { s.retention with slots := v } } := ⟨_, rfl⟩

theorem giveBack_eq (s : State) (n : SlotNo) (k : Nat) :
    ∃ v, s.giveBack n k = { s with retention := { s.retention with slots := v } } := by
  unfold State.giveBack; split
  · exact ⟨_, rfl⟩
  · exact ⟨s.retention.slots, rfl⟩

theorem settle_eq (s : State) (b : Binding) (used : Nat) :
    ∃ v, s.settle b used = { s with retention := { s.retention with slots := v } } := by
  obtain ⟨v, h⟩ := charge_eq s b.slot (min used b.reservation)
  obtain ⟨w, k⟩ := giveBack_eq { s with retention := { s.retention with slots := v } } b.slot
    (b.reservation - min used b.reservation)
  exact ⟨w, by unfold State.settle; rw [h, k]⟩

theorem chargePosition_eq (s : State) (x : Position) :
    ∃ v, s.chargePosition x = { s with retention := { s.retention with slots := v } } := by
  unfold State.chargePosition; split
  · exact ⟨_, rfl⟩
  · exact ⟨s.retention.slots, rfl⟩

/-- A charge of one slot (R61). -/
theorem charge_slots (s : State) (m n : SlotNo) (k : Nat) : (s.charge m k).retention.slots[n] =
    if m = n then { s.retention.slots[n] with issued := min maxCards (s.retention.slots[n].issued + k) }
    else s.retention.slots[n] := by
  simp only [State.charge, State.withSlotRet, put_get]
  split
  · next h => subst h; rfl
  · rfl

theorem chargePosition_slots (s : State) (x : Position) (n : SlotNo) (h : s.retention.slots[n].issued ≤ maxCards) :
    (s.chargePosition x).retention.slots[n] =
      { s.retention.slots[n] with issued := min maxCards (s.retention.slots[n].issued + x.reservedOn n) } := by
  unfold State.chargePosition Position.reservedOn
  split
  · next b hb =>
    simp only [hb, charge_slots]
    split
    · rfl
    · simp only [Nat.add_zero, Nat.min_eq_right h]
  · next hb => simp only [hb, Nat.add_zero, Nat.min_eq_right h]

/-- The charges of a list of positions add up (R80, R81). -/
theorem chargePositions_slots (xs : List Position) (s : State) (n : SlotNo)
    (h : s.retention.slots[n].issued ≤ maxCards) : (xs.foldl State.chargePosition s).retention.slots[n] =
      { s.retention.slots[n] with
        issued := min maxCards (s.retention.slots[n].issued + (xs.map (·.reservedOn n)).sum) } := by
  induction xs generalizing s with
  | nil => simp only [List.foldl_nil, List.map_nil, List.sum_nil, Nat.add_zero, Nat.min_eq_right h]
  | cons x xs ih =>
    rw [List.foldl_cons, ih _ (by rw [chargePosition_slots s x n h]; exact Nat.min_le_left _ _),
      chargePosition_slots s x n h]
    simp only [List.map_cons, List.sum_cons, SlotRetention.mk.injEq, true_and, and_true]
    omega

/-- The end of the binding table charges and frees (R80, R81). -/
theorem endTable_eq (s : State) :
    ∃ v, s.endTable = { s with
      positions := noPositions, retention := { s.retention with slots := v } } ∧
    ∀ n : SlotNo, s.retention.slots[n].issued ≤ maxCards → v[n] =
      { s.retention.slots[n] with issued := min maxCards (s.retention.slots[n].issued + s.reserved n) } := by
  have h := foldl_keeps (fun t => ∃ v, t = { s with retention := { s.retention with slots := v } })
    State.chargePosition (by
    rintro t a ⟨v, rfl⟩
    obtain ⟨w, hw⟩ := chargePosition_eq { s with retention := { s.retention with slots := v } } a
    exact ⟨w, hw⟩) s.allPositions s ⟨s.retention.slots, rfl⟩
  obtain ⟨v, hv⟩ := h
  refine ⟨v, by unfold State.endTable; rw [hv], fun n hn => ?_⟩
  have := chargePositions_slots s.allPositions s n hn
  rw [hv] at this
  exact this

/-- The link of a line port after its request in progress, if any, has completed ZEROIZED (R80). -/
def zeroizedLink (l : Link) (x : Option LineProgress) : Link :=
  { l with completions := l.completions ++ (match x with
    | some x => [{ tag := x.tag, code := x.code, outcome := .zeroized, data := [] }]
    | none => []) }

theorem zeroizeLine_eq (s : State) (l : Line) : s.zeroizeLine l = { s with
    lineLinks := put s.lineLinks l (zeroizedLink s.lineLinks[l] s.lineProgress[l])
    lineProgress := put s.lineProgress l none } := by
  unfold State.zeroizeLine zeroizedLink; split
  · next h => rw [h]; rfl
  · next h =>
    have e1 : put s.lineProgress l none = s.lineProgress := put_of_eq _ _ _ h
    have e2 : ∀ k : Link, { k with completions := k.completions ++ [] } = k := by intro k; simp
    simp only [h, e1, e2, put_get_self]

/-- Every line request in progress is over (R80). -/
theorem zeroizeLines_eq (s : State) : ∃ a, four.foldl State.zeroizeLine s = { s with
      lineLinks := a, lineProgress := Vector.replicate 4 none } ∧
    ∀ l : Line, a[l] = zeroizedLink s.lineLinks[l] s.lineProgress[l] := by
  refine ⟨Vector.ofFn fun l => zeroizedLink s.lineLinks[l] s.lineProgress[l], ?_, fun l => by simp⟩
  simp only [four, List.foldl_cons, List.foldl_nil, zeroizeLine_eq]
  simp only [State.mk.injEq, true_and, and_true]
  constructor
  · apply Vector.ext
    intro i hi
    have : i = 0 ∨ i = 1 ∨ i = 2 ∨ i = 3 := by omega
    rcases this with rfl | rfl | rfl | rfl <;> simp [put]
  · apply Vector.ext
    intro i hi
    simp only [put, Vector.getElem_set, Vector.getElem_replicate]
    have : i = 0 ∨ i = 1 ∨ i = 2 ∨ i = 3 := by omega
    rcases this with rfl | rfl | rfl | rfl <;> rfl

/-- What a stopped operation leaves is in the array and the draws (R116, R117). -/
theorem leaveStopped_eq (s : State) : ∃ a d, s.leaveStopped = { s with array := a, draws := d } := by
  have key : ∀ t : State, (∃ a d, t = { s with array := a, draws := d }) →
      ∀ b, ∃ a d, t.leaveStoppedErase b = { s with array := a, draws := d } := by
    rintro t ⟨a, d, rfl⟩ b
    unfold State.leaveStoppedErase
    extract_lets d'
    split
    · exact ⟨_, _, rfl⟩
    · exact ⟨_, _, rfl⟩
  unfold State.leaveStopped
  extract_lets t
  have ht : ∃ a d, t = { s with array := a, draws := d } := by
    simp only [t]
    split
    · exact ⟨_, _, rfl⟩
    · exact ⟨_, _, rfl⟩
    · exact key s ⟨s.array, s.draws, rfl⟩ _
    · exact ⟨s.array, s.draws, rfl⟩
    · exact ⟨s.array, s.draws, rfl⟩
    · exact ⟨s.array, s.draws, rfl⟩
  split
  · exact key t ht _
  · exact ht

/-- The banks of a list become ERASE_INCOMPLETE, and nothing else changes. -/
theorem incompletes_eq (xs : List Bank) (s : State) : ∃ bs, xs.foldl State.incomplete s =
      { s with directory := { s.directory with banks := bs } } ∧
    ∀ b : Bank, bs[b] = { s.directory.banks[b] with
      condition := if b ∈ xs then .eraseIncomplete else s.directory.banks[b].condition } := by
  induction xs generalizing s with
  | nil => exact ⟨s.directory.banks, rfl, fun b => by simp⟩
  | cons x xs ih =>
    obtain ⟨bs, h, hb⟩ := ih (s.incomplete x)
    refine ⟨bs, by rw [List.foldl_cons, h]; rfl, fun b => ?_⟩
    rw [hb b]
    simp only [State.incomplete, State.withBank, put_get, List.mem_cons]
    by_cases e : x = b
    · subst e; simp
    · have e' : ¬ b = x := fun h => e h.symm
      simp [e, e']

/-- The Array Controller's part: its own state but for rotation and fault flag, and the banks of aborted or discarded
erases (R116). -/
theorem abortArray_eq (s : State) : ∃ a d bs, s.abortArray = { s with
      array := a, draws := d, directory := { s.directory with banks := bs }
      control := { ArrayControl.initial with lastServed := s.control.lastServed, fault := s.control.fault } } ∧
    ∀ b : Bank, bs[b] = { s.directory.banks[b] with
      condition := if b ∈ s.control.erasingBanks then .eraseIncomplete else s.directory.banks[b].condition } := by
  obtain ⟨a, d, h⟩ := leaveStopped_eq s
  obtain ⟨bs, h2, h3⟩ := incompletes_eq s.control.erasingBanks s.leaveStopped
  rw [h] at h2 h3
  exact ⟨a, d, bs, by unfold State.abortArray; rw [h, h2]; rfl, h3⟩

/-- The end of a ceremony: its record, its buffer and its bank's reservation (R48, R25, R18). -/
theorem endCeremony_eq (s : State) : ∃ bs c,
    s.endCeremony = { s with ceremony := c, directory := { s.directory with banks := bs } } ∧ c.current = none ∧
    (∀ b : Bank, bs[b] = { s.directory.banks[b] with reserved := bs[b].reserved }) ∧
    (s.ceremony.current ≠ none → c.buffer = zeros32) ∧ (s.ceremony.current = none → c = s.ceremony) := by
  unfold State.endCeremony; split
  · next h => exact ⟨s.directory.banks, s.ceremony, rfl, h, fun _ => rfl, by simp [h], fun _ => rfl⟩
  · next o h =>
    refine ⟨_, _, rfl, rfl, ?_, fun _ => rfl, by simp [h]⟩
    intro b; rw [put_get]; split
    · next e => subst e; rfl
    · rfl

/-- What the Ceremony Unit's part leaves at the custodian port (R52): k its link, p its request in progress, c the
ceremony. -/
structure CeremonyZeroized (s : State) (c : Ceremony) (k : Link) (p : Option CustProgress) : Prop where
  idle : c.current = none
  cleared : s.ceremony.current ≠ none → c.buffer = zeros32
  same : s.ceremony.current = none → c = s.ceremony
  link : k = { s.custLink with completions := k.completions }
  held : ∀ x, s.custProgress = some x → (∀ tag, x ≠ .commit tag) → p = some x
  commit : ∀ tag o, s.custProgress = some (.commit tag) → s.ceremony.current = some o → o.programming = true →
    p = none ∧ k.completions = s.custLink.completions ++ [⟨tag, codeCommit, .zeroized, []⟩]
  report : ∀ o, s.ceremony.current = some o → o.programming = false →
    ⟨o.tag, 0x00, .abandoned, 0x06 :: o.handle.bytes⟩ ∈ k.completions ∨ c.undelivered = some .zeroization

/-- The Ceremony Unit's part (R52): a request being taken stays in progress and no message is removed. -/
theorem zeroizeCeremony_eq (s : State) : ∃ bs c k p, s.zeroizeCeremony = { s with
      ceremony := c, custLink := k, custProgress := p, directory := { s.directory with banks := bs } } ∧
    CeremonyZeroized s c k p ∧
    (∀ b : Bank, bs[b] = { s.directory.banks[b] with reserved := bs[b].reserved }) := by
  obtain ⟨bs, c, h, h1, h2, h3, h4⟩ := endCeremony_eq s
  unfold State.zeroizeCeremony
  split
  · next hc => exact ⟨s.directory.banks, s.ceremony, s.custLink, s.custProgress, rfl,
      ⟨hc, by simp [hc], fun _ => rfl, rfl, fun _ h _ => h, by simp [hc], by simp [hc]⟩, fun _ => rfl⟩
  · next o ho =>
    have hcb := h3 (by simp [ho])
    split
    · next hp =>
      rw [h]
      unfold State.finishCommit
      split
      · next tag hq =>
        refine ⟨bs, c, _, _, rfl, ⟨h1, h3, h4, rfl, ?_, ?_, ?_⟩, h2⟩
        · intro x hx hn; simp only at hq; rw [hq] at hx; cases hx; exact absurd rfl (hn tag)
        · intro tag' o' ht ho' _; simp only at hq; rw [hq] at ht; cases ht; exact ⟨rfl, rfl⟩
        · intro o' ho' hf; rw [ho] at ho'; cases ho'; simp [hp] at hf
      · next hq =>
        refine ⟨bs, c, _, _, rfl, ⟨h1, h3, h4, rfl, fun _ h _ => h, ?_, ?_⟩, h2⟩
        · intro tag o' ht _ _; exact absurd ht (hq tag)
        · intro o' ho' hf; rw [ho] at ho'; cases ho'; simp [hp] at hf
    · next hp =>
      unfold State.abandonFor
      simp only [ho, hp, h]
      unfold State.reportAbandoned
      simp only [Bool.false_eq_true, if_false]
      split
      · refine ⟨bs, c, _, _, rfl, ⟨h1, fun _ => hcb, fun h => by simp [ho] at h, rfl, fun _ h _ => h, ?_, ?_⟩, h2⟩
        · intro tag o' _ ho' hf; rw [ho] at ho'; cases ho'; simp [hf] at hp
        · intro o' ho' _; rw [ho] at ho'; cases ho'; left; exact List.mem_append_right _ (List.mem_singleton.mpr rfl)
      · refine ⟨bs, { c with undelivered := some .zeroization }, _, _, rfl,
          ⟨h1, fun _ => hcb, fun h => by simp [ho] at h, rfl, fun _ h _ => h, ?_, fun _ _ _ => .inr rfl⟩, h2⟩
        intro tag o' _ ho' hf; rw [ho] at ho'; cases ho'; simp [hf] at hp

/-- What the custodian port's part leaves (R106): k its link, p its request in progress. -/
structure CustZeroized (s : State) (k : Link) (p : Option CustProgress) : Prop where
  link : k = { s.custLink with completions := k.completions }
  retire : ∀ tag h n r, s.custProgress = some (.retire tag h n r) →
    p = none ∧ k.completions = s.custLink.completions ++ [⟨tag, codeRetire, .zeroized, []⟩]
  reclaim : ∀ tag b e, s.custProgress = some (.reclaim tag b e) →
    p = none ∧ k.completions = s.custLink.completions ++ [⟨tag, codeReclaim, .zeroized, []⟩]
  other : (∀ tag h n r, s.custProgress ≠ some (.retire tag h n r)) → (∀ tag b e, s.custProgress ≠ some (.reclaim tag b e)) →
    p = s.custProgress ∧ k = s.custLink
  kept : ∀ x ∈ s.custLink.completions, x ∈ k.completions

/-- The custodian port's part (R106): a request being taken stays in progress. -/
theorem zeroizeCust_eq (s : State) : ∃ k p, s.zeroizeCust = { s with custLink := k, custProgress := p } ∧
    CustZeroized s k p := by
  unfold State.zeroizeCust; split
  · next h =>
    refine ⟨_, _, rfl, rfl, ?_, by simp [h], by simp [h], fun _ hx => List.mem_append_left _ hx⟩
    intro tag h' n r e; rw [h] at e; cases e; exact ⟨rfl, rfl⟩
  · next h =>
    refine ⟨_, _, rfl, rfl, by simp [h], ?_, by simp [h], fun _ hx => List.mem_append_left _ hx⟩
    intro tag b e he; rw [h] at he; cases he; exact ⟨rfl, rfl⟩
  · next h1 h2 =>
    refine ⟨s.custLink, s.custProgress, rfl, rfl, ?_, ?_, fun _ _ => ⟨rfl, rfl⟩, fun _ hx => hx⟩
    · intro tag h n r e; exact absurd e (h1 tag h n r)
    · intro tag b e he; exact absurd he (h2 tag b e)

/-- Custody Control's own changes in one update (R164, R162). -/
theorem destroyCovers_eq (s : State) (src : Source) (pl : Place) (h : s.retention.marker = true) :
    s.destroyCovers src pl = { s with retention := { s.retention with
      covers := Vector.replicate 4 { value := zeros32, valid := false }
      resume := .zeroizing
      owed := Vector.replicate 4 true
      alarmFlags := s.retention.alarmFlags ||| 0x80 ||| (match src with
        | .door => 0x01 | .mesh => 0x02 | .supplyHigh => 0x04 | .clock => 0x10
        | .command => 0x00 | .retentionLoss => 0x00)
      tamper :=
        { zCount := min 255 (s.retention.tamper.zCount + 1), zCause := some src, zTime := s.stamp
          zPlace := some pl, eCount := min 255 (s.retention.tamper.eCount + 1)
          eSource := some src, eOutcome := some .zeroized, eTime := s.stamp } } } := by
  cases src <;> simp [State.destroyCovers, State.recordZeroization, State.recordEvent, State.latch,
    State.latchSource, Source.alarm, State.withRetention, h, Alarm.bit, bitMask, State.stamp]

/-- With every bank owed the erase of bank 0 is submitted (R166). -/
theorem nextOwed_first (s : State) (hm : s.custody.present = .zeroizing) (hb : s.control.custodyBusy = false)
    (ho : s.retention.owed = Vector.replicate 4 true) : s.nextOwed = { s with
      control := { s.control with custodyWait := some 0 }
      directory := { s.directory with
        banks := put s.directory.banks 0 { s.directory.banks[(0 : Bank)] with condition := .erasing } } } := by
  have h : s.lowestOwed = some 0 := by simp [State.lowestOwed, four, ho]
  simp [State.nextOwed, hm, hb, h, State.withControl, State.withBank]

/-- A running zeroization shows what Zeroized says. -/
theorem beginRunning_zeroized (s : State) (src : Source) (h : s.retention.marker = true) :
    Zeroized s (s.beginRunning src) src := by
  unfold State.beginRunning
  have e0 : ∃ R, s.destroyCovers src .running = s.withRetention (fun _ => R) ∧ _ = R :=
    ⟨_, destroyCovers_eq s src .running h, rfl⟩
  obtain ⟨R, e0, hR⟩ := e0
  rw [e0]
  extract_lets s1 s2 s3 s4 s5
  obtain ⟨bs, c, k, p, e1, q1, q2⟩ := zeroizeCeremony_eq s1.zeroizeDirectory
  obtain ⟨v, e2, hv⟩ := endTable_eq s2
  obtain ⟨a, e3, ha⟩ := zeroizeLines_eq s2.endTable
  obtain ⟨ar, d, bs', e4, q7⟩ := abortArray_eq s4
  obtain ⟨k', p', e5, q8⟩ := zeroizeCust_eq s4.abortArray
  have e1' : s2 = _ := e1
  have e3' : s3 = _ := e3
  have e5' : s5 = _ := e5
  have hlinks : ∀ l : Line, s5.lineLinks[l] = zeroizedLink s.lineLinks[l] s.lineProgress[l] := by
    intro l; rw [e5', e4]; simp only [s4]; rw [e3']; simp only
    rw [ha l, e2, e1']; simp [State.zeroizeDirectory, s1]
  have hslotsRet : ∀ n : SlotNo, s.retention.slots[n].issued ≤ maxCards → v[n] =
      { s.retention.slots[n] with issued := min maxCards (s.retention.slots[n].issued + s.reserved n) } := by
    intro n hn
    have g : s2.retention.slots = s.retention.slots := by
      rw [e1']; simp [State.zeroizeDirectory, s1, ← hR]
    have g' : s2.reserved n = s.reserved n := by
      have : s2.positions = s.positions := by rw [e1']; simp [State.zeroizeDirectory, s1]
      simp [State.reserved, State.allPositions, this]
    have := hv n (by rw [g]; exact hn)
    rw [g, g'] at this; exact this
  have hret : s5.retention = { R with slots := v } := by
    rw [e5', e4]; simp only [s4]; rw [e3', e2, e1']; simp [State.zeroizeDirectory, s1]
  have hcus : s5.custody = { s.custody with present := .zeroizing } := by
    rw [e5', e4]; simp only [s4]; rw [e3', e2, e1']; simp [State.zeroizeDirectory, s1]
  have hcon : s5.control =
      { ArrayControl.initial with lastServed := s.control.lastServed, fault := s.control.fault } := by
    rw [e5', e4]; simp only [s4]; rw [e3', e2, e1']; simp [State.zeroizeDirectory, s1]
  have hcon4 : s4.control = s.control := by
    simp only [s4]; rw [e3', e2, e1']; simp [State.zeroizeDirectory, s1]
  have hdir : s5.directory = { s1.zeroizeDirectory.directory with banks := bs' } := by
    rw [e5', e4]; simp only [s4]; rw [e3', e2, e1']
  have hpos : s5.positions = noPositions := by
    rw [e5', e4]; simp only [s4]; rw [e3', e2]
  have hlp : s5.lineProgress = Vector.replicate 4 none := by
    rw [e5', e4]; simp only [s4]; rw [e3']
  have hbus : s5.buses = mapTable Transmitter.zeroize s.buses := by
    rw [e5', e4]; simp only [s4]; rw [e3', e2, e1']; simp [State.zeroizeDirectory, s1]
  have hcer : s5.ceremony = c := by
    rw [e5', e4]; simp only [s4]; rw [e3', e2, e1']
  have hall : s5.allocations = s.allocations := by
    rw [e5', e4]; simp only [s4]; rw [e3', e2, e1']; simp [State.zeroizeDirectory, s1]
  have hfus : s5.fuses = s.fuses := by
    rw [e5', e4]; simp only [s4]; rw [e3', e2, e1']; simp [State.zeroizeDirectory, s1]
  have hmon : s5.monitor = s.monitor := by
    rw [e5', e4]; simp only [s4]; rw [e3', e2, e1']; simp [State.zeroizeDirectory, s1]
  have hbank : ∀ b : Bank, bs'[b].lost = true ∧ bs'[b].condition =
      if b ∈ s.control.erasingBanks then .eraseIncomplete else s.directory.banks[b].condition := by
    intro b
    have g : s4.directory.banks[b] = { s1.zeroizeDirectory.directory.banks[b] with reserved := bs[b].reserved } := by
      simp only [s4]; rw [e3', e2, e1']; exact q2 b
    rw [q7 b, g, hcon4]
    simp [State.zeroizeDirectory, s1]
  have hslots : ∀ n : SlotNo, s5.directory.slots[n] =
      if s.directory.slots[n].state = .empty then s.directory.slots[n]
      else { s.directory.slots[n] with state := .lost, retirePending := false } := by
    intro n; rw [hdir]; simp [State.zeroizeDirectory, s1]
  have hbanks : s5.directory.banks = bs' := by rw [hdir]
  -- the custodian port: k and p after the Ceremony Unit's part, k' and p' at the end
  have hk5 : s5.custLink = k' ∧ s5.custProgress = p' := by rw [e5']; exact ⟨rfl, rfl⟩
  have hk4 : s4.abortArray.custLink = k ∧ s4.abortArray.custProgress = p := by
    rw [e4]; simp only [s4]; rw [e3', e2, e1']; exact ⟨rfl, rfl⟩
  have hs1 : s1.zeroizeDirectory.custLink = s.custLink ∧ s1.zeroizeDirectory.custProgress = s.custProgress ∧
      s1.zeroizeDirectory.ceremony = s.ceremony := by simp [State.zeroizeDirectory, s1]
  have hkeep : k' = { s.custLink with completions := k'.completions } := by
    have := q8.link; rw [hk4.1, q1.link, hs1.1] at this; exact this
  have hretire : ∀ tag h n r, s.custProgress = some (.retire tag h n r) →
      p' = none ∧ k'.completions.getLast? = some ⟨tag, codeRetire, .zeroized, []⟩ := by
    intro tag h n r e
    have := q8.retire tag h n r (by rw [hk4.2]; exact q1.held _ (hs1.2.1.trans e) (by simp))
    exact ⟨this.1, by rw [this.2]; simp⟩
  have hreclaim : ∀ tag b e, s.custProgress = some (.reclaim tag b e) →
      p' = none ∧ k'.completions.getLast? = some ⟨tag, codeReclaim, .zeroized, []⟩ := by
    intro tag b e he
    have := q8.reclaim tag b e (by rw [hk4.2]; exact q1.held _ (hs1.2.1.trans he) (by simp))
    exact ⟨this.1, by rw [this.2]; simp⟩
  have hcommit : ∀ tag o, s.custProgress = some (.commit tag) → s.ceremony.current = some o → o.programming = true →
      p' = none ∧ k'.completions = s.custLink.completions ++ [⟨tag, codeCommit, .zeroized, []⟩] := by
    intro tag o e ho hp
    have g := q1.commit tag o (hs1.2.1.trans e) (by rw [hs1.2.2]; exact ho) hp
    have g' := q8.other (by rw [hk4.2, g.1]; simp) (by rw [hk4.2, g.1]; simp)
    rw [hk4.1, hk4.2] at g'
    exact ⟨g'.1.trans g.1, by rw [g'.2, g.2, hs1.1]⟩
  have hreport : ∀ o, s.ceremony.current = some o → o.programming = false →
      ⟨o.tag, 0x00, .abandoned, 0x06 :: o.handle.bytes⟩ ∈ k'.completions ∨ c.undelivered = some .zeroization := by
    intro o ho hp
    rcases q1.report o (by rw [hs1.2.2]; exact ho) hp with g | g
    · exact .inl (q8.kept _ (by rw [hk4.1]; exact g))
    · exact .inr g
  have hbuffer : s.ceremony.current ≠ none → c.buffer = zeros32 := by
    intro g; exact q1.cleared (by rw [hs1.2.2]; exact g)
  have hidle := q1.idle
  subst hR
  rw [nextOwed_first _ (by simp [hcus])
    (by simp [hcon, ArrayControl.custodyBusy, ArrayControl.initial])
    (by simp [hret])]
  clear_value s1 s2 s3 s4 s5
  refine ⟨?_, ?_, ?_, ?_, ?_, ?_, ?_, ?_, ?_, ?_, ?_, rfl, ?_, ?_, ?_, ?_, ?_, ?_, ?_, ?_, ?_, ?_, ?_, ?_, ?_, ?_, ?_, ?_, ?_,
    ?_, ?_, rfl⟩
  · intro b; simp [hret, zeros32]
  · simp [hcus]
  · simp [hret]
  · simp [hret]
  · simp [hret]
  · simp only [withMonitor_retention, hret] <;> cases src <;> rfl
  · exact hslots
  · intro n hn; simp only [withMonitor_retention, hret]; exact hslotsRet n hn
  · intro b; simp only [withMonitor_directory, hbanks]; rw [put_get]; split
    · exact (hbank 0).1
    · exact (hbank b).1
  · show BankDir.condition (put _ (0 : Bank) _)[(0 : Bank)] = _; rw [put_get_same]
  · intro b hb; simp only [withMonitor_directory, hbanks]; rw [put_get_other _ _ _ _ (Ne.symm hb)]; exact (hbank b).2
  · simp [hcon, ArrayControl.initial]
  · simp [hcon, ArrayControl.initial]
  · simp [hcon]
  · intro e p; simp [State.pos, hpos, noPositions]
  · intro l; simp [hlp]
  · intro l; exact hlinks l
  · simp only [withMonitor_custLink, hk5.1]
    have hreq : k'.requests = s.custLink.requests := by rw [hkeep]
    rw [hreq]; exact hkeep
  · intro tag h n r e; simp only [withMonitor_custLink, withMonitor_custProgress, hk5.1, hk5.2]; exact hretire tag h n r e
  · intro tag b e he; simp only [withMonitor_custLink, withMonitor_custProgress, hk5.1, hk5.2]; exact hreclaim tag b e he
  · intro tag o e ho hp
    simp only [withMonitor_custLink, withMonitor_custProgress, hk5.1, hk5.2]; exact hcommit tag o e ho hp
  · intro o ho hp; simp only [withMonitor_custLink, withMonitor_ceremony, hk5.1, hcer]; exact hreport o ho hp
  · intro e; simp [hbus, Transmitter.zeroize, zeros32]
  · simp [hcer, hidle]
  · intro g; simp only [withMonitor_ceremony, hcer]; exact hbuffer g
  · simp [hall]
  · simp [hfus]
  · simp [hret]
  · simp [hret]
  · simp [hmon]

end Sys2Proof.Machine
end

