-- ==== Sys2Proof/WellFormed.lean ====
section
/-! DEFINITION. Which commands can be formed at all. The machine is total and does not rely on it. -/

namespace Sys2Proof

/-- A mask over the scan's reads names slots of the table, with at most the 56 bytes of a record (R100, R176). -/
def scanDriftWf (drift : List (Nat × List Byte)) : Bool :=
  drift.all fun d => d.1 < 128 && d.2.length ≤ 56

/-- A whole write of the request window code alone admits nothing (R187); a whole read clocks at least one byte; a
command carries some part of its transaction; a code comes first in a write, and a read writes nothing; a reply is of
the row's kind (11.7); a mask is no longer than what is read (R100); an erase is stopped only after 4 ms of run
time (R110). -/
def Instr.wf : Instr → Bool
  | .requestAdmitted _ _ message part => (part.opens != part.closes) || !message.isEmpty
  | .windowSelect _ _ code reads written part =>
    (part.opens || (code.isNone && (part.closes || !written.isEmpty || reads != 0))) &&
      (!part.opens || code.isSome || written.isEmpty)
  | .completionRead _ _ reads part => (part.opens != part.closes) || 0 < reads
  | .directoryRead _ _ reads part => (part.opens != part.closes) || 0 < reads
  | .accept _ reply => reply.head? == some 0x81
  | .refuse _ reply => reply.head? == some 0x82
  | .done _ reply => reply.head? == some 0x83
  | .readSlotComplete drift => drift.length ≤ 56
  | .patternTestResult drift => drift.length ≤ 32
  | .eraseSuspend ran => 4000 ≤ ran
  | .resetRelease _ drift _ => scanDriftWf drift
  | .commissionRestart _ drift => scanDriftWf drift
  | .crystalStarted drift => scanDriftWf drift
  | .directoryPointerWrite .. | .unknownRequestCode .. | .openCeremony | .component | .commit
  | .abandon | .switchDrop .. | .switchPresent .. | .ceremonyTimeout | .allocate | .hold | .unhold | .retire
  | .reclaim | .openServiceWindow | .closeServiceWindow | .serviceWindowExpiry | .setAlarmMask | .clearAlarms
  | .clearNvFault | .clearResetFlags | .zeroize | .rearm | .setTime | .commission | .bind .. | .extend ..
  | .release .. | .releaseAll .. | .clearBlocked .. | .frameSendStart .. | .frameSent .. | .replyTimeout ..
  | .engineReadyFall .. | .engineReadyRise .. | .arrayOperationStart | .programRecordDone | .programFailed
  | .programMarkEnd .. | .eraseComplete | .eraseFailed | .eraseSuspended | .suspensionCap | .doorEvent ..
  | .meshEvent .. | .enclosureNormal .. | .supplyHighEvent .. | .supplyNotHigh .. | .batteryLow .. | .batteryNotLow ..
  | .clockMeasurement .. | .patternTestInterval | .calendarSecond | .brownout .. | .mainPowerValid .. | .warmResetOnset ..
  | .crystalStartTimeout | .startUpComplete | .retentionMarkerLost | .commissionProgrammingEnd ..
  | .disregardedReply .. => true

end Sys2Proof
end

