-- ==== Sys2Proof/Tests/Slice0.lean ====
section
/-! SUPPORT. Tests: ill-formed commands, the worked cases of the spec's chapters, and for every statement with
hypotheses a state and operands that meet them, clause by clause (test_witness_<statement>). -/

namespace Sys2Proof.Tests

set_option Elab.async false

open Sys2Proof.Machine

/-! ## Well-formedness -/

theorem test_wf_message :
    (Instr.requestAdmitted .cust 0x21 [] .whole).wf = false ∧ (Instr.requestAdmitted .cust 0x21 [] ⟨true, false⟩).wf = true ∧
    (Instr.requestAdmitted .cust 0x21 [] ⟨false, false⟩).wf = false := by decide
theorem test_wf_reads :
    (Instr.completionRead .cust 0x21 0 .whole).wf = false ∧ (Instr.directoryRead .cust 0x21 0 .whole).wf = false := by
  decide
/-- A code in a later part of a write, an empty later part, bytes written in a read. -/
theorem test_wf_windows :
    (Instr.windowSelect .cust 0x21 (some 2) 0 [] ⟨false, true⟩).wf = false ∧
    (Instr.windowSelect .cust 0x21 none 0 [] ⟨false, false⟩).wf = false ∧
    (Instr.windowSelect .cust 0x21 none 1 [1] .whole).wf = false ∧
    (Instr.windowSelect .cust 0x21 (some 2) 0 [] .whole).wf = true := by decide
theorem test_wf_replies :
    (Instr.accept 0 [0x82]).wf = false ∧ (Instr.refuse 0 [0x81]).wf = false ∧ (Instr.done 0 []).wf = false := by
  decide
theorem test_wf_read_masks :
    (Instr.readSlotComplete (List.replicate 57 0)).wf = false ∧
    (Instr.patternTestResult (List.replicate 33 0)).wf = false := by decide
theorem test_wf_suspend : (Instr.eraseSuspend 3999).wf = false ∧ (Instr.eraseSuspend 4000).wf = true := by decide
theorem test_wf_scan_masks :
    (Instr.resetRelease true [(128, [])]).wf = false ∧ (Instr.commissionRestart true [(128, [])]).wf = false ∧
    (Instr.crystalStarted [(0, List.replicate 57 0)]).wf = false := by decide

/-! ## Worked cases: key assembly (02) -/

def c1 : List Byte := [0x01, 0x02, 0x04, 0x08, 0x10, 0x20, 0x40, 0x80, 0x01, 0x02, 0x04, 0x08, 0x10, 0x20, 0x40, 0x80]
def c2 : List Byte := List.replicate 16 0x07
def key1 : List Byte := [0x07, 0x04, 0x02, 0x0E, 0x16, 0x26, 0x46, 0x86, 0x07, 0x04, 0x02, 0x0E, 0x16, 0x26, 0x46, 0x86]
def cover1 : Vector Byte 32 :=
  table32 [0x5A, 0x3C, 0x96, 0xE1, 0x0F, 0x72, 0xC8, 0x2B, 0x11, 0xD4, 0x6E, 0xA3, 0x39, 0x8F, 0x50, 0xB7]
def masked1 : Vector Byte 32 :=
  table32 [0x5D, 0x38, 0x94, 0xEF, 0x19, 0x54, 0x8E, 0xAD, 0x16, 0xD0, 0x6C, 0xAD, 0x2F, 0xA9, 0x16, 0x31]

theorem test_check_words :
    checkWord c1 = (0xEF, 0x00) ∧ checkWord c2 = (0xBB, 0x70) ∧
    checkWord (List.replicate 15 0x07 ++ [0x06]) = (0xBA, 0x6F) ∧ checkWord key1 = (0x2A, 0x48) := by decide +kernel
theorem test_assembly :
    adjust 16 true (combine 16 c2 (combine 16 c1 zeros32)) = table32 key1 ∧
    maskValue 16 (table32 key1) cover1 = masked1 := by decide +kernel
theorem test_degenerate_key :
    weak ((adjust 24 true zeros32).toList.take 24) = true ∧ weak key1 = false := by decide +kernel

/-! ## Worked cases: calendar (08), clock monitor and pattern test (09) -/

theorem test_dates :
    validDate ⟨2100, 2, 29⟩ = false ∧ validDate ⟨2000, 2, 29⟩ = true ∧ validDate ⟨2196, 2, 29⟩ = true ∧
    validDate ⟨2031, 4, 31⟩ = false ∧ nextDay ⟨2099, 12, 31⟩ = ⟨2100, 1, 1⟩ ∧ nextDay ⟨2100, 2, 28⟩ = ⟨2100, 3, 1⟩ := by
  decide

/-! ## States the tests share -/

/-- The record of R182's defaults, addresses 0x20 and 0x21, with its check word. -/
def fuses1 : Vector Byte 64 :=
  let r : List Byte := [0x20, 0x21, 0x00, 1, 1, 1, 3, 39, 0, 195, 3, 2, 88, 2, 3, 2, 88, 7, 8] ++
    Config.factoryIdentity ++ List.replicate 31 0 ++ [0x5A]
  Vector.ofFn fun i => (r ++ cwBytes (checkWord r)).getD i.val 0

/-- The header of 02's worked case: DERIVATION, domain 6, 16 bytes, ODD, two components, 10,000 cards. -/
def header1 : Header :=
  Vector.ofFn fun i => ([6, 1, 16, 1, 2, 0, 0, 0, 0, 0, 0, 0x00, 0x27, 0x10, 0x2A, 0x48] : List Byte).getD i.val 0

def record1 : SlotRecord :=
  { written := true, header := header1, value := masked1, rcw := checkWord (coveredSequence header1 masked1)
    retire := .blank }

def bank1 : BankDir := { condition := .ready, degraded := false, lost := false, epoch := 0x29, reserved := false }

/-- A part in SERVICE: switches present, engines ready, line 0 allocated to domain 6, slot 37 ACTIVE. -/
def svc : State :=
  let k := State.reset
  { k with
    custody := { k.custody with present := .service, crystalOk := true, csa := true, csb := true, record := .verified,
                                offers := Vector.replicate 4 .done }
    fuses := fuses1
    array := { k.array with records := put k.array.records 37 record1
                            headers := Vector.replicate 4 { eraseCount := 41, erasing := false } }
    directory := { inUse := true
                   slots := put k.directory.slots 37 { SlotDir.cleared with state := .active, header := header1 }
                   banks := Vector.replicate 4 bank1 }
    retention := { Retention.reinitialised true with
      covers := Vector.replicate 4 { value := cover1, valid := true }
      slots := put (Retention.reinitialised true).slots 37 { SlotRetention.initial with remaining := 10000 }
      calendar := { date := ⟨2031, 3, 14⟩, time := ⟨23, 59, 58⟩, set := true, counting := true, sub := 32767 }
      enclosure := some { doorHigh := false, meshHigh := false, doorAction := .zeroize } }
    allocations := put k.allocations 0 { domain := 6, mask := 0x0F }
    buses := Vector.replicate 4 { Transmitter.initial with ready := true }
    monitor := { Monitor.initial with intervalTimer := some 0 } }

/-- The state in a given mode. -/
def inMode (m : Mode) (s : State) : State := { s with custody := { s.custody with present := m } }

/-- The state at a place of a start-up. -/
def starting (phase : StartPhase) (record : RecordState) (s : State) : State :=
  { s with custody := { s.custody with present := .starting, phase := phase, record := record } }

/-- A message stands at the head of the custodian port's queue. -/
def custHas (bytes : List Byte) (s : State) : State :=
  { s with custLink := { s.custLink with requests := [{ bytes := bytes, overlong := false }] } }

/-- A message stands at the head of line port 0's queue. -/
def lineHas (bytes : List Byte) (s : State) : State :=
  { s with lineLinks := put s.lineLinks 0 { s.lineLinks[0] with requests := [{ bytes := bytes, overlong := false }] } }

/-- The message of a list of bytes. -/
def msg (bytes : List Byte) : Message := { bytes := bytes, overlong := false }

/-- Four samples of one level. -/
def four4 (high : Bool) : Samples := Vector.replicate 4 high

/-- Four samples of which one differs: they agree with neither level. -/
def mixed4 : Samples := #v[true, true, false, true]

theorem test_witness_samples :
    (∀ high, ∀ i : Fin 4, (four4 high)[i] = high) ∧ (∃ i : Fin 4, mixed4[i] = false) ∧ (∃ i : Fin 4, mixed4[i] = true) := by
  decide +kernel

/-- The state after a command. -/
def run (c : Instr) (s : State) : State :=
  match exec c s with
  | .next t => t
  | _ => s

def handle37 : Handle := ⟨1, 5, 0x29⟩

/-- BIND of slot 37 for 7000 cards (11's worked case). -/
def bindBytes : List Byte := [0x10, 0x52, 0x01, 0x05, 0x29, 0x1B, 0x58]

def binding37 : Binding := { handle := handle37, slot := 37, reservation := 6000 }

/-- svc with a position of engine 0 replaced. -/
def withPos (p : Pos) (x : Position) (s : State) : State := s.setPos 0 p x

/-- svc with a frame awaiting its reply on bus 0, sent as number 0. -/
def awaiting (k : FrameKind) (s : State) : State :=
  s.withBus 0 fun t => { t with queue := [{ kind := k, stale := false }], state := .awaiting, replyTimer := true, frameNumber := 1 }

/-- svc with an operation executing. -/
def executing (x : ExecOp) (s : State) : State := { s with control := { s.control with exec := some x } }

/-- A ceremony on slot 38 whose first component is c1. -/
def open1 : OpenRecord :=
  { programming := false, handle := ⟨1, 6, 0x29⟩, slot := 38, domain := 6, cls := 1, len := 16, odd := true, count := 2
    next := .at 2, mismatches := 0, timer := 5, tag := 0x31 }

def ceremony1 (o : OpenRecord) (buffer : Vector Byte 32) (s : State) : State :=
  { s with ceremony := { current := some o, buffer := buffer, undelivered := none }
           directory := { s.directory with banks := put s.directory.banks 1 { bank1 with reserved := true } } }

/-! ## Worked cases on whole states -/

/-- 09's clock monitor table: baseline after the evaluation, or the fail count. -/
def clocked4 (a b c d : Nat) (baseline : Nat) : Nat × Nat :=
  let s := { svc with
    retention := { svc.retention with baseline := baseline }
    monitor := { svc.monitor with evaluation := [measured a, measured b, measured c] } }
  let t := run (.clockMeasurement d true) s
  (t.retention.baseline, t.monitor.failCount)

theorem test_clock_table :
    clocked4 3930 3928 3931 3929 3906 = (3909, 0) ∧ clocked4 3910 3912 3909 3911 3906 = (3906, 0) ∧
    clocked4 3990 3990 3990 3990 3906 = (3906, 1) ∧ clocked4 3893 3893 3893 3893 3906 = (3905, 0) ∧
    clocked4 3912 3911 4095 3910 3910 = (3910, 1) := by decide +kernel

/-- Three bits of row 0 read wrong: 3 mismatches over a threshold of 2, lowest byte 5. -/
theorem test_pattern_fail :
    let drift : List Byte := List.replicate 5 0 ++ [0x01] ++ List.replicate 14 0 ++ [0x80, 0x10]
    let t := run (.patternTestResult drift) (executing (.readReference 0) svc)
    (t.retention.tests[0].mismatches, t.retention.tests[0].fails, t.retention.tests[0].firstFail) = (3, 1, some 5) := by
  decide +kernel

/-- 11's worked case: the directory record, the BIND with 6000 cards left, its frame, the ACCEPT and the completion. -/
def bound1 : State :=
  let s := { svc with retention := { svc.retention with
    slots := put svc.retention.slots 37 { SlotRetention.initial with remaining := 6000 } } }
  let t := run (.readSlotComplete []) (run .arrayOperationStart (run (.bind 0) (lineHas bindBytes s)))
  run (.accept 0 (withCheckWord [0x81, 0, 0])) (run (.frameSent 0) (run (.frameSendStart 0) t))

theorem test_bind_case :
    bound1.lineLinks[0].completions.map Completion.bytes =
      [[0x0D, 0x52, 0x10, 0x02, 0x01, 0x05, 0x29, 0x00, 0x17, 0x70, 0x00, 0x17, 0x70]] ∧
    bound1.positions[0][0] = .bound binding37 ∧ bound1.buses[0].buffer = zeros32 := by decide +kernel
theorem test_load_frame :
    let t := run (.readSlotComplete []) (run .arrayOperationStart (run (.bind 0) (lineHas bindBytes svc)))
    t.buses[0].buffer = table32 key1 ∧ t.buses[0].queue = [⟨.load 0 1 16 (0x2A, 0x48), false⟩] := by decide +kernel
/-- Slot 37 once every card is reserved by two bindings. -/
theorem test_directory_record :
    (withPos 0 (.bound binding37) (withPos 1 (.bound binding37) { svc with retention := { svc.retention with
        slots := put svc.retention.slots 37 SlotRetention.initial } })).directoryRecord (.line 0) false 37 =
    [0x25, 0x29, 0x01, 0x04, 0x16, 0x05, 0, 0, 0, 0, 0, 0, 0, 0x27, 0x10, 0x2A, 0x48, 0, 0, 0, 0, 0, 0, 2] := by
  decide +kernel

/-! ## Witnesses -/

/-- A two-byte request of the custodian port in SERVICE. -/
def custBare (code : Byte) : State := custHas [code, 0x31] svc

theorem test_witness_StepRunsTheFrontCommand :
    ({ svc with pending := [.batteryLow, .brownout] } : State).pending = .batteryLow :: [.brownout] ∧
    svc.pending = [] := by decide +kernel
/-- A tick with three timers at 1 or 0 and the calendar at its last cycle queues the four expiries. -/
theorem test_tick : (ceremony1 { open1 with timer := 1 } zeros32
      { svc with monitor := { svc.monitor with windowTimer := some 1 } }).tick.pending =
    [.ceremonyTimeout, .serviceWindowExpiry, .patternTestInterval, .calendarSecond] := by decide +kernel
/-- Step 7 with a ready engine and an offer to make or made, and with none ready. -/
theorem test_witness_StepRunsTheFrontCommand_offers :
    (∀ o ∈ [Offer.toMake, .done],
      let s := starting .clearAllWait .verified
        { svc with custody := { svc.custody with offers := Vector.replicate 4 o } }
      s.pending = [] ∧ s.custody.present = .starting ∧ s.custody.phase = .clearAllWait ∧
      s.buses[(0 : Line)].ready = true ∧ s.custody.offers[(0 : Line)] = o) ∧
    (∀ e : Line, State.reset.buses[e].ready = false) ∧ svc.custody.present ≠ .starting := by decide +kernel

/-- For KeySafeIsKept, DirectoryCoherenceIsKept, CalendarStaysLegal and ModesKeepAgreeing: SERVICE with a command
waiting, and a quiet RECOVERY. -/
theorem test_witness_invariants :
    (∀ s ∈ [({ svc with pending := [.calendarSecond] } : State),
        inMode .recovery { svc with retention := { svc.retention with resume := .recovery } }],
      s.keySafe ∧ s.directoryCoherent ∧ s.calendarLegal ∧ s.modesAgree) ∧
    (∃ t, step { svc with pending := [.calendarSecond] } = .next t) := by
  unfold State.keySafe State.quiet State.directoryCoherent State.calendarLegal State.modesAgree
  exact ⟨by decide +kernel, _, rfl⟩

/-- Both ports; a queue one short of full and a full one; a wrong address; a message being assembled at 0 and 64 bytes, and
a write that refuses its bytes. -/
theorem test_witness_RequestAdmittedQueuesTheMessage :
    svc.custLink.transfer ≠ .message ∧ Part.whole.opens = true ∧
    (∀ n ∈ [0, 64], let s := svc.withLink .cust fun l => { l with transfer := .message, assembly := List.replicate n 7 }
      (s.link .cust).transfer = .message ∧ (s.link .cust).assembly.length ≤ 64) ∧
    ((svc.withLink .cust fun l => { l with transfer := .refusing }).link .cust).transfer = .refusing ∧
    (custBare 0x23).acknowledges .cust 0x21 = true ∧ (custBare 0x23).requestOpen .cust = true ∧
    svc.acknowledges (.line 3) 0x20 = true ∧ svc.requestOpen (.line 3) = true ∧
    svc.acknowledges .cust 0x20 = false ∧
    ({ svc with custLink := { svc.custLink with requests := [msg [1], msg [2]] } } : State).requestOpen .cust = false := by
  decide +kernel
/-- Where the custodian port answers in each mode, and in HALTED with a verified record and with none. -/
theorem test_witness_RequestAdmittedQueuesTheMessage_addresses :
    (∀ ma ∈ [(Mode.service, (0x21 : Address)), (.zeroizing, 0x21), (.recovery, 0x21), (.uncommissioned, 0x3C), (.halted, 0x21)],
      let s := inMode ma.1 svc
      s.custody.present = ma.1 ∧ s.custody.record = .verified ∧ s.acknowledges .cust ma.2 = true ∧
        s.acknowledges .cust 0x22 = false ∧ s.acknowledges (.line 3) 0x20 = s.lineServed) ∧
    (let s := inMode .halted { svc with custody := { svc.custody with record := .failed } }
     s.acknowledges .cust 0x3C = true ∧ s.acknowledges .cust 0x21 = false ∧ s.requestOpen .cust = false) ∧
    ∀ m ∈ [Mode.starting, .backup], (inMode m svc).custody.present = m := by decide +kernel

/-- A message sent in two parts is admitted at its stop: over a zeroization between them, and not over a reset, after which
its bytes are refused (R187, R194). -/
theorem test_message_in_parts :
    let a := run (.requestAdmitted .cust 0x21 [0x20] ⟨true, false⟩) svc
    let z := run (.requestAdmitted .cust 0x21 [0x31] ⟨false, true⟩) (run (.meshEvent (four4 false)) a)
    let r := run (.requestAdmitted .cust 0x21 [0x31] ⟨false, true⟩) (run .warmResetOnset a)
    z.custLink.requests = [msg [0x20, 0x31]] ∧ z.custLink.acks = List.replicate 4 true ∧
    r.custLink.requests = [] ∧ r.custLink.acks = [true, true, true, false] := by decide +kernel
/-- A directory read over an ALLOCATE: the record begun shows domain 6, the next, of another domain now, nothing (R191). -/
theorem test_directory_over_allocate :
    let s := svc.withLink (.line 0) fun l => { l with window := some .directory, pointer := 37 }
    let a := run (.directoryRead (.line 0) 0x20 23 ⟨true, false⟩) s
    let b := run (.directoryRead (.line 0) 0x20 4 ⟨false, true⟩) { a with
      allocations := put a.allocations 0 { domain := 7, mask := 15 } }
    b.lineLinks[0].sent.drop 23 = [0, 38, 0, 0xFE] ∧ b.lineLinks[0].pointer = 38 := by decide +kernel

theorem test_witness_WindowSelectSelectsAndShows :
    svc.acknowledges .cust 0x21 = true ∧ svc.requestOpen .cust = true ∧ svc.acknowledges (.line 0) 0x20 = true ∧
    svc.acknowledges .cust 0x20 = false ∧ svc.custLink.transfer ≠ .message ∧
    (∀ w ∈ [none, some Window.request, some .completion, some .portStatus, some .directory, some .identity,
        some .custodyStatus],
      ((svc.withLink .cust fun l => { l with window := w }).link .cust).window = w) ∧
    ((svc.withLink .cust fun l => { l with transfer := .record [1] }).link .cust).transfer = .record [1] := by
  decide +kernel

/-- The pointer at the first and at the last slot, with and without a directory. -/
theorem test_witness_DirectoryWindowFollowsItsPointer :
    svc.acknowledges (.line 0) 0x20 = true ∧ svc.acknowledges (.line 0) 0x21 = false ∧
    (∀ k ∈ [(0 : SlotNo), 127], ∀ use ∈ [true, false],
      let s := ({ svc with directory := { svc.directory with inUse := use } } : State).withLink .cust fun l =>
        { l with window := some .directory, pointer := k.val }
      s.acknowledges .cust 0x21 = true ∧ (s.link .cust).window = some .directory ∧ s.directory.inUse = use ∧
        (s.link .cust).transfer ≠ .message ∧ (s.link .cust).pointer ≤ 128) ∧
    (∀ left ∈ [[], [(1 : Byte)], [1, 2]],
      ((svc.withLink .cust fun l => { l with transfer := .directory left }).link .cust).transfer = .directory left) := by
  decide +kernel

theorem test_witness_CompletionReadSendsTheOldestCompletion :
    ∀ cs ∈ [[], [(⟨0x31, 0x23, .ok, []⟩ : Completion)]],
      ∀ x ∈ [Transfer.idle, .completion [1], .fill],
      let s := svc.withLink .cust fun l => { l with window := some .completion, completions := cs, transfer := x }
      s.acknowledges .cust 0x21 = true ∧ (s.link .cust).window = some .completion ∧
        (s.link .cust).completions = cs ∧ (s.link .cust).transfer = x ∧ x ≠ .message := by decide +kernel

/-- Completion data at 0 and 251 bytes; a port without a domain, and a slot of another domain. -/
theorem test_witness_WindowRecordsHaveTheirShape :
    (List.replicate 251 (0 : Byte)).length < 252 ∧ svc.allocations[(1 : Line)].domain = 0 ∧
    hDomain svc.directory.slots[(0 : SlotNo)].header ≠ svc.allocations[(0 : Line)].domain := by decide +kernel
/-- A slot its port sees, empty and not, with a length and a count of R4 and with an erased header; every mode. -/
theorem test_witness_WindowRecordsHaveTheirShape_fields :
    svc.allocations[(0 : Line)].domain ≠ 0 ∧
    hDomain svc.directory.slots[(37 : SlotNo)].header = svc.allocations[(0 : Line)].domain ∧
    svc.directory.slots[(37 : SlotNo)].state ≠ .empty ∧ svc.directory.slots[(38 : SlotNo)].state = .empty ∧
    (hDomain header1).toNat < 16 ∧ (hClass header1).toNat < 16 ∧ hLength header1 = 16 ∧ hCount header1 = 2 ∧
    (hParity header1).toNat < 2 ∧
    (let s := svc.withSlot 3 fun d => { d with state := .damaged }
     s.directory.slots[(3 : SlotNo)].header = Vector.replicate 22 0 ∧ s.directory.slots[(3 : SlotNo)].state ≠ .empty) ∧
    (∀ m ∈ [Mode.halted, .uncommissioned, .service], (inMode m svc).custody.present = m) := by decide +kernel

theorem test_witness_UnknownRequestCodeAnswersBadRequest :
    (∀ code ∈ [(0x0F : Byte), 0x15], (lineHas [code] svc).takeable (.line 0) = some (msg [code]) ∧
      (msg [code]).code ∉ [(0x10 : Byte), 0x11, 0x12, 0x13, 0x14]) ∧
    (∀ code ∈ [(0x1F : Byte), 0x24, 0x2F, 0x3F], (custHas [code] svc).takeable .cust = some (msg [code]) ∧
      ((msg [code]).code.toNat < 0x20 ∨ (0x23 < (msg [code]).code.toNat ∧ (msg [code]).code.toNat < 0x30) ∨
        0x3E < (msg [code]).code.toNat)) := by decide +kernel

/-- The five line codes, in SERVICE and outside it, with a message too short. -/
theorem test_witness_LineRequestsMeetTheGateAndTheForm :
    ∀ code ∈ [codeBind, codeExtend, codeRelease, codeReleaseAll, codeClearBlocked], ∀ m ∈ [Mode.service, .recovery],
      (inMode m (lineHas [code] svc)).takeable (.line 0) = some (msg [code]) ∧ (msg [code]).code = code ∧
      parseBind (msg [code]) = none ∧ parseExtend (msg [code]) = none ∧ parseRelease (msg [code]) = none ∧
      parseReleaseAll (msg [code]) = none ∧ parseNone (msg [code]) = none := by decide +kernel

/-- A message of each custodian request that has its form, in code order from OPEN. -/
def goodMessages : List (List Byte) :=
  [[0x20, 0x31, 1, 6, 0x29, 6, 1, 16, 1, 2], [0x21, 0x31, 1, 0xEF, 0x00] ++ c1,
   [0x22, 0x31, 0, 0x2A, 0x48] ++ List.replicate 9 0, [0x23, 0x31], [0x30, 0x31, 0, 6, 0x0F], [0x31, 0x31, 1, 5, 0x29],
   [0x32, 0x31, 1, 5, 0x29], [0x33, 0x31, 1, 5, 0x29, 0], [0x34, 0x31, 0], [0x35, 0x31]] ++
  [[0x36, 0x31], [0x37, 0x31, 0xFF], [0x38, 0x31, 0xFF], [0x39, 0x31], [0x3A, 0x31], [0x3B, 0x31], [0x3C, 0x31],
   [0x3D, 0x31, 199, 12, 31, 23, 59, 59], [0x3E, 0x31] ++ slice fuses1 0 62]

/-- The forms at the ends of their ranges, and one byte beyond them (R38, R40, R42, R58, R122, R183). -/
theorem test_forms :
    (parseBind (msg [0x10, 1, 1, 5, 0x29, 0xFF, 0xFF])).isSome ∧ (parseBind (msg [0x10, 1, 1, 5, 0x29, 0, 0])).isNone ∧
    (parseExtend (msg [0x11, 1, 3, 0, 1])).isSome ∧ (parseExtend (msg [0x11, 1, 4, 0, 1])).isNone ∧
    (parseRelease (msg [0x12, 1, 3, 0xFF, 0xFF, 0xFF])).isSome ∧ (parseReleaseAll (msg (List.replicate 14 0x13))).isSome ∧
    (parseReleaseAll (msg (List.replicate 13 0x13))).isNone ∧ (parseOpen (msg [0x20, 1, 1, 6, 0x29, 15, 4, 32, 0, 3])).isSome ∧
    (parseOpen (msg [0x20, 1, 1, 6, 0x29, 15, 4, 32, 1, 3])).isNone ∧
    (parseCommit (msg ([0x22, 1, 7] ++ List.replicate 11 1))).isSome ∧
    (parseCommit (msg ([0x22, 1, 8] ++ List.replicate 11 1))).isNone ∧ (parseRetire (msg [0x33, 1, 1, 5, 0x29, 2])).isNone ∧
    (parseAllocate (msg [0x30, 1, 3, 15, 16])).isNone ∧ (parseReclaim (msg [0x34, 1, 4])).isNone ∧
    (parseCommission fuses1 (msg ([0x3E, 1] ++ slice (put fuses1 0 0x78) 0 62))).isNone ∧
    (parseCommission fuses1 (msg ([0x3E, 1] ++ slice (put fuses1 19 0x78) 0 62))).isNone := by decide +kernel

/-- The modes in which the requests pass their gates. -/
def goodMode (r : CustRequest) : Mode :=
  if r.code = codeRearm then .recovery else if r.code = codeCommission then .uncommissioned else .service

/-- The three stops of every custodian request: gate, form (a message of one byte) and switches (none present). -/
theorem test_witness_CustodianRequestsMeetGateFormAndSwitches :
    ∀ rm ∈ custRequests.zip goodMessages,
      let s := inMode (goodMode rm.1) (custHas rm.2 svc)
      s.takeable .cust = some (msg rm.2) ∧ (msg rm.2).code = rm.1.code ∧ rm.1.gate s.custody.present = none ∧
      rm.1.form s (msg rm.2) = true ∧ rm.1.form s (msg [rm.1.code]) = false ∧
      (rm.1.gate .uncommissioned = some .mode ∨ rm.1.gate .zeroizing = some .zeroized) ∧
      (rm.1.need = .neither ∨
        ({ s with custody := { s.custody with csa := false, csb := false } } : State).switchesMeet rm.1.need = false) := by
  decide +kernel

/-! ### Ceremonies -/

def openBytes : List Byte := [0x20, 0x31, 1, 6, 0x29, 6, 1, 16, 1, 2]

theorem test_witness_OpenBeginsACeremony :
    let s := custHas openBytes svc
    let q : OpenRequest := { handle := ⟨1, 6, 0x29⟩, domain := 6, cls := 1, len := 16, odd := true, count := 2 }
    s.custPasses codeOpen gateService .both parseOpen (msg openBytes) q ∧ s.ceremony.current = none ∧
      s.resolve q.handle = some 38 ∧ s.directory.slots[(38 : SlotNo)].state = .empty ∧
      s.directory.banks[bankOf 38].condition = .ready ∧ s.directory.banks[bankOf 38].degraded = false ∧
      s.directory.banks[bankOf 38].lost = false := by
  unfold State.custPasses; decide +kernel
/-- OPEN with a ceremony COLLECTING and PROGRAMMING; a stale handle; an occupied slot; a bank not READY, degraded and lost. -/
theorem test_witness_OpenBeginsACeremony_refused :
    let q : OpenRequest := { handle := ⟨1, 6, 0x29⟩, domain := 6, cls := 1, len := 16, odd := true, count := 2 }
    let s := custHas openBytes svc
    (∀ o ∈ [open1, { open1 with programming := true }],
      let u := ceremony1 o zeros32 s
      u.custPasses codeOpen gateService .both parseOpen (msg openBytes) q ∧ u.ceremony.current = some o) ∧
    (let u := s.withSlot 38 fun d => { d with state := .retired }
     u.custPasses codeOpen gateService .both parseOpen (msg openBytes) q ∧ u.resolve q.handle = some 38 ∧
     u.directory.slots[(38 : SlotNo)].state ≠ .empty) ∧
    (∀ b ∈ [{ bank1 with condition := .eraseIncomplete }, { bank1 with degraded := true }, { bank1 with lost := true }],
      let u := { s with directory := { s.directory with banks := put s.directory.banks 1 b } }
      u.custPasses codeOpen gateService .both parseOpen (msg openBytes) q ∧ u.resolve q.handle = some 38 ∧
      (u.directory.banks[bankOf 38].condition ≠ .ready ∨ u.directory.banks[bankOf 38].degraded = true ∨
        u.directory.banks[bankOf 38].lost = true)) ∧
    (let u := { s with directory := { s.directory with banks := put s.directory.banks 1 { bank1 with epoch := 0x2A } } }
     u.custPasses codeOpen gateService .both parseOpen (msg openBytes) q ∧ u.ceremony.current = none ∧
     u.resolve q.handle = none) := by
  unfold State.custPasses; decide +kernel

/-- A COMPONENT of c2 at an index, with a word, after k mismatches. -/
def componentHyps (w : Byte × Byte) (k i : Nat) : Prop :=
  let o := { open1 with mismatches := k, next := .at i }
  let bytes := [0x21, 0x31, BitVec.ofNat 8 i, w.1, w.2] ++ c2
  let s := ceremony1 o (table32 c1) (custHas bytes svc)
  s.custPasses codeComponent gateService .both parseComponent (msg bytes) { index := i, word := w, bytes := c2 } ∧
    s.ceremony.current = some o ∧ o.programming = false ∧ c2.length = o.len ∧ o.next = .at i

/-- The last component and the first of two with a matching word; a wrong word at the second and third mismatch. -/
theorem test_witness_ComponentIsCombinedOrCounted :
    componentHyps (0xBB, 0x70) 0 2 ∧ componentHyps (0xBB, 0x70) 2 1 ∧ checkWord c2 = (0xBB, 0x70) ∧
    componentHyps (0xBA, 0x6F) 1 2 ∧ componentHyps (0xBA, 0x6F) 2 2 ∧ checkWord c2 ≠ (0xBA, 0x6F) := by
  unfold componentHyps State.custPasses; decide +kernel
/-- No COLLECTING ceremony; a component of another length; one at another index, and after the last. -/
theorem test_witness_ComponentIsCombinedOrCounted_refused :
    let bytes := [0x21, 0x31, 2, 0xBB, 0x70] ++ c2
    let q : ComponentRequest := { index := 2, word := (0xBB, 0x70), bytes := c2 }
    let s := custHas bytes svc
    s.custPasses codeComponent gateService .both parseComponent (msg bytes) q ∧ s.ceremony.current = none ∧
    (∀ o ∈ [{ open1 with programming := true }, { open1 with len := 24 }, { open1 with next := .at 1 },
        { open1 with next := .complete }],
      let u := ceremony1 o zeros32 s
      u.custPasses codeComponent gateService .both parseComponent (msg bytes) q ∧ u.ceremony.current = some o ∧
      (o.programming = true ∨ q.bytes.length ≠ o.len ∨ (q.bytes.length = o.len ∧ o.next ≠ .at q.index))) := by
  unfold State.custPasses; decide +kernel

def commitBytes : List Byte := [0x22, 0x31, 4, 0x2A, 0x48, 0, 0, 0, 0, 0, 0, 0x00, 0x27, 0x10]
def commit1 : CommitRequest := { kcw := (0x2A, 0x48), activation := none, expiry := none, allowance := some 10000 }
def collected (buffer : List Byte) : State :=
  ceremony1 { open1 with next := .complete } (table32 buffer) (custHas commitBytes svc)

/-- 02's key, a weak one (all 00) and one with another KCW. -/
theorem test_witness_CommitJudgesAndMasksTheKey :
    (∀ buffer ∈ [key1, List.replicate 16 0, c1],
      (collected buffer).custPasses codeCommit gateService .both parseCommit (msg commitBytes) commit1 ∧
      (collected buffer).ceremony.current = some { open1 with next := .complete } ∧
      commitDates (collected buffer).retention.calendar.set commit1 = none ∧
      (collected buffer).control.fault = false) ∧
    (let key (buffer : List Byte) := (adjust 16 true (table32 buffer)).toList.take 16
     weak (key key1) = false ∧ checkWord (key key1) = commit1.kcw ∧ weak (key (List.replicate 16 0)) = true ∧
     weak (key c1) = false ∧ checkWord (key c1) ≠ commit1.kcw) := by
  unfold State.custPasses; decide +kernel
/-- Dates on an unset calendar, an invalid one, an order the wrong way round, one day, and none. -/
theorem test_witness_CommitJudgesAndMasksTheKey_dates :
    let q (a x : Option Date) : CommitRequest := { commit1 with activation := a, expiry := x }
    commitDates false (q (some ⟨2031, 3, 14⟩) none) = some .clockUnset ∧
    commitDates true (q (some ⟨2100, 2, 29⟩) none) = some .badTime ∧
    commitDates true (q (some ⟨2031, 3, 14⟩) (some ⟨2031, 3, 13⟩)) = some .badTime ∧
    commitDates true (q (some ⟨2031, 3, 14⟩) (some ⟨2031, 3, 14⟩)) = none ∧ commitDates false (q none none) = none := by
  decide +kernel
/-- COMMIT with no ceremony, a PROGRAMMING one, a component missing, a date that is none, and the fault flag set. -/
theorem test_witness_CommitJudgesAndMasksTheKey_refused :
    (∀ o ∈ [none, some { open1 with programming := true }, some open1],
      let s := collected key1
      let u := { s with ceremony := { s.ceremony with current := o } }
      u.custPasses codeCommit gateService .both parseCommit (msg commitBytes) commit1 ∧ u.ceremony.current = o) ∧
    open1.next ≠ .complete ∧
    (let bytes : List Byte := [0x22, 0x31, 5, 0x2A, 0x48, 100, 2, 29, 0, 0, 0, 0x00, 0x27, 0x10]
     let q := { commit1 with activation := some ⟨2100, 2, 29⟩ }
     let s := ceremony1 { open1 with next := .complete } zeros32 (custHas bytes svc)
     s.custPasses codeCommit gateService .both parseCommit (msg bytes) q ∧
     commitDates s.retention.calendar.set q = some .badTime) ∧
    (let s := (collected key1).withControl fun c => { c with fault := true }
     s.custPasses codeCommit gateService .both parseCommit (msg commitBytes) commit1 ∧ s.control.fault = true ∧
     commitDates s.retention.calendar.set commit1 = none) := by
  unfold State.custPasses; decide +kernel

theorem test_commit_header :
    let s := run .arrayOperationStart (run .commit (collected (c1.zipWith (· ^^^ ·) c2)))
    s.control.exec = some (.programRecord { slot := 38, record :=
      let h : Header := Vector.ofFn fun i =>
        ([6, 1, 16, 1, 2, 0, 0, 0, 0, 0, 0, 0x00, 0x27, 0x10, 0x2A, 0x48, 31, 3, 14, 23, 59, 58] : List Byte).getD i.val 0
      { written := true, header := h, value := masked1, rcw := checkWord (coveredSequence h masked1), retire := .blank } }) := by
  decide +kernel

/-- ABANDON with and without a ceremony; each switch present and absent; a free entry and none. -/
theorem test_witness_AbandonSwitchesAndTimeoutEndCeremonies :
    (custBare 0x23).custPasses codeAbandon gateService .neither parseNone (msg [0x23, 0x31]) () ∧
    (ceremony1 open1 zeros32 (custBare 0x23)).custPasses codeAbandon gateService .neither parseNone
      (msg [0x23, 0x31]) () ∧
    (custBare 0x23).ceremony.current = none ∧ open1.programming = false ∧
    ({ svc with custProgress := some (.commit 0x31) } : State).custProgress = some (.commit 0x31) ∧
    svc.sampling = true ∧ svc.custody.csa = true ∧ svc.custody.csb = true ∧ svc.ceremony.current = none ∧
    (∀ w ∈ [Switch.csa, .csb], svc.activeHigh w = false ∧ (∀ i : Fin 4, (four4 false)[i] = svc.activeHigh w) ∧
      (∀ i : Fin 4, (four4 true)[i] = !svc.activeHigh w) ∧ (∃ i : Fin 4, #v[false, true, true, true][i] = svc.activeHigh w) ∧
      (∃ i : Fin 4, #v[false, true, true, true][i] ≠ svc.activeHigh w)) ∧
    open1.timer ≠ 0 ∧ ({ open1 with timer := 0 } : OpenRecord).programming = false ∧
    ({ svc with custody := { svc.custody with csa := false, csb := false } } : State).sampling = true ∧
    (∀ full ∈ [false, true],
      let s := ceremony1 open1 zeros32 { svc with custLink := { svc.custLink with
        completions := if full then [⟨1, 0x23, .ok, []⟩, ⟨2, 0x23, .ok, []⟩] else [] } }
      s.ceremony.current = some open1 ∧ s.sampling = true ∧ s.custEntryFree = !full) := by
  unfold State.custPasses; decide +kernel

/-- svc while a COMMIT's record is programmed. -/
def programming1 : State :=
  executing (.programRecord { slot := 38, record := record1 })
    { ceremony1 { open1 with programming := true } zeros32 svc with custProgress := some (.commit 0x31) }

/-- With the cover valid and after the loss of the marker; nothing waiting, and an administration operation waiting. -/
theorem test_witness_ProgramRecordEndsFillTheSlot :
    programming1.coverValid (bankOf 38) = true ∧ programming1.directory.slots[(38 : SlotNo)].state = .empty ∧
    (run .retentionMarkerLost programming1).coverValid (bankOf 38) = false ∧
    (run .retentionMarkerLost programming1).control = programming1.control ∧
    ({ programming1 with control := { programming1.control with adminWait := some (.mark 37) } } :
      State).control.adminWait = some (.mark 37) ∧
    programming1.control.exec = some (.programRecord { slot := 38, record := record1 }) ∧
    programming1.ceremony.current = some { open1 with programming := true } ∧
    programming1.custProgress = some (.commit 0x31) ∧ programming1.control.ceremonyWait = none ∧
    programming1.control.adminWait = none ∧ programming1.retention.marker = true := by decide +kernel

/-! ### Administration -/

/-- An ALLOCATE of line 0 with this domain and mask, whatever stands at position 3. -/
def allocateHyps (x : Position) (d k : Byte) : Prop :=
  (withPos 3 x (custHas [0x30, 0x31, 0, d, k] svc)).custPasses codeAllocate gateService .either parseAllocate
    (msg [0x30, 0x31, 0, d, k]) (0, d, k)

theorem test_witness_AllocateChangesTheRowOrNothing :
    allocateHyps .free 6 0x0F ∧ allocateHyps (.bound binding37) 6 0x0F ∧ allocateHyps (.bound binding37) 7 0x0F ∧
    allocateHyps (.bound binding37) 6 0x0E := by
  unfold allocateHyps State.custPasses; decide +kernel

/-- No binding; one at position 3 within domain and mask, outside the domain, outside the mask. -/
theorem test_witness_AllocateChangesTheRowOrNothing_bindings :
    (∀ p : Pos, (svc.pos 0 p).binding = none) ∧
    (let s := withPos 3 (.bound binding37) svc
     (s.pos 0 3).binding = some binding37 ∧ (∀ p ∈ [(0 : Pos), 1, 2], (s.pos 0 p).binding = none) ∧
     hDomain s.directory.slots[binding37.slot].header = 6 ∧
     classInMask (hClass s.directory.slots[binding37.slot].header) 0x0F = true ∧
     classInMask (hClass s.directory.slots[binding37.slot].header) 0x0E = false) := by
  decide +kernel

theorem test_witness_HoldAndUnholdSetTheHoldFlag :
    svc.resolve handle37 = some 37 ∧ svc.directory.slots[(37 : SlotNo)].state ≠ .empty ∧
    svc.directory.slots[(37 : SlotNo)].state ≠ .lost ∧
    (custHas [0x31, 0x31, 1, 5, 0x29] svc).custPasses codeHold gateService .either parseHandle
      (msg [0x31, 0x31, 1, 5, 0x29]) handle37 ∧
    (custHas [0x32, 0x31, 1, 5, 0x29] svc).custPasses codeUnhold gateService .either parseHandle
      (msg [0x32, 0x31, 1, 5, 0x29]) handle37 := by
  unfold State.custPasses; decide +kernel
/-- HOLD and UNHOLD of a stale handle, an EMPTY and a LOST slot. -/
theorem test_witness_HoldAndUnholdSetTheHoldFlag_refused :
    ∀ code ∈ [codeHold, codeUnhold],
      let s := custHas [code, 0x31, 1, 5, 0x29] svc
      (∀ st ∈ [SlotState.empty, .lost],
        let u := s.withSlot 37 fun d => { d with state := st }
        u.custPasses code gateService .either parseHandle (msg [code, 0x31, 1, 5, 0x29]) handle37 ∧
        u.resolve handle37 = some 37 ∧ u.directory.slots[(37 : SlotNo)].state = st) ∧
      (custHas [code, 0x31, 1, 5, 0x28] svc).custPasses code gateService .either parseHandle
        (msg [code, 0x31, 1, 5, 0x28]) ⟨1, 5, 0x28⟩ ∧ svc.resolve ⟨1, 5, 0x28⟩ = none := by
  unfold State.custPasses; decide +kernel

/-- Without recall into an empty administration slot; with recall and a BOUND position on the slot. -/
theorem test_witness_RetireSubmitsItsMarkAndRecalls :
    (∀ rc ∈ [false, true],
      let bytes := [0x33, 0x31, 1, 5, 0x29, boolByte rc]
      let s := withPos 0 (.bound binding37) (custHas bytes svc)
      s.custPasses codeRetire gateService .both parseRetire (msg bytes) (handle37, rc) ∧
      s.resolve handle37 = some 37 ∧ s.directory.slots[(37 : SlotNo)].state = .active ∧
      s.directory.slots[(37 : SlotNo)].retirePending = false ∧ s.control.adminWait = none ∧
      s.control.fault = false ∧ s.pos 0 0 = .bound binding37 ∧ binding37.slot = 37 ∧
      (s.pos 0 1).holds 37 = false) := by
  unfold State.custPasses; decide +kernel
/-- A set fault flag; a full administration slot; a LOADING position with its LOAD queued and one without. -/
theorem test_witness_RetireSubmitsItsMarkAndRecalls_waits :
    ({ svc with control := { svc.control with fault := true } } : State).control.fault = true ∧
    ({ svc with control := { svc.control with adminWait := some (.mark 3) } } : State).control.adminWait ≠ none ∧
    (let s := awaiting (.load 2 1 16 (0x2A, 0x48)) (withPos 2 (.loading binding37 false) svc)
     s.pos 0 2 = .loading binding37 false ∧
     { kind := FrameKind.load 2 1 16 (0x2A, 0x48), stale := false } ∈ s.buses[(0 : Line)].queue) ∧
    (withPos 2 (.loading binding37 false) svc).buses[(0 : Line)].queue = [] := by decide +kernel
/-- RETIRE of a stale handle, and of a slot in each state that refuses it. -/
theorem test_witness_RetireSubmitsItsMarkAndRecalls_refused :
    let bytes := [0x33, 0x31, 1, 5, 0x29, 1]
    let s := custHas bytes svc
    (∀ st ∈ [SlotState.empty, .lost, .damaged, .retired, .active],
      let u := s.withSlot 37 fun d => { d with state := st, retirePending := true }
      u.custPasses codeRetire gateService .both parseRetire (msg bytes) (handle37, true) ∧
      u.resolve handle37 = some 37 ∧ u.directory.slots[(37 : SlotNo)].state = st ∧
      u.directory.slots[(37 : SlotNo)].retirePending = true) ∧
    (let bytes := [0x33, 0x31, 1, 5, 0x28, 1]
     (custHas bytes svc).custPasses codeRetire gateService .both parseRetire (msg bytes) (⟨1, 5, 0x28⟩, true) ∧
     svc.resolve ⟨1, 5, 0x28⟩ = none) := by
  unfold State.custPasses; decide +kernel
/-- A recall acts on a BOUND position and a LOADING one whose LOAD is queued, two in all. -/
theorem test_witness_RetireSubmitsItsMarkAndRecalls_count :
    let s := awaiting (.load 2 1 16 (0x2A, 0x48)) (withPos 2 (.loading binding37 false) (withPos 0 (.bound binding37)
      (withPos 3 (.clearing binding37 .release) svc)))
    2 = (four.map fun e => (four.filter fun p => s.recallActs 37 e p).length).sum ∧ s.recallActs 37 0 2 = true ∧
    s.recallActs 37 0 0 = true ∧ s.recallActs 37 0 3 = false := by decide +kernel

theorem test_witness_ReclaimSubmitsItsErase :
    let s := custHas [0x34, 0x31, 3] svc
    s.custPasses codeReclaim gateRecovery .both parseReclaim (msg [0x34, 0x31, 3]) 3 ∧
      s.directory.banks[(3 : Bank)].condition ≠ .erasing ∧
      (∀ n : SlotNo, bankOf n = 3 → s.directory.slots[n].state ≠ .active ∧ s.liveCount n = 0) ∧
      s.directory.banks[(3 : Bank)].reserved = false ∧ s.control.fault = false ∧ s.control.adminWait = none ∧
      ({ s with control := { s.control with adminWait := some (.mark 3) } } : State).control.adminWait ≠ none := by
  unfold State.custPasses; decide +kernel
/-- RECLAIM of a bank ERASING, with an ACTIVE slot, with a live binding, reserved, and with the fault flag set. -/
theorem test_witness_ReclaimSubmitsItsErase_refused :
    let s := custHas [0x34, 0x31, 1] svc
    let quiet := s.withSlot 37 fun d => { d with state := .retired }
    let bank (x : BankDir) : State := { quiet with directory := { quiet.directory with banks := put quiet.directory.banks 1 x } }
    (∀ u ∈ [bank { bank1 with condition := .erasing }, s, withPos 3 (.bound binding37) quiet, bank { bank1 with reserved := true },
        quiet.withControl fun c => { c with fault := true }],
      u.custPasses codeReclaim gateRecovery .both parseReclaim (msg [0x34, 0x31, 1]) 1) ∧
    s.directory.slots[(37 : SlotNo)].state = .active ∧ bankOf 37 = 1 ∧ bank1.condition ≠ .erasing ∧
    0 < (withPos 3 (.bound binding37) quiet).liveCount 37 ∧ quiet.directory.banks[(1 : Bank)].reserved = false ∧
    (∀ n : SlotNo, bankOf n = 1 → quiet.directory.slots[n].state ≠ .active ∧ quiet.liveCount n = 0) := by
  unfold State.custPasses; decide +kernel

/-- The door and the window of a state. -/
def doorAndWindow (door : Bool) (act : Action) (w : Option Nat) (s : State) : State :=
  { s with
    retention := { s.retention with
      doorTamper := door, enclosure := some { doorHigh := false, meshHigh := false, doorAction := act } }
    monitor := { s.monitor with windowTimer := w } }

/-- The window closed, with time left and at 0; the door normal and open, with either action, in each mode that keeps
it. -/
theorem test_witness_ServiceWindowOpensAndCloses :
    (custBare 0x35).custPasses codeOpenWindow gateService .both parseNone (msg [0x35, 0x31]) () ∧
    (∀ w ∈ [none, some 0, some 1], ∀ door ∈ [false, true], ∀ act ∈ [Action.alarm, .zeroize],
      let s := doorAndWindow door act w (custBare 0x36)
      s.custPasses codeCloseWindow gateService .either parseNone (msg [0x36, 0x31]) () ∧
      s.monitor.windowTimer = w ∧ s.doorOpen = door ∧ s.doorAction = act ∧ s.custody.present = .service ∧
      (inMode .recovery s).custody.present = .recovery) := by
  unfold State.custPasses; decide +kernel

theorem test_witness_MaskFaultAndResetRequestsWrite :
    (custHas [0x37, 0x31, 0xFF] svc).custPasses codeSetMask gateService .either parseFlags (msg [0x37, 0x31, 0xFF]) 0xFF ∧
    (custBare 0x39).custPasses codeClearFault gateRecovery .either parseNone (msg [0x39, 0x31]) () ∧
    (custBare 0x3A).custPasses codeClearReset gateClears .either parseNone (msg [0x3A, 0x31]) () := by
  unfold State.custPasses; decide +kernel

theorem test_witness_ClearAlarmsClearsWhatHasCeased :
    (custHas [0x38, 0x31, 0xFF] svc).custPasses codeClearAlarms gateClears .either parseFlags
      (msg [0x38, 0x31, 0xFF]) 0xFF := by
  unfold State.custPasses; decide +kernel

/-- NV_FAULT and DOOR are latched and selected; the fault flag still stands. -/
theorem test_clear_alarms :
    let s := custHas [0x38, 0x31, 0xFF] { svc with
      retention := { svc.retention with alarmFlags := 0x41 }, control := { svc.control with fault := true } }
    (run .clearAlarms s).retention.alarmFlags = 0x40 := by decide +kernel

/-- The four steps of the checks; the latest moment, a leap day that is none, and an hour of 24. -/
theorem test_witness_SetTimeSetsTheCalendar :
    (∀ mode ∈ [Mode.zeroizing, .uncommissioned, .service, .recovery], ∀ n ∈ [6, 7],
      let bytes := [0x3D, 0x31] ++ List.replicate n (0 : Byte)
      let s := inMode mode { custHas bytes svc with custody := { svc.custody with csb := false } }
      s.takeable .cust = some (msg bytes) ∧ (msg bytes).code = codeSetTime ∧ s.custody.present = mode ∧
      ((msg bytes).bytes.length = 8 ↔ n = 6) ∧ (msg bytes).overlong = false ∧ s.custody.csb = false) ∧
    (∀ q ∈ [((⟨2199, 12, 31⟩ : Date), (⟨23, 59, 59⟩ : Time)), (⟨2100, 2, 29⟩, ⟨0, 0, 0⟩), (⟨2000, 2, 29⟩, ⟨24, 0, 0⟩)],
      let bytes := [0x3D, 0x31] ++ dateBytes q.1 ++ timeBytes q.2
      (custHas bytes svc).custPasses codeSetTime gateRecovery .both parseSetTime (msg bytes) q) ∧
    validDate ⟨2199, 12, 31⟩ = true ∧ validTime ⟨23, 59, 59⟩ = true ∧ validDate ⟨2100, 2, 29⟩ = false ∧
    validTime ⟨24, 0, 0⟩ = false ∧ svc.directory.slots[(37 : SlotNo)].state = .active := by
  unfold State.custPasses; decide +kernel

theorem test_witness_RearmReturnsToService :
    let s := inMode .recovery (custBare 0x3C)
    s.custPasses codeRearm gateRearm .both parseNone (msg [0x3C, 0x31]) () ∧ s.doorOpen = false ∧
      s.meshBroken = false ∧ s.monitor.supplyHigh = false ∧ s.monitor.failCount < s.failLimit := by
  unfold State.custPasses; decide +kernel
/-- The door alone standing, with either action, and the mesh standing beside it. -/
theorem test_witness_RearmReturnsToService_standing :
    (∀ act ∈ [Action.alarm, .zeroize], ∀ mesh ∈ [false, true],
      let s := inMode .recovery (doorAndWindow true act none { custBare 0x3C with
        retention := { svc.retention with resume := .recovery, meshTamper := mesh } })
      s.custPasses codeRearm gateRearm .both parseNone (msg [0x3C, 0x31]) () ∧ s.retention.marker = true ∧
      s.stands .door ∧ s.standingAction .door = act ∧ (s.stands .mesh ↔ mesh = true) ∧ ¬ s.stands .supplyHigh ∧
      ¬ s.stands .clock) := by
  unfold State.custPasses State.stands; decide +kernel

/-! ### Tamper events and the monitors -/

def settings1 : EnclosureSettings := { doorHigh := false, meshHigh := false, doorAction := .zeroize }

theorem test_witness_EventsInServiceBeginAZeroization :
    (custBare 0x3B).custPasses codeZeroize gateService .both parseNone (msg [0x3B, 0x31]) () ∧
    svc.retention.marker = true ∧ svc.custody.present = .service ∧ svc.retention.enclosure = some settings1 ∧
    svc.retention.doorTamper = false ∧ svc.monitor.windowTimer = none ∧ settings1.doorAction = .zeroize ∧
    svc.retention.meshTamper = false ∧ svc.custody.record = .verified ∧ svc.monitor.supplyHigh = false ∧
    svc.supplyAction = .zeroize ∧ (∀ i : Fin 4, (four4 false)[i] = settings1.doorHigh) ∧
    (∀ i : Fin 4, (four4 false)[i] = settings1.meshHigh) ∧ (∀ i : Fin 4, (four4 true)[i] = true) := by
  unfold State.custPasses; decide +kernel
/-- A zeroization breaks off a frame being sent, and keeps an outstanding one before its own CLEAR-ALL (R97). -/
theorem test_zeroization_frames :
    let z (st : TxState) (ready : Bool) : Transmitter := (run (.meshEvent (four4 false)) (svc.withBus 0 fun t => { t with
      queue := [⟨.clear 1, false⟩, ⟨.clear 2, false⟩], state := st, ready := ready })).buses[(0 : Line)]
    (z .sending true).state = .idle ∧ (z .sending true).lastEnd = .sendAbort ∧
    (z .sending true).queue = [⟨.clearAll, false⟩] ∧ (z .awaiting true).queue = [⟨.clear 1, true⟩, ⟨.clearAll, false⟩] ∧
    (z .awaiting true).state = .awaiting ∧ (z .idle false).queue = [] := by decide +kernel
/-- A COLLECTING ceremony with an entry free and with both taken, a PROGRAMMING one, and a RETIRE and a RECLAIM waiting. -/
theorem test_zeroization_reports :
    let s (o : OpenRecord) (x : Option CustProgress) (n : Nat) : State :=
      { ceremony1 o zeros32 svc with
        custProgress := x, custLink := { svc.custLink with completions := List.replicate n ⟨1, 0x23, .ok, []⟩ } }
    ∀ r ∈ [(s open1 none 1, [⟨0x31, 0, .abandoned, [6, 1, 6, 0x29]⟩], none), (s open1 none 2, [], some .zeroization),
        (s { open1 with programming := true } (some (.commit 7)) 1, [⟨7, codeCommit, .zeroized, []⟩], none),
        (s open1 (some (.retire 7 handle37 37 2)) 0,
          [⟨0x31, 0, .abandoned, [6, 1, 6, 0x29]⟩, ⟨7, codeRetire, .zeroized, []⟩], none),
        (s open1 (some (.reclaim 7 3 0x29)) 1, [⟨7, codeReclaim, .zeroized, []⟩], some .zeroization)],
      let t := run (.meshEvent (four4 false)) r.1
      t.custLink.completions = r.1.custLink.completions ++ r.2.1 ∧ t.ceremony.undelivered = r.2.2 := by decide +kernel

/-- 09's running zeroization by the mesh with a key bound on engine 0: covers gone, the binding charged, the record's
slot LOST, a CLEAR-ALL to the engine. -/
theorem test_mesh_zeroization :
    let t := run (.meshEvent (four4 false)) (withPos 0 (.bound binding37) svc)
    t.custody.present = .zeroizing ∧ t.retention.covers[1].valid = false ∧ t.directory.slots[37].state = .lost ∧
    t.retention.slots[37].issued = 6000 ∧ t.buses[0].queue = [⟨.clearAll, false⟩] ∧
    t.retention.alarmFlags = 0x82 ∧ t.control.custodyWait = some 0 := by decide +kernel

/-- Every mode, with the resume mode SERVICE and another, the window closed and open. -/
theorem test_witness_TamperEventsElsewhereAreJudgedByMode :
    (∀ m ∈ [Mode.service, .zeroizing, .recovery, .backup, .starting, .halted, .uncommissioned],
      ∀ r ∈ [ResumeMode.service, .recovery], ∀ w ∈ [none, some 5],
      let s := inMode m { svc with
        retention := { svc.retention with resume := r }, monitor := { svc.monitor with windowTimer := w } }
      s.custody.present = m ∧ s.retention.marker = true ∧ s.retention.enclosure = some settings1 ∧
        s.retention.resume = r ∧ s.monitor.windowTimer = w ∧ s.retention.doorTamper = false ∧
        s.retention.meshTamper = false ∧ s.monitor.supplyHigh = false ∧ s.custody.record = .verified) ∧
    (∃ i : Fin 4, #v[false, true, false, false][i] ≠ settings1.doorHigh) ∧ fuses1[4] ≠ 2 ∧ (put fuses1 4 2)[4] = 2 := by
  decide +kernel
/-- The evaluation that reaches the limit of 3, in SERVICE and at step 7, with either action. -/
theorem test_witness_TamperEventsElsewhereAreJudgedByMode_clock :
    (∀ s0 ∈ [svc, inMode .recovery svc, starting .clearAllWait .verified svc],
      let s := { s0 with monitor := { s0.monitor with
        failCount := 2, evaluation := [measured 4095, measured 3906, measured 3906] } }
      (s.custServed = true ∨ (s.custody.present = .starting ∧ s.custody.phase = .clearAllWait)) ∧
      s.monitor.current = ⟨0, false⟩ ∧ (measured 4095).saturated = true ∧ s.monitor.failCount + 1 = s.failLimit ∧
      s.custody.record = .verified ∧ s.retention.marker = true) ∧ 0 < min 4095 (0 + 3906) ∧ fuses1[5] ≠ 2 := by
  decide +kernel
/-- DOOR in BACKUP zeroizes unpowered, in HALTED with another resume mode it is recorded, and with the window open it alarms. -/
theorem test_door_by_mode :
    let door (s : State) : State := run (.doorEvent (four4 false)) s
    (door (inMode .backup svc)).retention.tamper.zPlace = some .unpowered ∧
    (door (inMode .halted { svc with retention := { svc.retention with resume := .recovery } })).retention.tamper.eOutcome =
      some .recorded ∧
    (door { svc with monitor := { svc.monitor with windowTimer := some 5 } }).retention.tamper.eOutcome =
      some .alarmed := by decide +kernel

theorem test_witness_MonitorsJudgeWithoutEvents :
    svc.custody.record = .verified ∧ svc.custody.present ≠ .backup ∧ svc.custody.present ≠ .halted ∧
    svc.retention.batteryLow = false ∧ svc.retention.marker = true ∧ svc.retention.enclosure = some settings1 ∧
    (∀ i : Fin 4, (four4 true)[i] = !settings1.doorHigh) ∧ (∃ i : Fin 4, mixed4[i] = settings1.meshHigh) ∧
    State.reset.retention.marker = false ∧ (∀ i : Fin 4, (four4 false)[i] = false) := by decide +kernel

/-- Four samples below the warning level judge the battery; three of four do not (R152). -/
theorem test_battery_samples :
    (run (.batteryLow (four4 true)) svc).retention.batteryLow = true ∧ run (.batteryLow mixed4) svc = svc ∧
    run (.batteryNotLow mixed4) (run (.batteryLow (four4 true)) svc) = run (.batteryLow (four4 true)) svc := by
  decide +kernel

/-- No measurement so far, a part of one before its end, and one that saturates; a blank record at step 7; a deviation at either edge of the band of 39 and one beyond each; a fail at counts 0 and 255,
and at the limit of 3. -/
theorem test_witness_ClockEvaluationPassesOrFails :
    svc.lineServed = true ∧ svc.custServed = true ∧ svc.monitor.evaluation.length < 3 ∧
    svc.monitor.current = ⟨0, false⟩ ∧ 0 < (measured 3906).count ∧ (measured 4095).saturated = true ∧
    svc.baselineLimit ≤ 1023 ∧ svc.custody.record = .verified ∧
    (let s := starting .clearAllWait .blank svc
     s.custody.present = .starting ∧ s.custody.phase = .clearAllWait ∧ s.custody.record = .blank) ∧
    (∀ cd ∈ [((3945 : Nat), (39 : Int)), (3867, -39), (3946, 40), (3866, -40)], ∀ k ∈ [0, 255, 2],
      let x := measured cd.1
      let s := { svc with monitor := { svc.monitor with failCount := k, evaluation := [x, x, x] } }
      s.lineServed = true ∧ s.monitor.evaluation = [x, x, x] ∧ x.saturated = false ∧ cd.1 < 4095 ∧
      cd.2 = ((x.count + x.count + x.count + x.count + 2) / 4 : Nat) - (s.retention.baseline : Int) ∧
      (if cd.2 = 39 ∨ cd.2 = -39 then -(s.passBand : Int) ≤ cd.2 ∧ cd.2 ≤ s.passBand
       else (cd.2 < -(s.passBand : Int) ∨ (s.passBand : Int) < cd.2) ∧
         passes [x, x, x, x] s.retention.baseline s.passBand = false) ∧
      s.custody.present = .service ∧ s.retention.marker = true ∧ s.clockAction = .zeroize ∧
      (if k = 2 then s.monitor.failCount < 255 ∧ s.monitor.failCount + 1 = s.failLimit
       else s.monitor.failCount = 255 ∨ s.monitor.failCount + 1 ≠ s.failLimit)) ∧
    (let s := { svc with monitor := { svc.monitor with evaluation := [measured 0, measured 0, measured 0] } }
     s.lineServed = true ∧ s.monitor.evaluation = [⟨0, false⟩, ⟨0, false⟩, ⟨0, false⟩] ∧
     s.passBand < s.retention.baseline ∧ s.monitor.failCount + 1 ≠ s.failLimit) := by
  decide +kernel

/-- No test outstanding and one waiting; no mismatch, the threshold of 2, and 3 mismatches at the third fail. -/
theorem test_witness_PatternTestsRunAndAreJudged :
    svc.custody.present = .service ∧ svc.monitor.intervalTimer = some 0 ∧ svc.control.testWait = none ∧
    ({ svc with monitor := { svc.monitor with intervalTimer := some 1 } } : State).monitor.intervalTimer ≠ some 0 ∧
    (∀ b : Bank, svc.control.exec ≠ some (.readReference b)) ∧
    ({ svc with control := { svc.control with testWait := some 0 } } : State).control.testWait.isSome = true ∧
    (let s := executing (.readReference 3) { svc with retention := { svc.retention with
        tests := put svc.retention.tests 3 { TestRecord.initial with fails := 2 } } }
     s.control.exec = some (.readReference 3) ∧
     mismatchCount (patternDiff s.array.rows[(3 : Bank)] []) = 0 ∧
     mismatchCount (patternDiff s.array.rows[(3 : Bank)] [0x81]) ≤ s.deltaThreshold ∧
     s.deltaThreshold < mismatchCount (patternDiff s.array.rows[(3 : Bank)] [0x91]) ∧
     s.retention.tests[(3 : Bank)].fails < 255 ∧
     s.retention.tests[(3 : Bank)].fails + 1 = s.testFailThreshold) := by decide +kernel
/-- A crossing with the degraded flag clear and set, a fail one short of the threshold and at 255; a bank ERASING at the
scheduler's turn. -/
theorem test_witness_PatternTestsRunAndAreJudged_degraded :
    (∀ deg ∈ [false, true], ∀ fails ∈ [1, 2, 255],
      let s := executing (.readReference 3) { svc with
        directory := { svc.directory with banks := put svc.directory.banks 3 { bank1 with degraded := deg } }
        retention := { svc.retention with tests := put svc.retention.tests 3 { TestRecord.initial with fails := fails } } }
      s.control.exec = some (.readReference 3) ∧ s.directory.banks[(3 : Bank)].degraded = deg ∧ s.lineServed = true ∧
      (if fails = 2 then s.retention.tests[(3 : Bank)].fails + 1 = s.testFailThreshold
       else s.retention.tests[(3 : Bank)].fails = 255 ∨ s.retention.tests[(3 : Bank)].fails + 1 ≠ s.testFailThreshold)) ∧
    (let s := { svc with
        control := { svc.control with testWait := some 3 }
        directory := { svc.directory with banks := put svc.directory.banks 3 { bank1 with condition := .erasing } } }
     s.control.exec = none ∧ s.control.suspended = none ∧ s.control.testWait = some 3 ∧
     s.directory.banks[(3 : Bank)].condition = .erasing ∧ s.control.readWaits 0 = false ∧ s.control.lastServed = 4 ∧
     (4 : Fin 5).val = (s.control.lastServed.val + 1 + 4) % 5 ∧
     ∀ k : Fin 5, k.val < 4 → s.control.readWaits k = false) := by decide +kernel
/-- The third fail of a bank latches BANK_DEGRADED (R17, R160). -/
theorem test_bank_degraded_latch :
    let s := executing (.readReference 3) { svc with
      retention := { svc.retention with tests := put svc.retention.tests 3 { TestRecord.initial with fails := 2 } } }
    let t := run (.patternTestResult [0x91]) s
    t.retention.alarmFlags = 0x20 ∧ t.directory.banks[3].degraded = true := by decide +kernel

/-- Within the day, the last second of it with and without a directory, and the latest moment. -/
theorem test_witness_CalendarSecondAdvancesTheTime :
    (∀ c ∈ [((⟨2031, 3, 14⟩ : Date), (⟨23, 59, 58⟩ : Time)), (⟨2031, 3, 14⟩, ⟨23, 59, 59⟩), (⟨2199, 12, 31⟩, ⟨23, 59, 59⟩)],
      ∀ use ∈ [true, false],
      let s := { svc with
        retention := { svc.retention with calendar := { svc.retention.calendar with date := c.1, time := c.2 } }
        directory := { svc.directory with inUse := use } }
      s.retention.calendar.counting = true ∧ s.retention.calendar.sub = 32767 ∧
        s.retention.calendar.time = ⟨23, 59, c.2.second⟩ ∧
        validTime ⟨23, 59, c.2.second⟩ = true ∧ s.directory.inUse = use ∧
        (if c.2.second = 58 then 3600 * 23 + 60 * 59 + c.2.second + 1 < 86400
         else 3600 * 23 + 60 * 59 + c.2.second + 1 = 86400) ∧
        (s.retention.calendar.date = ⟨2199, 12, 31⟩ ∨ s.retention.calendar.date ≠ ⟨2199, 12, 31⟩)) ∧
    (State.reset.retention.calendar.counting = false ∧ State.reset.retention.calendar.sub ≠ 32767) := by
  decide +kernel
/-- The day, the month and the year carry. -/
theorem test_witness_CalendarSecondAdvancesTheTime_carries :
    28 < monthLength 2096 2 ∧ monthLength 2100 2 ≤ 28 ∧ monthLength 2031 12 ≤ 31 ∧
    nextDay ⟨2096, 2, 28⟩ = ⟨2096, 2, 29⟩ ∧ nextDay ⟨2031, 12, 31⟩ = ⟨2032, 1, 1⟩ := by decide +kernel

/-! ### Bindings -/

/-- A metered slot at the lowest position, and the highest position the only FREE one. -/
theorem test_witness_BindReservesAndReads :
    ∀ ps ∈ [((0 : Pos), lineHas bindBytes svc),
        (3, withPos 0 .blocked (withPos 1 .blocked (withPos 2 .blocked (lineHas bindBytes svc))))],
      let s := ps.2
      s.linePasses 0 codeBind parseBind (msg bindBytes) (handle37, 7000) ∧ s.resolve handle37 = some 37 ∧
        s.bindable 0 37 ∧ s.buses[(0 : Line)].ready = true ∧ s.pos 0 ps.1 = .free ∧
        (∀ p' : Pos, p' < ps.1 → s.pos 0 p' ≠ .free) ∧
        (hAllowance s.directory.slots[(37 : SlotNo)].header).isSome = true ∧
        min 7000 s.retention.slots[(37 : SlotNo)].remaining = 7000 := by
  unfold State.linePasses State.bindable; decide +kernel

/-- Slot 37 with another directory entry. -/
def slot37 (f : SlotDir → SlotDir) : State := (lineHas bindBytes svc).withSlot 37 f

/-- The entry with these activation and expiry dates. -/
def dated (dates : List Byte) (d : SlotDir) : SlotDir :=
  let bytes : List Byte := [6, 1, 16, 1, 2] ++ dates ++ [0x00, 0x27, 0x10, 0x2A, 0x48]
  { d with header := Vector.ofFn fun i => bytes.getD i.val 0 }

/-- Each state of the slot; the hold flag; a dated key with the calendar unset, before its activation and after its
expiry. -/
theorem test_witness_BindIsRefusedInOrder_slot :
    (∀ st ∈ [SlotState.empty, .lost, .damaged, .retired, .active],
      let s := slot37 fun d => { d with state := st, retirePending := true }
      s.linePasses 0 codeBind parseBind (msg bindBytes) (handle37, 7000) ∧ s.resolve handle37 = some 37 ∧
      s.directory.slots[(37 : SlotNo)].state = st ∧ s.directory.slots[(37 : SlotNo)].retirePending = true) ∧
    ((lineHas bindBytes svc).withSlotRet 37 fun r => { r with hold := true }).retention.slots[(37 : SlotNo)].hold = true ∧
    (let a := slot37 (dated [31, 3, 15, 0, 0, 0])
     let x := slot37 (dated [31, 3, 14, 31, 3, 13])
     a.linePasses 0 codeBind parseBind (msg bindBytes) (handle37, 7000) ∧
     hDated a.directory.slots[(37 : SlotNo)].header = true ∧ a.retention.calendar.set = true ∧
     hActivation a.directory.slots[(37 : SlotNo)].header = some ⟨2031, 3, 15⟩ ∧
     dateBefore a.retention.calendar.date ⟨2031, 3, 15⟩ = true ∧
     dateBefore x.retention.calendar.date ⟨2031, 3, 14⟩ = false ∧
     hExpiry x.directory.slots[(37 : SlotNo)].header = some ⟨2031, 3, 13⟩ ∧
     dateBefore ⟨2031, 3, 13⟩ x.retention.calendar.date = true ∧
     ({ a.retention.calendar with set := false } : Calendar).set = false) := by
  unfold State.linePasses; decide +kernel

/-- A wrong epoch; a foreign domain; no engine; no position; no cards. -/
theorem test_witness_BindIsRefusedInOrder :
    let s := lineHas bindBytes svc
    s.linePasses 0 codeBind parseBind (msg bindBytes) (handle37, 7000) ∧
    (lineHas [0x10, 0x52, 1, 5, 0x28, 0, 1] svc).linePasses 0 codeBind parseBind
      (msg [0x10, 0x52, 1, 5, 0x28, 0, 1]) (⟨1, 5, 0x28⟩, 1) ∧
    s.resolve ⟨1, 5, 0x28⟩ = none ∧ s.resolve handle37 = some 37 ∧
    s.directory.slots[(37 : SlotNo)].state = .active ∧ s.directory.slots[(37 : SlotNo)].retirePending = false ∧
    hDomain s.directory.slots[(37 : SlotNo)].header ≠ ({ domain := 5, mask := 15 } : Allocation).domain ∧
    s.bindable 0 37 ∧ s.buses[(0 : Line)].ready = true ∧
    (s.withBus 0 fun t => { t with ready := false }).buses[(0 : Line)].ready = false ∧
    (let u := withPos 0 .blocked (withPos 1 .blocked (withPos 2 .blocked (withPos 3 .blocked s)))
     u.bindable 0 37 ∧ ∀ p : Pos, u.pos 0 p ≠ .free) ∧
    (let u := s.withSlotRet 37 fun r => { r with remaining := 0 }
     u.bindable 0 37 ∧ (∃ p : Pos, u.pos 0 p = .free) ∧
     (hAllowance u.directory.slots[(37 : SlotNo)].header).isSome = true ∧
     u.retention.slots[(37 : SlotNo)].remaining = 0) := by
  unfold State.linePasses State.bindable; decide +kernel

/-- svc with a BIND's read of slot 37 executing. -/
def reading1 : State :=
  executing (.readSlot 0 37) (withPos 0 (.loading binding37 false)
    { svc with lineProgress := put svc.lineProgress 0 (some (.bindReading 0x52 0 7000 6000)) })

/-- A record that verifies, one with a header bit read wrong, and one under another cover; a slot held meanwhile, a marker
lost, and an engine lost. -/
theorem test_witness_ReadSlotCompleteLoadsOrDamages :
    reading1.coverValid (bankOf 37) = true ∧
    (reading1.withSlotRet 37 fun r => { r with hold := true }).slotRecheck 37 = some .keyHeld ∧
    (run .retentionMarkerLost reading1).coverValid (bankOf 37) = false ∧
    (run .retentionMarkerLost reading1).lineProgress = reading1.lineProgress ∧
    (run (.engineReadyFall 0) reading1).lineProgress[(0 : Line)] = some (.bindLost 0x52) ∧
    (run (.engineReadyFall 0) reading1).control.exec = some (.readSlot 0 37) ∧
    reading1.control.exec = some (.readSlot 0 37) ∧ reading1.control.suspended = none ∧
    reading1.lineProgress[(0 : Line)] = some (.bindReading 0x52 0 7000 6000) ∧
    reading1.pos 0 0 = .loading binding37 false ∧ binding37.slot = 37 ∧
    rcwMatches (asRead reading1.array.records[(37 : SlotNo)] []) = true ∧
    kcwMatches (asRead reading1.array.records[(37 : SlotNo)] []) reading1.retention.covers[bankOf 37].value = true ∧
    reading1.slotRecheck 37 = none ∧ rcwMatches (asRead reading1.array.records[(37 : SlotNo)] [1]) = false ∧
    kcwMatches (asRead reading1.array.records[(37 : SlotNo)] []) zeros32 = false ∧
    reading1.directory.slots[(37 : SlotNo)].state = .active := by decide +kernel
/-- The read ends while an erase is suspended: with a line read left, with none and at the cap; a slot RETIRED meanwhile. -/
theorem test_witness_ReadSlotCompleteLoadsOrDamages_suspended :
    (∀ wait ∈ [none, some (5 : SlotNo)], ∀ cap ∈ [false, true],
      let s := reading1.withControl fun c => { c with
        suspended := some 3, capReached := cap, lineWait := put c.lineWait 2 wait }
      s.control.exec = some (.readSlot 0 37) ∧ s.control.suspended = some 3 ∧ s.pos 0 0 = .loading binding37 false ∧
      (run (.readSlotComplete []) s).control.exec =
        (if cap = true ∨ wait = none then some (.erase 3 false) else none)) ∧
    (let s := reading1.withSlot 37 fun d => { d with state := .retired }
     s.coverValid (bankOf 37) = true ∧ rcwMatches (asRead s.array.records[(37 : SlotNo)] [1]) = false ∧
     (run (.readSlotComplete [1]) s).directory.slots[37].state = .retired) := by decide +kernel

/-- A grant in part, one in full, and none. -/
theorem test_witness_ExtendGrowsTheReservation :
    ∀ r ∈ [5, 10000, 0],
      let s := (withPos 3 (.bound binding37) (lineHas [0x11, 0x52, 3, 0x00, 0x06] svc)).withSlotRet 37 fun x =>
        { x with remaining := r }
      s.linePasses 0 codeExtend parseExtend (msg [0x11, 0x52, 3, 0x00, 0x06]) (3, 6) ∧
        s.pos 0 3 = .bound binding37 ∧ s.slotRecheck binding37.slot = none ∧
        (hAllowance s.directory.slots[binding37.slot].header).isSome = true ∧
        min 6 s.retention.slots[binding37.slot].remaining = min 6 r := by
  unfold State.linePasses; decide +kernel
/-- EXTEND of a FREE position; of a BOUND one whose slot is in each state, held, undated, dated on an unset calendar, before
its activation, after its expiry, and within both. -/
theorem test_witness_ExtendGrowsTheReservation_refused :
    let s := lineHas [0x11, 0x52, 3, 0x00, 0x06] svc
    let u := withPos 3 (.bound binding37) s
    let unset := { u with retention := { u.retention with calendar := { u.retention.calendar with set := false } } }
    (∀ x ∈ [s, u, unset], x.linePasses 0 codeExtend parseExtend (msg [0x11, 0x52, 3, 0x00, 0x06]) (3, 6)) ∧
    s.pos 0 3 = .free ∧
    (∀ r ∈ [(SlotState.empty, OutcomeCode.slotEmpty), (.lost, .keyLost), (.damaged, .keyDamaged), (.retired, .keyRetired),
        (.active, .keyRetired)],
      (u.withSlot 37 fun d => { d with state := r.1, retirePending := true }).slotRecheck 37 = some r.2) ∧
    (u.withSlotRet 37 fun r => { r with hold := true }).slotRecheck 37 = some .keyHeld ∧ u.slotRecheck 37 = none ∧
    (unset.withSlot 37 (dated [31, 3, 14, 0, 0, 0])).slotRecheck 37 = some .clockUnset ∧
    (u.withSlot 37 (dated [31, 3, 15, 0, 0, 0])).slotRecheck 37 = some .keyNotActive ∧
    (u.withSlot 37 (dated [31, 3, 14, 31, 3, 13])).slotRecheck 37 = some .keyExpired ∧
    (u.withSlot 37 (dated [31, 3, 14, 31, 3, 14])).slotRecheck 37 = none := by
  unfold State.linePasses; decide +kernel

/-- Used up to the reservation and one beyond it; BOUND, CLEARING, ENDED, FREE and BLOCKED. -/
theorem test_witness_ReleaseClearsOrSettles :
    (∀ u ∈ [6000, 6001], ∀ x ∈ [Position.bound binding37, .clearing binding37 .recall,
        .ended binding37 .recalled true, .free, .blocked],
      let bytes := [0x12, 0x52, 0] ++ be24 u
      let s := withPos 0 x (lineHas bytes svc)
      s.linePasses 0 codeRelease parseRelease (msg bytes) (0, u) ∧ s.pos 0 0 = x) := by
  unfold State.linePasses; decide +kernel

theorem test_witness_SettlementConservesCards :
    (∀ issued ∈ [0, 16777215 - 6000],
      let s := svc.withSlotRet 37 fun r => { r with issued := issued }
      s.metered binding37.slot = true ∧ s.retention.slots[binding37.slot].issued + binding37.reservation ≤ 16777215) ∧
    svc.reserved 37 = 0 ∧
    (let s := withPos 3 (.bound binding37) (svc.withSlotRet 37 fun r => { r with remaining := 3000, issued := 1000 })
     hAllowance s.directory.slots[(37 : SlotNo)].header = some 10000 ∧
     s.directory.slots[(37 : SlotNo)].state = .active ∧
     s.retention.slots[(37 : SlotNo)].remaining + s.reserved 37 + s.retention.slots[(37 : SlotNo)].issued = 10000 ∧
     ∃ t, exec .brownout s = .next t) := by
  exact ⟨by decide +kernel, by decide +kernel, by decide +kernel, by decide +kernel, by decide +kernel, _, rfl⟩
/-- The issued total stops at 16,777,215; an unmetered slot gets nothing back (R60). -/
theorem test_settle_cap :
    let s := svc.withSlotRet 37 fun r => { r with issued := 16777214 }
    (s.settle binding37 5).retention.slots[37].issued = 16777215 ∧
    ((svc.withSlot 37 fun d => { d with header := Vector.replicate 22 0 }).settle binding37 5).retention.slots[37].remaining =
      10000 := by decide +kernel

def releaseAllBytes : List Byte := [0x13, 0x52] ++ be24 0 ++ be24 1 ++ be24 6000 ++ be24 16777215

/-- RELEASE ALL of an ENDED, a BLOCKED, a CLEARING and a BOUND position: the first two have their entries. -/
theorem test_release_all_mixture :
    let s := withPos 0 (.ended binding37 .engineLost true) (withPos 1 .blocked (withPos 2 (.clearing binding37 .recall)
      (withPos 3 (.bound binding37) (lineHas releaseAllBytes svc))))
    let t := run (.releaseAll 0) s
    t.lineProgress[0] = some (.releaseAll 0x52
      #v[.settled 0x17 0 false, .settled 0x15 0 false, .wait 6000, .wait 16777215]) ∧
    t.positions[0] = #v[.blocked, .blocked, .clearing binding37 .recall, .clearing binding37 .release] ∧
    t.buses[0].queue = [⟨.clear 3, false⟩] ∧ t.retention.slots[37].remaining = 16000 := by decide +kernel

/-- Four positions none of which waits, and four of which two do. -/
theorem test_witness_ReleaseAllAndClearBlockedQueueClears :
    (∀ x ∈ [Position.free, .bound binding37],
      let s := withPos 0 (.ended binding37 .engineLost true) (withPos 1 .blocked (withPos 2 x (withPos 3 x
        (lineHas releaseAllBytes svc))))
      s.linePasses 0 codeReleaseAll parseReleaseAll (msg releaseAllBytes) #v[0, 1, 6000, 16777215] ∧
      s.positions[(0 : Line)].toList = [.ended binding37 .engineLost true, .blocked, x, x]) ∧
    (lineHas [0x14, 0x52] svc).linePasses 0 codeClearBlocked parseNone (msg [0x14, 0x52]) () ∧
    (∀ p : Pos, svc.pos 0 p ≠ .blocked) ∧
    (withPos 3 .blocked (lineHas [0x14, 0x52] svc)).linePasses 0 codeClearBlocked parseNone (msg [0x14, 0x52]) () ∧
    (withPos 3 .blocked svc).pos 0 3 = .blocked := by
  unfold State.linePasses; decide +kernel

/-! ### Key buses -/

def load1 : FrameKind := .load 0 1 16 (0x2A, 0x48)

theorem test_witness_FramesAreSentInTurn :
    ∀ k ∈ [load1, .clear 3, .clearAll], ∀ st ∈ [TxState.idle, .sending], ∀ ready ∈ [true, false],
      let s := svc.withBus 0 fun t => { t with queue := [{ kind := k, stale := false }], state := st, ready := ready }
      s.buses[(0 : Line)].queue = { kind := k, stale := false } :: [] ∧ s.buses[(0 : Line)].state = st ∧
        s.buses[(0 : Line)].ready = ready := by decide +kernel
/-- A frame outstanding, and an empty queue. -/
theorem test_witness_FramesAreSentInTurn_one :
    (awaiting .clearAll svc).buses[(0 : Line)].state ≠ .idle ∧ (awaiting .clearAll svc).buses[(0 : Line)].state ≠ .sending ∧
    svc.buses[(0 : Line)].queue = [] ∧ run (.frameSendStart 0) (awaiting .clearAll svc) = awaiting .clearAll svc := by
  decide +kernel
/-- 11's LOAD frame of the key of 02: its check word is over the bytes before it. -/
theorem test_frame_bytes :
    let t := run (.readSlotComplete []) (run .arrayOperationStart (run (.bind 0) (lineHas bindBytes svc)))
    (run (.frameSendStart 0) t).buses[(0 : Line)].frameBytes load1 =
      withCheckWord ([0x01, 0, 0, 1, 16] ++ key1 ++ [0x2A, 0x48]) := by decide +kernel

theorem test_witness_LoadOutcomesSettleTheBind :
    (∀ rp ∈ [true, false],
      let s := awaiting load1 (withPos 0 (.loading binding37 rp)
        { svc with lineProgress := put svc.lineProgress 0 (some (.bindLoading 0x52 0 7000 6000)) })
      s.buses[(0 : Line)].state = .awaiting ∧ s.buses[(0 : Line)].queue = ⟨load1, false⟩ :: [] ∧
        s.pos 0 0 = .loading binding37 rp ∧ s.lineProgress[(0 : Line)] = some (.bindLoading 0x52 0 7000 6000)) := by
  decide +kernel

theorem test_witness_ClearOutcomesEndTheBinding :
    (let s := awaiting (.clear 3) (withPos 3 (.clearing binding37 .release)
        { svc with lineProgress := put svc.lineProgress 0 (some (.release 0x52 3 6001)) })
     s.buses[(0 : Line)].state = .awaiting ∧ s.buses[(0 : Line)].queue = ⟨.clear 3, false⟩ :: [] ∧
     s.pos 0 3 = .clearing binding37 .release ∧ s.lineProgress[(0 : Line)] = some (.release 0x52 3 6001)) ∧
    (let s := awaiting (.clear 0) (withPos 0 (.clearing binding37 .recall) svc)
     s.buses[(0 : Line)].state = .awaiting ∧ s.buses[(0 : Line)].queue = ⟨.clear 0, false⟩ :: [] ∧
     s.pos 0 0 = .clearing binding37 .recall ∧ s.lineProgress[(0 : Line)] = none) := by decide +kernel
/-- A RELEASE ALL with its last entry waiting and with another, over a release and a recall. -/
theorem test_witness_ClearOutcomesEndTheBinding_releaseAll :
    (∀ more ∈ [false, true], ∀ kind ∈ [ClearKind.release, .recall],
      let entries : Vector ReleaseEntry 4 :=
        put (put (Vector.replicate 4 (.settled 0 0 false)) 3 (.wait 6001)) 0 (if more then .wait 5 else .settled 0x15 0 false)
      let s := awaiting (.clear 3) (withPos 3 (.clearing binding37 kind)
        { svc with lineProgress := put svc.lineProgress 0 (some (.releaseAll 0x52 entries)) })
      s.buses[(0 : Line)].queue = ⟨.clear 3, false⟩ :: [] ∧ s.pos 0 3 = .clearing binding37 kind ∧
      s.lineProgress[(0 : Line)] = some (.releaseAll 0x52 entries) ∧ entries[(3 : Pos)] = .wait 6001 ∧
      (if more then entries[(0 : Pos)] = .wait 5
       else entries[(0 : Pos)] = .settled 0x15 0 false ∧ ∀ q ∈ [(1 : Pos), 2], entries[q] = .settled 0 0 false)) := by decide +kernel
/-- A CLEAR BLOCKED with its last clear outstanding and with another to come. -/
theorem test_witness_ClearOutcomesEndTheBinding_clearBlocked :
    (∀ more ∈ [false, true],
      let waiting : Vector Bool 4 := #v[more, false, false, true]
      let s := awaiting (.clear 3) (withPos 3 .blocked
        { svc with lineProgress := put svc.lineProgress 0 (some (.clearBlocked 0x52 waiting (Vector.replicate 4 false))) })
      s.buses[(0 : Line)].queue = ⟨.clear 3, false⟩ :: [] ∧ s.pos 0 3 = .blocked ∧
      s.lineProgress[(0 : Line)] = some (.clearBlocked 0x52 waiting (Vector.replicate 4 false)) ∧
      ((∃ q : Pos, q ≠ 3 ∧ waiting[q] = true) ↔ more = true)) := by decide +kernel
/-- A CLEAR-ALL outstanding with its offer in flight and done, and a frame of each kind from before a zeroization. -/
theorem test_witness_ClearOutcomesEndTheBinding_others :
    (∀ o ∈ [Offer.inFlight, .done],
      let s := awaiting .clearAll { svc with custody := { svc.custody with offers := Vector.replicate 4 o } }
      s.buses[(0 : Line)].state = .awaiting ∧ s.buses[(0 : Line)].queue = ⟨.clearAll, false⟩ :: [] ∧
      s.custody.offers[(0 : Line)] = o) ∧
    (∀ k ∈ [load1, .clear 0, .clearAll],
      let s := (awaiting k svc).withBus 0 fun t => { t with queue := [⟨k, true⟩] }
      s.buses[(0 : Line)].state = .awaiting ∧ s.buses[(0 : Line)].queue = ⟨k, true⟩ :: [] ∧
      (0 : Byte) = s.buses[(0 : Line)].frameNumber - 1) := by decide +kernel

/-- No frame outstanding; a wrong check word; the number after the frame's. -/
theorem test_witness_RepliesThatFailAConditionChangeNothing :
    svc.buses[(0 : Line)].state ≠ .awaiting ∧ ((0 : Byte), (1 : Byte)) ≠ checkWord [0x83, 0, 0] ∧
    (awaiting (.clear 0) svc).buses[(0 : Line)].state = .awaiting ∧
    (1 : Byte) ≠ (awaiting (.clear 0) svc).buses[(0 : Line)].frameNumber - 1 := by decide +kernel
/-- For the frame outstanding: another position, a REFUSE's reason of 0 and of 16, a DONE to a LOAD, and the command of
another kind. -/
theorem test_witness_RepliesThatFailAConditionChangeNothing_kinds :
    (∀ x ∈ [((0x81 : Byte), ([1] : List Byte)), (0x82, [0, 0]), (0x82, [0, 16]), (0x83, [0])], ¬ load1.answeredBy x.1 x.2) ∧
    ¬ (FrameKind.clear 3).answeredBy 0x83 [2] ∧ ¬ FrameKind.clearAll.answeredBy 0x83 [0] ∧
    (awaiting load1 svc).buses[(0 : Line)].queue.head? = some ⟨load1, false⟩ ∧
    (withCheckWord [0x83, 0, 0]).head? ≠ some 0x81 := by
  refine ⟨?_, ?_, ?_, by decide +kernel, by decide +kernel⟩
  · intro x hx
    simp only [List.mem_cons, List.not_mem_nil, or_false] at hx
    rcases hx with rfl | rfl | rfl | rfl <;> simp [load1, FrameKind.answeredBy]
  · simp [FrameKind.answeredBy]
  · simp [FrameKind.answeredBy]

theorem test_witness_EngineReadyChangesActOnTheEngine :
    svc.sampling = true ∧ svc.buses[(0 : Line)].ready = true ∧ svc.lineProgress[(0 : Line)] = none ∧
    (svc.withBus 0 fun t => { t with ready := false }).buses[(0 : Line)].ready = false ∧
    (let s := awaiting load1 (withPos 0 (.loading binding37 false)
        { svc with lineProgress := put svc.lineProgress 0 (some (.bindLoading 0x52 0 7000 6000)) })
     s.sampling = true ∧ s.buses[(0 : Line)].ready = true ∧ s.pos 0 0 = .loading binding37 false ∧
     s.lineProgress[(0 : Line)] = some (.bindLoading 0x52 0 7000 6000)) := by decide +kernel
/-- A read waiting and one executing; each release waiting for a CLEAR; a CLEAR BLOCKED. -/
theorem test_witness_EngineReadyChangesActOnTheEngine_requests :
    reading1.lineProgress[(0 : Line)] = some (.bindReading 0x52 0 7000 6000) ∧
    reading1.pos 0 0 = .loading binding37 false ∧ reading1.control.lineWait[(0 : Line)] = none ∧
    (reading1.withControl fun c => { c with lineWait := put c.lineWait 0 (some 37) }).control.lineWait[(0 : Line)].isSome =
      true ∧
    (let entries : Vector ReleaseEntry 4 := put (Vector.replicate 4 (.settled 0 0 false)) 3 (.wait 5)
     ∀ x ∈ [LineProgress.release 0x52 3 5, .releaseAll 0x52 entries,
        .clearBlocked 0x52 (Vector.replicate 4 false) (Vector.replicate 4 true)],
      let s := withPos 0 .blocked (withPos 3 (.clearing binding37 .release) (svc.setProgress 0 (some x)))
      s.lineProgress[(0 : Line)] = some x ∧ s.pos 0 3 = .clearing binding37 .release ∧ s.pos 0 0 = .blocked ∧
      entries[(3 : Pos)] = .wait 5 ∧ ∀ p ∈ [(0 : Pos), 1, 2], entries[p] = .settled 0 0 false) := by decide +kernel
/-- A fall with a BIND whose LOAD is out beside a LOADING, a BOUND, a recalled and a BLOCKED position: the reservation is
back (R61), the BOUND and the recalled one have ended (R78). -/
theorem test_fall_positions :
    let s := withPos 0 (.loading binding37 false) (withPos 1 (.bound binding37) (withPos 2 (.clearing binding37 .recall)
      (withPos 3 .blocked (svc.setProgress 0 (some (.bindLoading 0x52 0 7000 6000))))))
    let t := run (.engineReadyFall 0) s
    s.retention.slots[(37 : SlotNo)].issued ≤ 16777215 ∧ t.retention.slots[37].remaining = 16000 ∧
    t.positions[0] = #v[.free, .ended binding37 .engineLost false, .ended binding37 .engineLost false, .free] ∧
    t.lineLinks[0].completions.map (·.outcome) = [.engineAbsent] := by decide +kernel
/-- A fall under a RELEASE ALL that waits for one position. -/
theorem test_fall_release_all :
    let s := svc.setProgress 0 (some (.releaseAll 0x52 (put (Vector.replicate 4 (.settled 0 0 false)) 3 (.wait 5))))
    let t := run (.engineReadyFall 0) (withPos 3 (.clearing binding37 .release) s)
    t.lineLinks[0].completions.map (·.data) = [List.replicate 15 0 ++ [0x17, 0, 0, 5, 0]] ∧
    t.pos 0 3 = .free := by decide +kernel
/-- An engine ready and one not ready; four high samples make it ready, three of four do nothing (R93). -/
theorem test_engine_ready_samples :
    let s := run (.engineReadyFall 0) svc
    svc.buses[0].ready = true ∧ s.buses[0].ready = false ∧ (run (.engineReadyRise 0 (four4 true)) s).buses[0].ready = true ∧
    run (.engineReadyRise 0 mixed4) s = s ∧ run (.engineReadyFall 0 mixed4) svc = svc := by decide +kernel

/-! ### Array Controller -/

/-- The rotation from client 4 reaches line 0 first, from line 0 itself last. -/
theorem test_witness_ArbiterStartsTheNextOperation :
    (∀ jl ∈ [((0 : Nat), (4 : Fin 5)), (4, 0)],
      let s := { svc with control := { svc.control with
        lineWait := put svc.control.lineWait 0 (some 37), lastServed := jl.2 } }
      s.control.exec = none ∧ s.control.suspended = none ∧ s.control.lineWait[(0 : Line)] = some 37 ∧ jl.1 < 5 ∧
        s.control.turnOf 0) ∧
    (∀ k, svc.control.readWaits k = false) ∧ svc.control.exec = none ∧ svc.control.suspended = none ∧
    svc.control.custodyWait = none ∧ svc.control.ceremonyWait = none ∧ svc.custProgress = none ∧
    svc.control.lineReadWaits = false ∧
    (∀ op ∈ [AdminOp.mark 37, .erase 3 .ready],
      let s := { svc with control := { svc.control with
        adminWait := some op, custodyWait := some 0, ceremonyWait := some { slot := 38, record := record1 }, suspended := some 0 } }
      (∀ k, s.control.readWaits k = false) ∧ s.control.adminWait = some op ∧ s.control.custodyWait = some 0 ∧
        s.control.ceremonyWait = some { slot := 38, record := record1 } ∧ s.control.suspended = some 0) ∧
    (∀ x ∈ [CustProgress.retire 0x31 handle37 37 2, .reclaim 0x31 3 0x29],
      ({ svc with custProgress := some x } : State).custProgress = some x) ∧ svc.control.fault = false := by
  unfold ArrayControl.turnOf; decide +kernel
/-- The scheduler's turn before a waiting line (served last was line 1, line 0 waits). -/
theorem test_witness_ArbiterStartsTheNextOperation_turns :
    (let s := { svc with control := { svc.control with
        testWait := some 3, lineWait := put svc.control.lineWait 0 (some 37), lastServed := 1 } }
     s.control.exec = none ∧ s.control.suspended = none ∧ s.control.testWait = some 3 ∧ s.control.turnOf 4 ∧
     s.directory.banks[(3 : Bank)].condition ≠ .erasing ∧
     ({ bank1 with condition := .erasing } : BankDir).condition = .erasing) := by
  unfold ArrayControl.turnOf; decide +kernel
/-- An erase suspended with a line read waiting, before and at the cap. -/
theorem test_witness_ArbiterStartsTheNextOperation_suspended :
    (∀ cap ∈ [false, true],
      let s := { svc with control := { svc.control with
        testWait := some 3, lineWait := put svc.control.lineWait 0 (some 37), lastServed := 1, suspended := some 2
        capReached := cap } }
      s.control.exec = none ∧ s.control.suspended = some 2 ∧ s.control.lineWait[(0 : Line)] = some 37 ∧
      s.control.capReached = cap ∧ s.control.lineTurnOf 0) := by
  unfold ArrayControl.lineTurnOf; decide +kernel
/-- A request held with the fault flag set, on a slot ACTIVE and not. -/
theorem test_witness_ArbiterStartsTheNextOperation_fault :
    (∀ st ∈ [SlotState.active, .damaged], ∀ x ∈ [CustProgress.retire 0x31 handle37 37 2, .reclaim 0x31 3 0x29],
      let s := ({ svc with
        custProgress := some x
        control := { svc.control with adminWait := some (.mark 37), fault := true } } : State).withSlot 37 fun d =>
          { d with state := st }
      s.control.exec = none ∧ s.control.fault = true ∧ s.custProgress = some x ∧
      s.directory.slots[(37 : SlotNo)].state = st ∧ s.control.adminWait = some (.mark 37) ∧
      s.control.custodyWait = none ∧ s.control.ceremonyWait = none ∧ ∀ k, s.control.readWaits k = false) := by decide +kernel
/-- The mark of the bank is programmed as its erase begins, and a RETIRE that waited submits (R2, R106). -/
theorem test_erase_start :
    let t := run .arrayOperationStart { svc with
      control := { svc.control with adminWait := some (.erase 3 .ready) }
      custProgress := some (.retire 0x31 handle37 37 2) }
    t.array.headers[3].erasing = true ∧ t.control.exec = some (.erase 3 false) ∧ t.control.markFound = false ∧
    t.control.adminWait = some (.mark 37) ∧ t.custProgress = none := by decide +kernel

/-- 4 ms of run time and the last microsecond of executing time; 3,999 microseconds; the cap with and without a read. -/
theorem test_witness_EraseIsSuspendedForLineReads :
    (let s := executing (.erase 3 false) { svc with control := { svc.control with
        lineWait := put svc.control.lineWait 0 (some 37), execTime := 1495999 } }
     s.control.exec = some (.erase 3 false) ∧ s.control.suspending = false ∧ s.control.lineReadWaits = true ∧
     4000 ≤ 4000 ∧ s.control.execTime + 4000 < 1500000 ∧ (3999 < 4000 ∨ s.control.lineReadWaits = false) ∧
     (let u := { s with control := { s.control with suspending := true } }
      u.control.suspending = true ∧ u.control.exec = some (.erase 3 false) ∧ u.control.lineReadWaits = true)) ∧
    (executing (.erase 0 true) svc).control.exec = some (.erase 0 true) ∧
    (let s := { svc with control := { svc.control with suspended := some 3 } }
     s.control.suspended = some 3 ∧ s.control.exec = none ∧
     (executing (.readSlot 0 37) s).control.exec = some (.readSlot 0 37) ∧
     (executing (.readSlot 0 37) s).control.suspended = some 3) := by decide +kernel
/-- No read left when the suspension is reached; the pulse's last microsecond within the run. -/
theorem test_witness_EraseIsSuspendedForLineReads_resumes :
    (let s := executing (.erase 3 false) { svc with control := { svc.control with suspending := true, execTime := 1496000 } }
     s.control.exec = some (.erase 3 false) ∧ s.control.suspending = true ∧ s.control.lineReadWaits = false ∧
     1500000 ≤ s.control.execTime + 4000) ∧ svc.control.suspending = false := by decide +kernel

theorem test_witness_MarkEndRetiresTheSlot :
    let s := executing (.programMark 37) svc
    s.control.exec = some (.programMark 37) ∧ s.directory.slots[(37 : SlotNo)].state = .active ∧
      s.control.ceremonyWait = none ∧ s.control.adminWait = none ∧ s.retention.marker = true := by decide +kernel
/-- A slot that an integrity failure has made DAMAGED stays so, its latch clear, when its mark ends (R12, R127). -/
theorem test_witness_MarkEndRetiresTheSlot_damaged :
    let s := executing (.programMark 37) (svc.withSlot 37 fun d => { d with state := .damaged, retirePending := true })
    s.control.exec = some (.programMark 37) ∧ s.directory.slots[(37 : SlotNo)].state = .damaged ∧
      ∀ ok ∈ [true, false], let t := run (.programMarkEnd ok) s
        t.directory.slots[(37 : SlotNo)].state = .damaged ∧ t.directory.slots[(37 : SlotNo)].retirePending = false ∧
        t.retention.slots[(37 : SlotNo)].latch = false ∧ t.control.fault = !ok := by decide +kernel

theorem test_witness_EraseEndsAsItsRulesSay :
    ∀ custody ∈ [false, true], ∀ op ∈ [none, some (AdminOp.mark 37)],
      let s := executing (.erase 1 custody) { svc with control := { svc.control with adminWait := op } }
      s.control.exec = some (.erase 1 custody) ∧ s.control.suspending = false ∧ s.retention.marker = true ∧
        s.control.ceremonyWait = none ∧ s.control.adminWait = op := by decide +kernel
/-- The erase that brings the count to 20,000 latches BANK_DEGRADED; one that brings it to 19,999 and one of a bank already
degraded do not. -/
theorem test_erase_degrades :
    ∀ r ∈ [(19999, false, (0x20 : Byte)), (19998, false, 0), (19999, true, 0)],
      let u := { svc with
        array := { svc.array with headers := put svc.array.headers 1 { eraseCount := r.1, erasing := true } }
        directory := { svc.directory with
          banks := put svc.directory.banks 1 { bank1 with condition := .erasing, degraded := r.2.1 } } }
      let s := executing (.erase 1 false) u
      (run .eraseComplete s).retention.alarmFlags = r.2.2 := by decide +kernel
/-- A failed mark refuses a waiting one, whose slot is RETIRED (R114, R126). -/
theorem test_mark_failed_refuses :
    let t := run (.programMarkEnd false) (executing (.programMark 3)
      { svc with control := { svc.control with adminWait := some (.mark 37) } })
    t.control.fault = true ∧ t.control.adminWait = none ∧ t.directory.slots[37].state = .retired ∧
    t.retention.slots[37].latch = true := by decide +kernel

/-- The last owed erase, and one with bank 3 still owed. -/
theorem test_witness_OwedErasesLeadToRecovery :
    ∀ more ∈ [false, true],
      let s := executing (.erase 2 true) (inMode .zeroizing { svc with retention := { svc.retention with
        owed := put (put svc.retention.owed 2 true) 3 more } })
      s.control.exec = some (.erase 2 true) ∧ s.control.suspending = false ∧ s.control.custodyWait = none ∧
        s.custody.present = .zeroizing ∧
        (if more then s.retention.owed[(3 : Bank)] = true ∧ ∀ k : Bank, k < 3 → k ≠ 2 → s.retention.owed[k] = false
         else ∀ b' : Bank, b' ≠ 2 → s.retention.owed[b'] = false) := by decide +kernel

/-! ### Power, start-up, commissioning -/

theorem test_witness_BrownoutAndWarmResetEndTheVolatileState :
    svc.custody.present ≠ .backup ∧ ¬ (svc.custody.present = .starting ∧ svc.custody.phase = .inReset) ∧
    svc.retention.slots[(37 : SlotNo)].issued ≤ 16777215 ∧ svc.control.exec = none ∧ svc.control.suspended = none ∧
    svc.custProgress = none := by decide +kernel
/-- RESET held, and BACKUP. -/
theorem test_witness_BrownoutAndWarmResetEndTheVolatileState_reset :
    (let s := starting .inReset .notLoaded svc
     s.custody.present ≠ .backup ∧ s.custody.present = .starting ∧ s.custody.phase = .inReset ∧
     (run .brownout s).custody.present = .backup) ∧
    (inMode .backup svc).custody.present = .backup := by decide +kernel
/-- Each operation that a reset can stop, an erase executing and one suspended, behind a read too; and a COMMISSION. -/
theorem test_witness_BrownoutAndWarmResetEndTheVolatileState_stopped :
    (∀ x ∈ [ExecOp.readSlot 0 37, .readReference 1, .programRecord { slot := 38, record := record1 }, .programMark 37,
        .erase 1 false, .erase 1 true],
      (executing x svc).control.exec = some x ∧ (executing x svc).control.suspended = none) ∧
    (∀ x ∈ [none, some (ExecOp.readSlot 0 37)],
      let s := { svc with control := { svc.control with exec := x, suspended := some 1, markFound := true } }
      s.control.suspended = some 1 ∧ s.control.exec = x ∧ s.control.markFound = true) ∧
    ({ svc with custProgress := some (.commission 0x31 fuses1) } : State).custProgress =
      some (.commission 0x31 fuses1) := by decide +kernel
/-- One sample that differs leaves the power and the RESET line as they were judged (R172, R179, R180). -/
theorem test_power_samples :
    let r := run (.warmResetOnset (four4 true)) svc
    run (.brownout mixed4) svc = svc ∧ run (.warmResetOnset mixed4) svc = svc ∧ run (.resetRelease true [] mixed4) r = r ∧
    run (.mainPowerValid mixed4) State.reset = State.reset ∧
    (run (.resetRelease true [] (four4 false)) r).custody.phase = .clearAllWait := by decide +kernel

/-- Blank, verified and failed fuses. -/
theorem test_witness_MainPowerValidRunsTheFuseCheck :
    State.reset.custody.present = .backup ∧ State.reset.fuses[61] = 0 ∧ (inMode .backup svc).custody.present = .backup ∧
    svc.fuses[61] ≠ 0 ∧ checkWord (svc.fuses.toList.take 62) = (svc.fuses[62], svc.fuses[63]) ∧
    (let f := put svc.fuses 0 0x22
     f[61] ≠ 0 ∧ checkWord (f.toList.take 62) ≠ (f[62], f[63])) ∧
    svc.fuses[8].toNat * 256 + svc.fuses[9].toNat = 195 := by decide +kernel

theorem test_witness_StepFourEndsOrIsSkipped :
    let s := { State.reset with retention := { State.reset.retention with marker := true } }
    (starting .crystalWait .blank s).custody.present = .starting ∧
    (starting .crystalWait .blank s).custody.phase = .crystalWait ∧
    (starting .crystalWait .blank s).custody.record = .blank ∧
    (starting .crystalWait .blank s).retention.marker = true ∧
    (let u := starting .inReset .notLoaded { s with custody := { s.custody with crystalOk := true } }
     u.custody.present = .starting ∧ u.custody.phase = .inReset ∧ u.fuses[61] = 0 ∧ u.custody.crystalOk = true ∧
     u.retention.marker = true) := by decide +kernel
/-- A blank record and no validity marker: the first start-up from reset (R175). -/
theorem test_witness_StepFourEndsOrIsSkipped_lost :
    let s := run .mainPowerValid State.reset
    s.custody.present = .starting ∧ s.custody.phase = .crystalWait ∧ s.custody.record = .blank ∧
    s.retention.marker = false ∧ (run (.crystalStarted []) s).retention = freshRetention := by decide +kernel
/-- A verified and a failed record in RESET, the crystal running and not. -/
theorem test_witness_StepFourEndsOrIsSkipped_records :
    (∀ ok ∈ [false, true],
      let u := starting .inReset .notLoaded { svc with custody := { svc.custody with crystalOk := ok } }
      u.custody.present = .starting ∧ u.custody.phase = .inReset ∧ u.fuses[61] ≠ 0 ∧ u.custody.crystalOk = ok ∧
      checkWord (u.fuses.toList.take 62) = (u.fuses[62], u.fuses[63])) ∧
    (let f := put fuses1 0 0x22
     f[61] ≠ 0 ∧ checkWord (f.toList.take 62) ≠ (f[62], f[63])) := by decide +kernel

/-- Retention held and lost, over a written record and over none. -/
theorem test_witness_CrystalStartedBuildsTheDirectory :
    ∀ held ∈ [true, false], ∀ a ∈ [svc.array, KeyArray.factory],
      let s := starting .crystalWait .verified
        { svc with retention := { svc.retention with marker := held }, array := a }
      s.custody.present = .starting ∧ s.custody.phase = .crystalWait ∧ s.custody.record = .verified ∧
        s.retention.marker = held ∧ (∃ e : Line, s.buses[e].ready = true) ∧
        (∀ e : Line, ({ s.custody with offers := Vector.replicate 4 .toMake } : Custody).offers[e] = .toMake) ∧
        (∀ e : Line, State.reset.buses[e].ready = false) ∧
        ((∃ n : SlotNo, s.array.records[n].written = true) ∨ ∀ n : SlotNo, s.array.records[n].written = false) := by
  decide +kernel

theorem test_scan_finds_the_key :
    let t := run (.crystalStarted []) (starting .crystalWait .verified
      { svc with custody := { svc.custody with offers := Vector.replicate 4 .toMake } })
    t.directory.slots[37].state = .active ∧ t.directory.slots[36].state = .empty ∧
    t.buses[0].queue = [⟨.clearAll, false⟩] := by decide +kernel

theorem test_witness_StartUpCompleteEntersTheResumeMode :
    ∀ r ∈ [RecordState.blank, .verified], ∀ m ∈ [ResumeMode.service, .zeroizing, .recovery],
      let s := starting .clearAllWait r { svc with retention := { svc.retention with
        resume := m, owed := put svc.retention.owed 3 true } }
      s.custody.present = .starting ∧ s.custody.phase = .clearAllWait ∧ s.custody.record = r ∧
        s.retention.marker = true ∧ (∀ e : Line, s.custody.offers[e] = .done) ∧ s.retention.resume = m ∧
        s.retention.owed[(3 : Bank)] = true ∧ (∀ k : Bank, k < 3 → s.retention.owed[k] = false) ∧ s.control.exec = none ∧
        s.control.custodyWait = none := by decide +kernel
/-- Offers still to be made with no engine ready, with one ready, one in flight, and the marker lost. -/
theorem test_witness_StartUpCompleteEntersTheResumeMode_offers :
    let s (ready marker : Bool) : State := starting .clearAllWait .verified
      (({ svc with retention := { svc.retention with marker := marker } } : State).withBus 0 fun t => { t with ready := ready })
    let u (o : Offer) (ready marker : Bool) : State := (s ready marker).withCustody fun c => { c with
      offers := put (Vector.replicate 4 .done) 0 o }
    ∀ x ∈ [(Offer.toMake, false, true, Mode.service), (.toMake, true, true, .starting), (.inFlight, true, true, .starting),
        (.toMake, false, false, .service)],
      let t := u x.1 x.2.1 x.2.2.1
      t.custody.present = .starting ∧ t.custody.phase = .clearAllWait ∧ t.custody.record = .verified ∧
        t.custody.offers[(0 : Line)] = x.1 ∧ t.buses[(0 : Line)].ready = x.2.1 ∧ t.retention.marker = x.2.2.1 ∧
        (∀ e : Line, e ≠ 0 → t.custody.offers[e] = .done) ∧ (run .startUpComplete t).custody.present = x.2.2.2 := by
  decide +kernel

theorem test_witness_LostMarkerDisarmsRetention : svc.retention.marker = true := by decide +kernel

def done1 : Completion := ⟨0x31, codeCommission, .ok, []⟩
def done2 : Completion := ⟨0x32, codeCommission, .ok, []⟩

/-- svc UNCOMMISSIONED over given fuses, `n` COMMISSIONs passed, these completions waiting, a cycle of the second left. -/
def again (n : Nat) (cs : List Completion) (f : Vector Byte 64) : State :=
  inMode .uncommissioned { svc with
    custody := { svc.custody with restart := some 1, commissions := n }
    custLink := { svc.custLink with completions := cs }, fuses := f }

theorem test_witness_CommissioningProgramsAndRestarts :
    (let bytes := [0x3E, 0x31] ++ slice fuses1 0 62
     let s := inMode .uncommissioned (custHas bytes { svc with fuses := factoryFuses })
     s.custPasses codeCommission gateCommission .both (parseCommission s.fuses) (msg bytes) fuses1 ∧
     s.custody.restart = none ∧ (∀ i : Fin 64, s.fuses[i] &&& ~~~ fuses1[i] = 0)) ∧
    ({ svc with custProgress := some (.commission 0x31 fuses1) } : State).custProgress =
      some (.commission 0x31 fuses1) ∧
    (let s := inMode .uncommissioned { svc with custody := { svc.custody with restart := some 0 } }
     s.custody.present = .uncommissioned ∧ s.custody.restart = some 0 ∧ s.custProgress = none ∧ s.fuses[61] ≠ 0 ∧
     checkWord (s.fuses.toList.take 62) = (s.fuses[62], s.fuses[63]) ∧ s.custody.crystalOk = true ∧
     s.positions = noPositions ∧ s.control.exec = none ∧ s.control.suspended = none) ∧
    (let s := again 1 [] fuses1
     s.custody.restart = some 1 ∧ s.custProgress = none ∧ s.custody.present = .uncommissioned) := by
  unfold State.custPasses; decide +kernel

/-- Two that passed, both waiting and the first read out, and none of them waiting beside another completion. -/
theorem test_witness_CommissioningProgramsAndRestarts_restart :
    ∀ cn ∈ [([done1, done2], 2), ([done2], 1), ([⟨0x33, codeAbandon, .ok, []⟩], 0)],
      let s := again 2 cn.1 fuses1
      cn.2 = (s.custLink.completions.filter fun c => c.code == codeCommission && c.outcome == .ok).length ∧
      s.custody.commissions = 2 ∧ s.custody.crystalOk = true ∧ s.retention.marker = true := by decide +kernel
/-- Blank and failed fuses. -/
theorem test_witness_CommissioningProgramsAndRestarts_records :
    let f := put fuses1 0 0x22
    factoryFuses[61] = 0 ∧ f[61] ≠ 0 ∧ checkWord (f.toList.take 62) ≠ (f[62], f[63]) := by decide +kernel
/-- A second COMMISSION while the second runs. -/
theorem test_witness_CommissioningProgramsAndRestarts_second :
    let s := { again 1 [] fuses1 with custProgress := some (.commission 0x32 fuses1) }
    s.custProgress = some (.commission 0x32 fuses1) ∧ s.custody.restart = some 1 ∧
      ∀ i : Fin 64, s.fuses[i] &&& ~~~ fuses1[i] = 0 := by decide +kernel
/-- A programmed bit in the way, beside the marker's byte and in it alone; a blank record with no validity marker. -/
theorem test_witness_CommissioningProgramsAndRestarts_conflict :
    (∀ fi ∈ [((0 : Fin 64), true), (61, false)],
      let s := { again 1 [] (put factoryFuses fi.1 0xFF) with custProgress := some (.commission 0x32 fuses1) }
      s.custProgress = some (.commission 0x32 fuses1) ∧ (s.fuses[fi.1] &&& ~~~ fuses1[fi.1]) ≠ 0 ∧
      (fi.2 = true → fi.1 ≠ 61) ∧
      ∀ ok ∈ [true, false], (run (.commissionProgrammingEnd ok) s).custLink.completions.map (·.outcome) = [.programFailed]) ∧
    (let s := { again 1 [] factoryFuses with retention := State.reset.retention }
     s.retention.marker = false ∧ s.fuses[61] = 0 ∧ s.custProgress = none ∧ s.custody.crystalOk = true) := by
  decide +kernel

/-- A record already in the fuses completes OK whatever the command says, and one that is not fails short of it (log 55). -/
theorem test_commission_in_place :
    (∀ ok ∈ [true, false],
      let t := run (.commissionProgrammingEnd ok) { svc with custProgress := some (.commission 0x32 fuses1) }
      t.custLink.completions.map (·.outcome) = [.ok] ∧ t.fuses = fuses1) ∧
    factoryFuses ≠ fuses1 ∧
    (run (.commissionProgrammingEnd false)
      { svc with fuses := factoryFuses, custProgress := some (.commission 0x32 fuses1) }).custLink.completions.map
        (·.outcome) = [.programFailed] := by decide +kernel

/-- Two COMMISSIONs that passed: the first's completion read out lets the part restart; neither read, it waits (R183). -/
theorem test_restart_after_the_first_read :
    (run (.commissionRestart true []) (again 2 [done2] fuses1)).custody.present = .starting ∧
    run (.commissionRestart true []) (again 2 [done1, done2] fuses1) = again 2 [done1, done2] fuses1 := by decide +kernel
/-- A restart with a blank record is on the uncommissioned path, one with a failed record halts (R173, R183). -/
theorem test_restart_records :
    (let t := run (.commissionRestart true []) (again 2 [done2] factoryFuses)
     t.custody.phase = .clearAllWait ∧ t.custody.record = .blank ∧ t.retention.pendingMarks = 0) ∧
    (let t := run (.commissionRestart false []) (again 2 [] (put fuses1 0 0x22))
     t.custody.present = .halted ∧ t.custody.record = .failed ∧ t.retention.pendingMarks = 0x10 ∧
     t.custody.commissions = 0) := by decide +kernel

/-- 10's case, a new part to its first ceremony: reset, start-up, COMMISSION, its completion read out, restart, SERVICE. -/
def firstService : State :=
  let a := run .startUpComplete (run (.crystalStarted []) (run .mainPowerValid State.reset))
  let b := run (.switchPresent .csb (four4 true)) (run (.switchPresent .csa (four4 true)) a)
  let c := run (.commissionProgrammingEnd true) (run .commission (custHas ([0x3E, 0x31] ++ slice fuses1 0 62) b))
  let d := run (.windowSelect .cust 0x3C (some 0x02) 4 [] .whole) c
  run .startUpComplete (run (.crystalStarted []) (run (.commissionRestart false []) d))

theorem test_first_service : firstService.custody.present = .service ∧ firstService.fuses = fuses1 := by decide +kernel

end Sys2Proof.Tests
end

