-- ==== Sys2Proof/Proofs/Allocate.lean ====
section
/-! PROOF. ALLOCATE (R56, R123): which position forbids a new domain and mask, and what the request then does. -/

namespace Sys2Proof.Machine

/-- A binding that a new domain and mask leave allowed: its slot's domain is the new one and its class is in the new
mask (R56). -/
def State.permits (s : State) (domain mask : Byte) (b : Binding) : Prop :=
  hDomain s.directory.slots[b.slot].header = domain ∧
    classInMask (hClass s.directory.slots[b.slot].header) mask = true

/-- A position forbids a new domain and mask exactly when it holds a live binding they do not permit. -/
theorem conflicts_iff (s : State) (domain mask : Byte) (x : Position) :
    s.conflicts domain mask x = true ↔ ∃ b, x.binding = some b ∧ ¬ s.permits domain mask b := by
  unfold State.conflicts
  cases x.binding with
  | none => simp
  | some b => simp [State.permits, Decidable.imp_iff_not_or]

/-- The same judgement of a position that is no obstacle. -/
theorem conflicts_eq_false_iff (s : State) (domain mask : Byte) (x : Position) :
    s.conflicts domain mask x = false ↔ ∀ b, x.binding = some b → s.permits domain mask b := by
  simp [← Bool.not_eq_true, conflicts_iff]

/-! ## The lowest position that satisfies a predicate -/

/-- four lists the positions in increasing order, so its first hit is the lowest one. -/
theorem find_four_eq (f : Pos → Bool) : four.find? f = Fin.find? f :=
  have ascending : four = List.finRange 4 := by decide
  ascending ▸ Fin.find?_eq_find?_finRange.symm

/-! ## What the request does -/

/-- ALLOCATE that passes judges the port's positions and changes the row in the state its message is taken in. -/
theorem exec_allocate_of_passes {s : State} {m : Message} {q : Line × Byte × Byte}
    (h : s.custPasses codeAllocate gateService .either parseAllocate m q) :
    exec .allocate s = .next (takeAllocate m.tag q (s.custTaking m.tag)) :=
  congrArg Host.Outcome.next (takeCust_passes s codeAllocate gateService .either parseAllocate takeAllocate m q h)

/-- Taking the message moves no position and no slot, so the judgement is the state's before. -/
theorem conflicts_custTaking (s : State) (t domain mask : Byte) (l : Line) (p : Pos) :
    (s.custTaking t).conflicts domain mask ((s.custTaking t).pos l p) = s.conflicts domain mask (s.pos l p) := rfl

/-- No position forbids: the row is replaced and the request completes OK. -/
theorem takeAllocate_allowed (s : State) (m : Message) (h : s.takeable .cust = some m) (l : Line) (domain mask : Byte)
    (none_conflicts : ∀ p, s.conflicts domain mask (s.pos l p) = false) :
    takeAllocate m.tag (l, domain, mask) (s.custTaking m.tag) =
      { s.custAnswered m.tag codeAllocate .ok [BitVec.ofNat 8 l.val, domain, mask] with
        allocations := put s.allocations l { domain := domain, mask := mask } } := by
  rw [← finishCust_custTaking s m h m.tag]
  simp only [takeAllocate, conflicts_custTaking, find_four_eq, Fin.find?_eq_none_iff.mpr none_conflicts]
  rfl

/-- The lowest position that forbids is named in the PORT_BUSY completion, and nothing else changes. -/
theorem takeAllocate_busy (s : State) (m : Message) (h : s.takeable .cust = some m) (l : Line) (domain mask : Byte)
    (p : Pos) (hit : s.conflicts domain mask (s.pos l p) = true)
    (none_below : ∀ q < p, s.conflicts domain mask (s.pos l q) = false) :
    takeAllocate m.tag (l, domain, mask) (s.custTaking m.tag) =
      s.custAnswered m.tag codeAllocate .portBusy [BitVec.ofNat 8 l.val, BitVec.ofNat 8 p.val] := by
  rw [← finishCust_custTaking s m h m.tag]
  simp only [takeAllocate, conflicts_custTaking, find_four_eq, Fin.find?_eq_some_iff.mpr ⟨hit, none_below⟩]

/-- Settles O22: the judgement of R56 on the lowest position that forbids, in one act with the change. -/
theorem allocateChangesTheRowOrNothing : Obligations.AllocateChangesTheRowOrNothing := by
  intro s m l domain mask h
  have ⟨taken, _⟩ := h
  rw [exec_allocate_of_passes h]
  refine ⟨fun allowed => ?_, fun p b live forbids lower => ?_⟩
  · rw [takeAllocate_allowed s m taken l domain mask fun p => (conflicts_eq_false_iff ..).mpr (allowed p)]
  · have hit : s.conflicts domain mask (s.pos l p) = true :=
      (conflicts_iff ..).mpr ⟨b, live, fun ⟨inDomain, inMask⟩ =>
        forbids.elim (absurd inDomain) (by simpa using inMask)⟩
    have none_below (q : Pos) (hq : q < p) : s.conflicts domain mask (s.pos l q) = false :=
      (conflicts_eq_false_iff ..).mpr fun b' => lower q b' hq
    rw [takeAllocate_busy s m taken l domain mask p hit none_below]

end Sys2Proof.Machine
end

