-- ==== Sys2Proof/Proofs/ClearAlarms.lean ====
section
/-! PROOF. CLEAR ALARMS (R134): the byte of the holding conditions has its bits at the flags' places, and the request
clears the selected latched flags outside it. -/

namespace Sys2Proof.Machine

/-! ## The bytes of flags, bit by bit -/

/-- A number built from bits, bit 0 first, has them as its binary digits. -/
theorem testBit_foldr_bits (bits : List Bool) (i : Nat) :
    (bits.foldr (fun (b : Bool) acc => acc * 2 + b.toNat) 0).testBit i = bits.getD i false := by
  induction bits generalizing i with
  | nil => simp
  | cons b bs ih =>
    have digit (n : Nat) : n * 2 + b.toNat = Nat.bit b n := by rw [Nat.bit_val, Nat.mul_comm]
    rw [List.foldr_cons, digit]
    cases i with
    | zero => exact Nat.testBit_bit_zero b _
    | succ i => simp [Nat.testBit_bit_succ, ih]

/-- Each bit of a byte of flags is the flag in its place. -/
theorem getLsbD_bitsByte (bits : List Bool) {i : Nat} (h : i < 8) :
    (bitsByte bits).getLsbD i = bits.getD i false := by
  simp only [bitsByte, BitVec.getLsbD_ofNat, h, decide_true, Bool.true_and, testBit_foldr_bits]

theorem Alarm.bit_lt (a : Alarm) : a.bit < 8 := by cases a <;> decide

/-- The byte of the holding conditions has, at a flag's bit, that flag's condition (R134). -/
theorem getLsbD_holdingFlags (s : State) (a : Alarm) : s.holdingFlags.getLsbD a.bit = s.alarmHolds a := by
  rw [State.holdingFlags, getLsbD_bitsByte _ a.bit_lt]
  cases a <;> rfl

/-! ## The conditions and the line -/

/-- BANK_DEGRADED is held by any one of the four banks (R134). -/
theorem alarmHolds_bankDegraded_iff (s : State) :
    s.alarmHolds .bankDegraded = true ↔ ∃ b : Bank, s.directory.banks[b].degraded = true := by
  simp [State.alarmHolds, Vector.any_eq_true, Fin.exists_iff]

/-- In the modes in which the line ports are served the ALARM output is driven, so it shows the enabled latched flags
(R133, R161). -/
theorem alarmOutput_iff_of_lineServed {s : State} (served : s.lineServed = true) :
    s.alarmOutput = true ↔ s.retention.alarmFlags &&& s.retention.alarmMask ≠ 0 := by
  have modes : (s.custody.present = .service ∨ s.custody.present = .zeroizing) ∨ s.custody.present = .recovery := by
    simpa [State.lineServed] using served
  obtain (h | h) | h := modes <;> simp [State.alarmOutput, h]

/-! ## What the request does -/

/-- The selected latched flags whose condition no longer holds (R134). -/
def State.ceasedFlags (s : State) (selection : Byte) : Byte :=
  s.retention.alarmFlags &&& selection &&& ~~~ s.holdingFlags

theorem getLsbD_ceasedFlags (s : State) (selection : Byte) (a : Alarm) :
    (s.ceasedFlags selection).getLsbD a.bit =
      (s.retention.alarmFlags.getLsbD a.bit && selection.getLsbD a.bit && !s.alarmHolds a) := by
  simp only [State.ceasedFlags, BitVec.getLsbD_and, BitVec.getLsbD_not, a.bit_lt, decide_true, Bool.true_and,
    getLsbD_holdingFlags]

/-- CLEAR ALARMS that passes clears the ceased flags, and its completion lists them and the selected flags that stay. -/
theorem exec_clearAlarms_of_passes {s : State} {m : Message} {selection : Byte}
    (h : s.custPasses codeClearAlarms gateClears .either parseFlags m selection) :
    exec .clearAlarms s = .next
      { s.custAnswered m.tag codeClearAlarms .ok
          [s.ceasedFlags selection, s.retention.alarmFlags &&& selection &&& s.holdingFlags] with
        retention := { s.retention with
          alarmFlags := s.retention.alarmFlags &&& ~~~ s.ceasedFlags selection } } := by
  have taking := takeCust_passes s codeClearAlarms gateClears .either parseFlags takeClearAlarms m selection h
  have ⟨taken, _⟩ := h
  calc exec .clearAlarms s
    _ = .next (takeClearAlarms m.tag selection (s.custTaking m.tag)) := congrArg Host.Outcome.next taking
    _ = _ := by rw [← finishCust_custTaking s m taken m.tag]; rfl

/-- Settles O28: the conditions and the line hold by their definitions, and the request's three bytes are read off at
each flag's bit. -/
theorem clearAlarmsClearsWhatHasCeased : Obligations.ClearAlarmsClearsWhatHasCeased := by
  refine ⟨fun s => ⟨Iff.rfl, Iff.rfl, Iff.rfl, Iff.rfl, decide_eq_true_iff, alarmHolds_bankDegraded_iff s, Iff.rfl,
    beq_iff_eq, alarmOutput_iff_of_lineServed⟩, fun s m selection h => ?_⟩
  refine ⟨_, _, _, exec_clearAlarms_of_passes h, fun a => ⟨?flags, getLsbD_ceasedFlags s selection a, ?kept⟩⟩
  case flags =>
    simp only [BitVec.getLsbD_and, BitVec.getLsbD_not, a.bit_lt, getLsbD_ceasedFlags]
    cases s.retention.alarmFlags.getLsbD a.bit <;> simp
  case kept => simp only [BitVec.getLsbD_and, getLsbD_holdingFlags]

end Sys2Proof.Machine
end

