-- ==== Sys2Proof/Proofs/SetTime.lean ====
section
/-! PROOF. SET TIME (R142, R143, R146): its refusals in the order of R36, the judgement of the values, and the new time
with the shown flags evaluated against it. -/

namespace Sys2Proof.Machine

/-! ## The form of the message -/

theorem parseSetTime_eq_none_iff (m : Message) : parseSetTime m = none ↔ ¬ m.hasLength 8 := by
  rw [← not_iff_not, not_not, ← ne_eq, Option.ne_none_iff_exists']
  exact ⟨fun ⟨(d, t), parsed⟩ => ((parseSetTime_iff m d t).mp parsed).1,
    fun form => ⟨_, (parseSetTime_iff m _ _).mpr ⟨form, rfl, rfl⟩⟩⟩

/-! ## The evaluation of the shown flags (R146) -/

/-- A directory with the shown flags of its ACTIVE slots evaluated against a calendar (R146). -/
def Directory.evaluated (dir : Directory) (c : Calendar) : Directory :=
  { dir with slots := mapTable (fun e => if e.state = .active then e.evaluate c else e) dir.slots }

theorem evaluated_slot_of_active (dir : Directory) (c : Calendar) (n : SlotNo) (active : dir.slots[n].state = .active) :
    (dir.evaluated c).slots[n] = dir.slots[n].evaluate c := by
  simp only [Directory.evaluated, mapTable_get, active, if_true]

theorem evaluated_slot_of_not_active (dir : Directory) (c : Calendar) (n : SlotNo)
    (other : dir.slots[n].state ≠ .active) : (dir.evaluated c).slots[n] = dir.slots[n] := by
  simp only [Directory.evaluated, mapTable_get, if_neg other]

theorem evaluated_banks (dir : Directory) (c : Calendar) : (dir.evaluated c).banks = dir.banks := by
  simp only [Directory.evaluated]

/-- The sweep changes the directory alone. -/
theorem sweep_eq (s : State) : s.sweep = { s with directory := s.directory.evaluated s.retention.calendar } := rfl

/-! ## The judgement of the values and the new time -/

/-- A calendar set to a date and time, counting from the start of that second (R142). -/
def Calendar.startedAt (d : Date) (t : Time) : Calendar :=
  { date := d, time := t, set := true, counting := true, sub := 0 }

/-- The data of an OK completion: the calendar before the request and the new time (R142). -/
def Calendar.setTimeData (before : Calendar) (d : Date) (t : Time) : List Byte :=
  dateBytes before.date ++ timeBytes before.time ++ [boolByte before.set] ++ dateBytes d ++ timeBytes t

/-- Valid values: the calendar starts at the new time and the shown flags are evaluated against it. -/
theorem takeSetTime_of_valid (s : State) (m : Message) (taken : s.takeable .cust = some m) {d : Date} {t : Time}
    (date_ok : validDate d = true) (time_ok : validTime t = true) :
    takeSetTime m.tag (d, t) (s.custTaking m.tag) =
      { s.custAnswered m.tag codeSetTime .ok (s.retention.calendar.setTimeData d t) with
        retention := { s.retention with calendar := .startedAt d t }
        directory := s.directory.evaluated (.startedAt d t) } := by
  have values_ok : (validDate d && validTime t) = true := by rw [date_ok, time_ok, Bool.and_self]
  rw [← finishCust_custTaking s m taken m.tag]
  simp only [takeSetTime, values_ok, if_true, sweep_eq]
  rfl

theorem takeSetTime_of_invalid (s : State) (tag : Byte) {d : Date} {t : Time}
    (bad : validDate d = false ∨ validTime t = false) :
    takeSetTime tag (d, t) s = s.finishCust tag codeSetTime .badTime [] := by
  have values_bad : ¬ (validDate d && validTime t) = true := by
    rwa [Bool.not_eq_true, Bool.and_eq_false_iff]
  exact if_neg values_bad

/-! ## What the request does -/

section
variable {s : State} {m : Message}

theorem exec_setTime_of_gated {oc : OutcomeCode} (taken : s.takeable .cust = some m) (code : m.code = codeSetTime)
    (gate : gateRecovery s.custody.present = some oc) :
    exec .setTime s = .next (s.custAnswered m.tag codeSetTime oc []) := by
  rw [← finishCust_custTaking s m taken m.tag]
  exact congrArg Host.Outcome.next (takeCust_gated _ _ _ _ _ _ m oc taken code gate)

theorem exec_setTime_of_malformed (taken : s.takeable .cust = some m) (code : m.code = codeSetTime)
    (gate : gateRecovery s.custody.present = none) (form : ¬ m.hasLength 8) :
    exec .setTime s = .next (s.custAnswered m.tag codeSetTime .badRequest []) := by
  rw [← finishCust_custTaking s m taken m.tag]
  exact congrArg Host.Outcome.next
    (takeCust_malformed _ _ _ _ _ _ m taken code gate ((parseSetTime_eq_none_iff m).mpr form))

theorem exec_setTime_of_switches (taken : s.takeable .cust = some m) (code : m.code = codeSetTime)
    (gate : gateRecovery s.custody.present = none) (form : m.hasLength 8) (unmet : s.switchesMeet .both = false) :
    exec .setTime s = .next (s.custAnswered m.tag codeSetTime .switches []) := by
  rw [← finishCust_custTaking s m taken m.tag]
  have parsed := (parseSetTime_iff m _ _).mpr ⟨form, rfl, rfl⟩
  exact congrArg Host.Outcome.next (takeCust_switches _ _ _ _ _ _ m _ taken code gate parsed unmet)

theorem exec_setTime_of_passes {q : Date × Time} (h : s.custPasses codeSetTime gateRecovery .both parseSetTime m q) :
    exec .setTime s = .next (takeSetTime m.tag q (s.custTaking m.tag)) :=
  congrArg Host.Outcome.next (takeCust_passes s codeSetTime gateRecovery .both parseSetTime takeSetTime m q h)

/-- SET TIME that passes with valid values sets the time and lists the calendar before and the time after. -/
theorem exec_setTime_of_valid {d : Date} {t : Time}
    (h : s.custPasses codeSetTime gateRecovery .both parseSetTime m (d, t)) (date_ok : validDate d = true)
    (time_ok : validTime t = true) :
    exec .setTime s = .next
      { s.custAnswered m.tag codeSetTime .ok (s.retention.calendar.setTimeData d t) with
        retention := { s.retention with calendar := .startedAt d t }
        directory := s.directory.evaluated (.startedAt d t) } := by
  rw [exec_setTime_of_passes h, takeSetTime_of_valid s m h.1 date_ok time_ok]

theorem exec_setTime_of_invalid {d : Date} {t : Time}
    (h : s.custPasses codeSetTime gateRecovery .both parseSetTime m (d, t))
    (bad : validDate d = false ∨ validTime t = false) :
    exec .setTime s = .next (s.custAnswered m.tag codeSetTime .badTime []) := by
  rw [exec_setTime_of_passes h, takeSetTime_of_invalid _ _ bad, finishCust_custTaking s m h.1]

end

/-- Settles O29: each refusal is its step of R36's order; a request that passes them all is judged by its values. -/
theorem setTimeSetsTheCalendar : Obligations.SetTimeSetsTheCalendar := by
  refine ⟨fun s m taken code => ⟨fun zeroizing => ?_, fun uncommissioned => ?_, fun served => ?_⟩,
    fun s m d t h => ⟨fun date_ok time_ok => ?_, exec_setTime_of_invalid h⟩⟩
  · exact exec_setTime_of_gated taken code (zeroizing ▸ rfl)
  · exact exec_setTime_of_gated taken code (uncommissioned ▸ rfl)
  · have gate : gateRecovery s.custody.present = none := by obtain mode | mode := served <;> rw [mode] <;> rfl
    refine ⟨fun wrong => exec_setTime_of_malformed taken code gate fun ⟨length, whole⟩ => ?_,
      fun length whole absent => exec_setTime_of_switches taken code gate ⟨length, whole⟩ ?_⟩
    · exact wrong.elim (absurd length) (by simp [whole])
    · exact Bool.and_eq_false_iff.mpr absent
  · exact ⟨_, exec_setTime_of_valid h date_ok time_ok, rfl, rfl, evaluated_slot_of_not_active _ _,
      evaluated_slot_of_active _ _, evaluated_banks _ _, rfl, rfl, rfl, rfl, rfl, rfl, rfl, rfl, rfl⟩

end Sys2Proof.Machine
end

section
/-! PROOF. What every command keeps: the queue behind it, a legal calendar, agreeing modes and a coherent directory
(R8, R14, R139, R171). Most commands leave these fields undisturbed; the others are a tamper event's, an erase's, a
program's, the calendar's and the start-up's. -/

namespace Sys2Proof.Machine

/-- From s to t the command queue stays and the three invariants of the directory, the calendar and the modes are
kept. -/
structure Keeps (s t : State) : Prop where
  pending : t.pending = s.pending
  calendar : s.calendarLegal → t.calendarLegal
  modes : s.modesAgree → t.modesAgree
  directory : s.directoryCoherent → t.directoryCoherent

theorem lineServed_congr {s t : State} (h : t.custody.present = s.custody.present) : t.lineServed = s.lineServed := by
  simp only [State.lineServed, h]

theorem coverValid_congr {s t : State} (hm : t.retention.marker = s.retention.marker)
    (hc : t.retention.covers = s.retention.covers) (b : Bank) : t.coverValid b = s.coverValid b := by
  simp only [State.coverValid, hm, hc]

/-! ## Where a directory may be in use (R8, R147) -/

/-- The conditions of custody under which a directory is in use. -/
def State.directoryAllowed (s : State) : Prop :=
  s.custody.record = .verified ∧
    (s.lineServed = true ∨ (s.custody.present = .starting ∧ s.custody.phase = .clearAllWait))

theorem directoryAllowed_congr {s t : State} (hp : t.custody.present = s.custody.present)
    (hph : t.custody.phase = s.custody.phase) (hr : t.custody.record = s.custody.record) :
    t.directoryAllowed ↔ s.directoryAllowed := by
  simp only [State.directoryAllowed, lineServed_congr hp, hp, hph, hr]

theorem directoryAllowed_of_coherent {s : State} (h : s.directoryCoherent) (use : s.directory.inUse = true) :
    s.directoryAllowed :=
  let ⟨verified, mode, _⟩ := h use
  ⟨verified, mode⟩

/-- Out of use the directory is coherent. -/
theorem directoryCoherent_of_unused {s : State} (h : s.directory.inUse = false) : s.directoryCoherent := by
  intro use; rw [h] at use; cases use

/-- Where no directory may be in use, a coherent one is out of use. -/
theorem unused_of_not_allowed {s : State} (h : s.directoryCoherent) (no : ¬ s.directoryAllowed) :
    s.directory.inUse = false := by
  cases use : s.directory.inUse with
  | false => rfl
  | true => exact absurd (directoryAllowed_of_coherent h use) no

@[simp] theorem zeroizeDirectory_inUse (s : State) : s.zeroizeDirectory.directory.inUse = s.directory.inUse := by
  simp only [State.zeroizeDirectory, withDirectory_directory]
@[simp] theorem zeroizeDirectory_custody (s : State) : s.zeroizeDirectory.custody = s.custody :=
  withDirectory_custody s _
@[simp] theorem zeroizeDirectory_retention (s : State) : s.zeroizeDirectory.retention = s.retention :=
  withDirectory_retention s _

/-- Every slot LOST or EMPTY and every lost flag set is coherent while no cover is valid (R14). -/
theorem directoryCoherent_zeroizeDirectory (s : State) (covers : ∀ b : Bank, s.coverValid b = false)
    (allowed : s.directory.inUse = true → s.directoryAllowed) : s.zeroizeDirectory.directoryCoherent := by
  intro use
  rw [zeroizeDirectory_inUse] at use
  have same : s.zeroizeDirectory.custody = s.custody := zeroizeDirectory_custody s
  obtain ⟨verified, mode⟩ := (directoryAllowed_congr (congrArg Custody.present same) (congrArg Custody.phase same)
    (congrArg Custody.record same)).mpr (allowed use)
  refine ⟨verified, mode, fun b => ?_, fun n _ => ?_⟩
  · have invalid : s.zeroizeDirectory.coverValid b = false := by
      rw [← covers b]; simp only [State.coverValid, zeroizeDirectory_retention]
    rw [invalid]
    simp only [State.zeroizeDirectory, withDirectory_directory, mapTable_get, Bool.not_false]
  · simp only [State.zeroizeDirectory, withDirectory_directory, mapTable_get]
    split
    · next empty => exact .inr empty
    · exact .inl rfl

namespace Keeps

theorem refl (s : State) : Keeps s s := ⟨rfl, id, id, id⟩

theorem trans {s t u : State} (h : Keeps s t) (k : Keeps t u) : Keeps s u :=
  ⟨k.pending.trans h.pending, k.calendar ∘ h.calendar, k.modes ∘ h.modes, k.directory ∘ h.directory⟩

theorem foldl {α : Type} (f : State → α → State) (hf : ∀ s a, Keeps s (f s a)) (l : List α) (s : State) :
    Keeps s (l.foldl f s) := by
  induction l generalizing s with
  | nil => exact refl s
  | cons a l ih => exact (hf s a).trans (ih _)

/-- What leaves the fields of the invariants alone keeps them. -/
theorem of_undisturbed {s t : State} (h : Undisturbed s t) : Keeps s t where
  pending := h.pending
  calendar := by simp only [State.calendarLegal, h.calendar]; exact id
  modes := by simp only [State.modesAgree, h.marker, lineServed_congr h.present, h.present, h.resume]; exact id
  directory := fun coherent use => by
    obtain ⟨verified, mode, lost, slots⟩ := coherent (h.inUse ▸ use)
    refine ⟨h.record ▸ verified, ?_, fun b => ?_, fun n isLost => ?_⟩
    · rw [lineServed_congr h.present, h.present, h.phase]; exact mode
    · rw [h.lost b, lost b, coverValid_congr h.marker h.covers]
    · have before := slots n (h.lost _ ▸ isLost)
      rcases h.states n with same | active
      · rw [same]; exact before
      · rw [active] at before; rcases before with e | e <;> cases e

/-- What ends with no directory in use and no line port served keeps the invariants of both. -/
theorem of_dark {s t : State} (pending : t.pending = s.pending) (calendar : s.calendarLegal → t.calendarLegal)
    (dark : t.lineServed = false) (unused : s.directoryCoherent → t.directory.inUse = false) : Keeps s t where
  pending := pending
  calendar := calendar
  modes := fun _ _ served => by rw [dark] at served; cases served
  directory := fun coherent => directoryCoherent_of_unused (unused coherent)

end Keeps

/-! ## Tamper events (R163, R164, R168) -/

/-- The part of a running zeroization that the invariants are about: covers, modes and directory. -/
def State.zeroizedFront (s : State) (src : Source) : State :=
  ((s.destroyCovers src .running).withCustody fun c => { c with present := .zeroizing }).zeroizeDirectory

/-- What follows it in the other blocks leaves the invariants' fields alone. -/
theorem beginRunning_undisturbed (s : State) (src : Source) : Undisturbed (s.zeroizedFront src) (s.beginRunning src) := by
  unfold State.beginRunning State.zeroizedFront
  extract_lets s1 s2 s3 s4 s5
  have bindings : Undisturbed s1.zeroizeDirectory s2 := .zeroizeCeremony _
  have lines : Undisturbed s2 s3 := (Undisturbed.endTable s2).trans (.foldl _ .zeroizeLine four _)
  have buses : Undisturbed s3 s4 := .withBuses s3 _
  have array : Undisturbed s4 s5 := (Undisturbed.abortArray s4).trans (.zeroizeCust _)
  exact (((bindings.trans lines).trans buses).trans array).trans
    ((Undisturbed.withMonitor s5 _).trans (.nextOwed _))

theorem zeroizedFront_keeps (s : State) (src : Source) (marker : s.retention.marker = true) :
    Keeps s (s.zeroizedFront src) := by
  unfold State.zeroizedFront
  rw [destroyCovers_eq s src .running marker]
  refine ⟨?_, ?_, ?_, fun coherent => directoryCoherent_zeroizeDirectory _ ?_ fun use => ?_⟩
  · simp only [State.zeroizeDirectory, withDirectory_pending, withCustody_pending]
  · simp only [State.calendarLegal, zeroizeDirectory_retention, withCustody_retention]; exact id
  · simp [State.modesAgree, ResumeMode.mode]
  · intro b; simp [State.coverValid]
  · dsimp only [withCustody_directory] at use
    obtain ⟨verified, _⟩ := directoryAllowed_of_coherent coherent use
    simp [State.directoryAllowed, State.lineServed, verified]

theorem beginUnpowered_keeps (s : State) (src : Source) (marker : s.retention.marker = true)
    (dark : s.lineServed = false) : Keeps s (s.beginUnpowered src) := by
  have front := destroyCovers_eq s src .unpowered marker
  have dark' : (s.destroyCovers src .unpowered).lineServed = false := by rw [front]; exact dark
  have invalid (b : Bank) : (s.destroyCovers src .unpowered).coverValid b = false := by
    rw [front]; simp [State.coverValid]
  unfold State.beginUnpowered
  extract_lets t
  split
  · next use =>
    refine ⟨?_, ?_, fun _ _ served => ?_, fun coherent =>
      directoryCoherent_zeroizeDirectory _ invalid fun _ => ?_⟩
    · simp only [State.zeroizeDirectory, withDirectory_pending, t, front]
    · simp only [State.calendarLegal, zeroizeDirectory_retention, t, front]; exact id
    · rw [lineServed_congr (congrArg Custody.present (zeroizeDirectory_custody t)), dark'] at served; cases served
    · simp only [t, front] at use ⊢
      exact (directoryAllowed_congr (s := s) rfl rfl rfl).mpr (directoryAllowed_of_coherent coherent use)
  · next use =>
    refine Keeps.of_dark ?_ ?_ dark' fun _ => by simpa using use
    · simp only [t, front]
    · simp only [t, front]; exact id

theorem recorded_undisturbed (s : State) (src : Source) (oc : EventOutcome) :
    Undisturbed s ((s.latchSource src).recordEvent src oc) :=
  (Undisturbed.latchSource _ _).trans (Undisturbed.recordEvent _ _ _)

/-- A tamper event keeps the invariants in whatever mode it finds. -/
theorem raiseTamper_keeps (s : State) (src : Source) (act : Action) : Keeps s (s.raiseTamper src act) := by
  have recorded (oc : EventOutcome) := Keeps.of_undisturbed (recorded_undisturbed s src oc)
  cases marker : s.retention.marker with
  | false => rw [raiseTamper_lost s src act marker]; exact .refl s
  | true =>
    unfold State.raiseTamper
    simp only [marker, Bool.true_eq_false, if_false]
    have unpowered (dark : s.lineServed = false) : Keeps s (if s.retention.resume = .service then
        (if act = .zeroize then s.beginUnpowered src else (s.latchSource src).recordEvent src .alarmed)
        else (s.latchSource src).recordEvent src .recorded) := by
      split
      · split
        · exact beginUnpowered_keeps s src marker dark
        · exact recorded _
      · exact recorded _
    cases mode : s.custody.present with
    | uncommissioned => exact .refl s
    | zeroizing | recovery => exact recorded _
    | service =>
      simp only
      split
      · exact (zeroizedFront_keeps s src marker).trans (.of_undisturbed (beginRunning_undisturbed s src))
      · exact recorded _
    | backup | starting | halted => exact unpowered (by simp [State.lineServed, mode])

/-- The closing of the window, with the event of a door found open (R132). -/
theorem closeWindow_keeps (s : State) : Keeps s s.closeWindow := by
  unfold State.closeWindow
  extract_lets t
  have closed : Keeps s t := .of_undisturbed (.withMonitor _ _)
  split
  · exact closed.trans (raiseTamper_keeps _ _ _)
  · exact closed

/-! ## Owed erases (R166, R167) -/

/-- RECOVERY is entered in both modes at once. -/
theorem enterRecovery_keeps (s : State) : Keeps s ((s.withRetention fun r => { r with resume := .recovery }).withCustody
    fun c => { c with present := .recovery }) where
  pending := rfl
  calendar := id
  modes := fun _ _ _ => rfl
  directory := fun coherent use => by
    obtain ⟨verified, _, lost, slots⟩ := coherent use
    exact ⟨verified, .inl rfl, lost, slots⟩

theorem owedEnded_keeps (s : State) (b : Bank) : Keeps s (s.owedEnded b) := by
  unfold State.owedEnded
  extract_lets t
  have cleared : Keeps s t := .of_undisturbed (.withRetention s _ ⟨rfl, rfl, rfl, rfl⟩)
  split
  · exact cleared.trans (enterRecovery_keeps t)
  · exact cleared.trans (.of_undisturbed (.nextOwed t))

/-! ## Takes whose handling is not undisturbed -/

theorem takeCust_keeps {α : Type} (s : State) (code : Byte) (gate : Mode → Option OutcomeCode) (need : SwitchNeed)
    (parse : Message → Option α) (act : Byte → α → State → State) (h : ∀ t q u, Keeps u (act t q u)) :
    Keeps s (s.takeCust code gate need parse act) := by
  have taking (m : Message) : Undisturbed s { s.popRequest .cust with custProgress := some (.taking m.tag) } :=
    (Undisturbed.popRequest s .cust).trans (.withCustProgress _ _)
  have answered (m : Message) (oc : OutcomeCode) := Keeps.of_undisturbed
    ((taking m).trans (.finishCust _ m.tag code oc []))
  unfold State.takeCust
  split
  · exact .refl s
  · split
    · extract_lets t
      split
      · exact answered _ _
      · split
        · exact answered _ _
        · split
          · exact (Keeps.of_undisturbed (taking _)).trans (h _ _ _)
          · exact answered _ _
    · exact .refl s

theorem takeCloseWindow_keeps (tag : Byte) (q : Unit) (s : State) : Keeps s (takeCloseWindow tag q s) := by
  unfold takeCloseWindow
  extract_lets t
  refine Keeps.trans ?_ (.of_undisturbed (.finishCust _ _ _ _ _))
  simp only [t]
  split
  · exact closeWindow_keeps s
  · exact .refl s

theorem takeZeroize_keeps (tag : Byte) (q : Unit) (s : State) : Keeps s (takeZeroize tag q s) :=
  (raiseTamper_keeps s .command .zeroize).trans (.of_undisturbed (.finishCust _ _ _ _ _))

/-- SERVICE is entered in both modes at once. -/
theorem enterService_keeps (s : State) : Keeps s ((s.withRetention fun r => { r with resume := .service }).withCustody
    fun c => { c with present := .service }) where
  pending := rfl
  calendar := id
  modes := fun _ _ _ => rfl
  directory := fun coherent use => by
    obtain ⟨verified, _, lost, slots⟩ := coherent use
    exact ⟨verified, .inl rfl, lost, slots⟩

theorem takeRearm_keeps (tag : Byte) (q : Unit) (s : State) : Keeps s (takeRearm tag q s) := by
  unfold takeRearm
  extract_lets t order
  have entered : Keeps s t :=
    (enterService_keeps s).trans (.of_undisturbed ((Undisturbed.withMonitor _ _).trans (.finishCust _ _ _ _ _)))
  exact (entered.trans (.of_undisturbed (.nextDraw t))).trans (.foldl _ (fun u (e : Source × Action) => raiseTamper_keeps u e.1 e.2) _ _)

/-- A change of the calendar to a legal one. -/
theorem setCalendar_keeps (s : State) (c : Calendar)
    (legal : s.calendarLegal → validDate c.date = true ∧ validTime c.time = true ∧ c.sub < 32768) :
    Keeps s (s.withRetention fun r => { r with calendar := c }) := ⟨rfl, legal, id, id⟩

theorem takeSetTime_keeps (tag : Byte) (q : Date × Time) (s : State) : Keeps s (takeSetTime tag q s) := by
  unfold takeSetTime
  split
  · next values =>
    obtain ⟨date, time⟩ := Bool.and_eq_true_iff.mp values
    have changed := setCalendar_keeps s { date := q.1, time := q.2, set := true, counting := true, sub := 0 }
      fun _ => ⟨date, time, Nat.zero_lt_succ _⟩
    exact changed.trans (.of_undisturbed ((Undisturbed.sweep _).trans (.finishCust _ _ _ _ _)))
  · exact .of_undisturbed (.finishCust _ _ _ _ _)

end Sys2Proof.Machine
end

section
/-! PROOF. What every command keeps, continued: programs and erases, the calendar's second, the start-up and the loss of
retention; and the invariants of O3, O5, O6 and O7. -/

namespace Sys2Proof.Machine

/-! ## Programs and erases (R11, R15, R44, R45) -/

/-- A slot a program ended on is ACTIVE or DAMAGED only under a valid cover (R14, log 11). -/
theorem programmedSlot_keeps (s : State) (n : SlotNo) (x : SlotState) (f : SlotDir → SlotDir)
    (hf : ∀ d, (f d).state = s.programmedState n x) : Keeps s (s.withSlot n f) := by
  refine ⟨rfl, id, id, fun coherent use => ?_⟩
  obtain ⟨verified, mode, lost, slots⟩ := coherent use
  refine ⟨verified, mode, lost, fun m isLost => ?_⟩
  simp only [withSlot_directory, put_get]
  split
  · next e =>
    subst e
    have invalid : s.coverValid (bankOf n) = false := by
      have flag : s.directory.banks[bankOf n].lost = true := isLost
      rw [lost] at flag
      simpa using flag
    left
    rw [hf, State.programmedState, invalid]
    rfl
  · exact slots m isLost

theorem fillSlot_keeps (s : State) (n : SlotNo) (h : Header) : Keeps s (s.fillSlot n h) := by
  unfold State.fillSlot
  refine (programmedSlot_keeps s n .active _ ?_).trans (.of_undisturbed (.withSlotRet _ _ _))
  exact fun _ => rfl

theorem programRecordDone_keeps (s : State) (r : ProgramRequest) (data : List Byte) :
    Keeps s ((((s.execEnded.withRecord r.slot fun _ => r.record).fillSlot r.slot r.record.header).endCeremony).finishCommit
      .ok data) :=
  ((Keeps.of_undisturbed ((Undisturbed.execEnded s).trans (.withRecord _ _ _))).trans (fillSlot_keeps _ _ _)).trans
    (.of_undisturbed ((Undisturbed.endCeremony _).trans (.finishCommit _ _ _)))

theorem eraseEffects_keeps (s : State) (b : Bank) : Keeps s (s.eraseEffects b) := by
  unfold State.eraseEffects
  extract_lets count cover dir bank ret t
  have erased : Keeps s t := by
    refine ⟨rfl, ?_, ?_, fun coherent use => ?_⟩
    · simp only [State.calendarLegal, t]; exact id
    · simp only [State.modesAgree, State.lineServed, t]; exact id
    obtain ⟨verified, mode, lost, slots⟩ := coherent use
    have custody : t.custody = s.custody := by simp only [t]
    refine ⟨custody ▸ verified, ?_, fun c => ?_, fun n isLost => ?_⟩
    · rw [lineServed_congr (congrArg Custody.present custody), custody]; exact mode
    · simp only [t, State.coverValid, put_get]
      split
      · simp [cover, ret]
      · exact lost c
    · simp only [t, put_get] at isLost
      simp only [t, fillBank_get]
      split
      · exact .inr rfl
      · next other => exact slots n (by rwa [if_neg (Ne.symm other)] at isLost)
  split
  · exact erased.trans (.of_undisturbed ((Undisturbed.nextDraw t).trans (.latch _ _)))
  · exact erased.trans (.of_undisturbed (.nextDraw t))

/-! ## The calendar (R140, R141) -/

theorem monthLength_pos (y m : Nat) : 0 < monthLength y m := by
  unfold monthLength
  split
  · split <;> decide
  · split <;> decide

/-- The day after a valid date is valid, short of the last day the calendar can hold (R140). -/
theorem validDate_nextDay (d : Date) (valid : validDate d = true) (more : d ≠ ⟨2199, 12, 31⟩) :
    validDate (nextDay d) = true := by
  obtain ⟨year, month, day⟩ := d
  simp only [validDate, Bool.and_eq_true, decide_eq_true_eq, nextDay] at valid ⊢
  split
  · simp only; omega
  · next last =>
    split
    · have := monthLength_pos year (month + 1)
      simp only; omega
    · have december : month = 12 := by omega
      subst december
      have length : monthLength year 12 = 31 := by simp [monthLength]
      have first : monthLength (year + 1) 1 = 31 := by simp [monthLength]
      have before : year ≠ 2199 := fun e => more (by subst e; simp only [Date.mk.injEq, true_and]; omega)
      simp only; omega

theorem calendarTick_legal (c : Calendar) (date : validDate c.date = true) (time : validTime c.time = true) :
    validDate c.tick.1.date = true ∧ validTime c.tick.1.time = true ∧ c.tick.1.sub < 32768 := by
  obtain ⟨day, ⟨h, m, s⟩, set, counting, sub⟩ := c
  have fields := time
  simp only [validTime, Bool.and_eq_true, decide_eq_true_eq] at fields
  obtain ⟨⟨hour, minute⟩, second⟩ := fields
  unfold Calendar.tick
  dsimp only
  split
  · exact ⟨date, time, Nat.zero_lt_succ _⟩
  · next more =>
    split
    · refine ⟨date, ?_, Nat.zero_lt_succ _⟩; simp only [validTime, Bool.and_eq_true, decide_eq_true_eq]; omega
    · split
      · refine ⟨date, ?_, Nat.zero_lt_succ _⟩; simp only [validTime, Bool.and_eq_true, decide_eq_true_eq]; omega
      · split
        · refine ⟨date, ?_, Nat.zero_lt_succ _⟩; simp only [validTime, Bool.and_eq_true, decide_eq_true_eq]; omega
        · refine ⟨validDate_nextDay _ date fun e => more ?_, rfl, Nat.zero_lt_succ _⟩
          have midnight : (⟨h, m, s⟩ : Time) = ⟨23, 59, 59⟩ := by
            simp only [Time.mk.injEq]; simp only at *; omega
          simp_all [lastMoment]

/-! ## The judgement of the clock (R155, R156) -/

theorem judgeClock_keeps (s : State) (e : List Measurement) : Keeps s (s.judgeClock e) := by
  unfold State.judgeClock
  extract_lets t fails u
  split
  · exact .of_undisturbed (((Undisturbed.withMonitor s _).trans (.withRetention t _ ⟨rfl, rfl, rfl, rfl⟩)).trans
      (.withMonitor _ _))
  · have counted : Keeps s u := .of_undisturbed ((Undisturbed.withMonitor s _).trans (.withMonitor t _))
    split
    · exact counted.trans (raiseTamper_keeps _ _ _)
    · exact counted

/-! ## The end of the volatile state (R179, R180) -/

theorem leaveFuses_undisturbed (s : State) : Undisturbed s s.leaveFuses := by
  unfold State.leaveFuses
  split
  · exact ⟨rfl, rfl, rfl, rfl, rfl, rfl, rfl, rfl, rfl, fun _ => rfl, fun _ => .inl rfl⟩
  · exact .refl s

/-- What the end of the volatile state leaves of the fields the invariants are about. -/
theorem endVolatile_keeps (s : State) : s.endVolatile.pending = s.pending ∧
    s.endVolatile.retention.calendar = s.retention.calendar ∧ s.endVolatile.directory = Directory.initial := by
  have stopped : Undisturbed s s.leaveFuses.endTable.leaveStopped :=
    ((leaveFuses_undisturbed s).trans (.endTable _)).trans (.leaveStopped _)
  exact ⟨stopped.pending, stopped.calendar, rfl⟩

/-- The volatile state ends and a mode without served line ports is entered. -/
theorem endVolatile_enter_keeps (s : State) (m : Mode) (ph : StartPhase)
    (dark : (s.endVolatile.enter m ph).lineServed = false) : Keeps s (s.endVolatile.enter m ph) := by
  obtain ⟨pending, calendar, directory⟩ := endVolatile_keeps s
  refine .of_dark pending ?_ dark fun _ => ?_
  · simp only [State.calendarLegal, enter_retention, calendar]; exact id
  · rw [enter_directory, directory]; rfl

theorem pend_keeps (s : State) (m : Byte) : Keeps s (s.pend m) :=
  .of_undisturbed (.withRetention s _ ⟨rfl, rfl, rfl, rfl⟩)

/-! ## The walk of a start-up (R172 to R177) -/

/-- Where no directory may be in use, a change that keeps queue, calendar and directory and serves no line port. -/
theorem Keeps.of_not_allowed {s t : State} (no : ¬ s.directoryAllowed) (pending : t.pending = s.pending)
    (calendar : s.calendarLegal → t.calendarLegal) (same : t.directory = s.directory) (dark : t.lineServed = false) :
    Keeps s t :=
  .of_dark pending calendar dark fun coherent => same ▸ unused_of_not_allowed coherent no

theorem loadFuses_eq (s : State) : ∃ r, s.loadFuses = { s with
    custody := { s.custody with record := recordStateOf s.fuses }, retention := { s.retention with baseline := r } } := by
  unfold State.loadFuses
  extract_lets t
  split
  · exact ⟨_, rfl⟩
  · exact ⟨s.retention.baseline, rfl⟩

theorem checked_calendar_legal (r : Retention)
    (legal : validDate r.calendar.date = true ∧ validTime r.calendar.time = true ∧ r.calendar.sub < 32768) :
    validDate r.checked.calendar.date = true ∧ validTime r.checked.calendar.time = true ∧
      r.checked.calendar.sub < 32768 := by
  unfold Retention.checked
  split
  · exact legal
  · exact ⟨rfl, rfl, Nat.zero_lt_succ _⟩

theorem checkRetention_keeps (s : State) (no : ¬ s.directoryAllowed) :
    Keeps s (s.enter .starting .clearAllWait).checkRetention := by
  refine .of_not_allowed no rfl (fun legal => ?_) rfl rfl
  have checked := checked_calendar_legal s.retention legal
  simp only [State.calendarLegal, State.checkRetention, withRetention_retention, enter_retention]
  split
  · exact checked
  · exact checked

/-- The scan judges each bank's lost flag by its cover, and its slots by the flag (R9, R10). -/
theorem scan_keeps (s : State) (drift : List (Nat × List Byte)) (verified : s.custody.record = .verified)
    (mode : s.custody.present = .starting) (phase : s.custody.phase = .clearAllWait) : Keeps s (s.scan drift) := by
  refine ⟨rfl, id, fun _ _ served => ?_, fun _ _ => ⟨verified, .inr ⟨mode, phase⟩, fun b => ?_, fun n isLost => ?_⟩⟩
  · have dark : s.lineServed = false := by simp [State.lineServed, mode]
    have same : (s.scan drift).lineServed = s.lineServed := rfl
    rw [same, dark] at served; cases served
  · simp [State.scan, State.scanBank, State.coverValid]
  · have invalid : s.coverValid (bankOf n) = false := by simpa [State.scan, State.scanBank] using isLost
    have state : (s.scan drift).directory.slots[n].state =
        (s.scanRecord n (asRead s.array.records[n] (driftOf drift n))).1 := by
      simp [State.scan, State.scanSlot, SlotDir.evaluate]
    rw [state]
    unfold State.scanRecord
    extract_lets b
    split
    · exact .inr rfl
    · exact .inl rfl

theorem stepsFiveToSeven_keeps (s : State) (drift : List (Nat × List Byte)) (no : ¬ s.directoryAllowed) :
    Keeps s (s.stepsFiveToSeven drift) := by
  unfold State.stepsFiveToSeven
  extract_lets lost t u v
  have checked : Keeps s t := checkRetention_keeps s no
  split
  · next verified =>
    have scanned : Keeps s u := checked.trans (scan_keeps t drift verified rfl rfl)
    have judged : Keeps s v := by
      simp only [v]
      split
      · exact scanned.trans (raiseTamper_keeps _ _ _)
      · exact scanned
    split
    · exact judged.trans (.of_undisturbed (.makeOffers v))
    · exact judged
  · exact checked.trans (.of_undisturbed (.withCustody t _ ⟨rfl, rfl, rfl⟩))

theorem fromStepThree_keeps (s : State) (skip : Bool) (drift : List (Nat × List Byte))
    (mode : s.custody.present = .starting) (phase : s.custody.phase = .none) :
    Keeps s (s.fromStepThree skip drift) := by
  obtain ⟨r, loaded⟩ := loadFuses_eq s
  have no : ¬ s.directoryAllowed := by simp [State.directoryAllowed, State.lineServed, mode, phase]
  have no' : ¬ s.loadFuses.directoryAllowed := by
    rw [loaded]; simp [State.directoryAllowed, State.lineServed, mode, phase]
  have load : Keeps s s.loadFuses := by
    rw [loaded]; exact .of_not_allowed no rfl id rfl (by simp [State.lineServed, mode])
  unfold State.fromStepThree
  extract_lets t
  split
  · exact load.trans ((Keeps.of_not_allowed (t := t.enter .halted .none) no' rfl id rfl rfl).trans (pend_keeps _ _))
  · split
    · exact load.trans (stepsFiveToSeven_keeps t drift no')
    · exact load.trans (.of_not_allowed no' rfl id rfl rfl)

theorem enterResume_keeps (s : State) : Keeps s s.enterResume := by
  have entered : Keeps s (s.enter s.resumeMode.mode .none) := by
    have served : (s.enter s.resumeMode.mode .none).lineServed = true := by cases s.resumeMode <;> rfl
    refine ⟨rfl, id, fun _ held _ => ?_, fun coherent use => ?_⟩
    · have marker : s.retention.marker = true := held
      simp only [enter_custody, enter_retention, State.resumeMode, marker, if_true]
    · obtain ⟨verified, _, lost, slots⟩ := coherent use
      exact ⟨verified, .inl served, lost, slots⟩
  unfold State.enterResume
  extract_lets m t
  cases m with
  | service => exact entered.trans (.of_undisturbed (.withMonitor _ _))
  | zeroizing => exact entered.trans (.of_undisturbed (.nextOwed _))
  | recovery => exact entered

/-! ## The loss of retention (R175) -/

theorem validDate_freeDate (d base : Nat) : validDate (freeDate d base) = true := by
  have year := freeBelow_lt d base 200 (by decide)
  have month := freeBelow_lt d (base + 1) 12 (by decide)
  have day := freeBelow_lt d (base + 2) _
    (monthLength_pos (2000 + freeBelow d base 200) (1 + freeBelow d (base + 1) 12))
  simp only [validDate, Bool.and_eq_true, decide_eq_true_eq]
  simp only [freeDate]
  omega

theorem validTime_freeTime (d base : Nat) : validTime (freeTime d base) = true := by
  have hour := freeBelow_lt d base 24 (by decide)
  have minute := freeBelow_lt d (base + 1) 60 (by decide)
  have second := freeBelow_lt d (base + 2) 60 (by decide)
  simp only [validTime, Bool.and_eq_true, decide_eq_true_eq]
  simp only [freeTime]
  omega

/-- Lost retention reads as a legal calendar of free values and leaves no valid cover (R175, log 11). -/
theorem retentionLost_keeps (s : State) : Keeps s (s.withRetention fun r => r.fallen s.draws).zeroizeDirectory := by
  refine ⟨?_, fun _ => ?_, fun _ held => ?_, fun coherent => directoryCoherent_zeroizeDirectory _ (fun b => ?_) fun use => ?_⟩
  · simp only [State.zeroizeDirectory, withDirectory_pending, withRetention_pending]
  · simp only [State.calendarLegal, zeroizeDirectory_retention, withRetention_retention]
    exact ⟨validDate_freeDate _ _, validTime_freeTime _ _, freeBelow_lt _ _ _ (by decide)⟩
  · rw [zeroizeDirectory_retention] at held; cases held
  · simp [State.coverValid, Retention.fallen]
  · exact (directoryAllowed_congr (s := s) rfl rfl rfl).mpr (directoryAllowed_of_coherent coherent use)

end Sys2Proof.Machine
end

section
/-! PROOF. Every command answers a next state and keeps the queue and the invariants, command by command (O3, O5, O6,
O7). -/

namespace Sys2Proof.Machine

/-- A command's outcome in s is a next state, and the invariants are kept. -/
def Completes (s : State) (o : Host.Outcome State Fault Refusal) : Prop := ∃ t, o = .next t ∧ Keeps s t

namespace Completes

theorem next {s t : State} (h : Keeps s t) : Completes s (.next t) := ⟨t, rfl, h⟩
theorem undisturbed {s t : State} (h : Undisturbed s t) : Completes s (.next t) := next (.of_undisturbed h)
theorem idle (s : State) : Completes s (.next s) := next (.refl s)

/-- A command that is judged by a condition and changes nothing where it fails. -/
theorem judged {s t : State} {c : Prop} [Decidable c] (h : c → Keeps s t) :
    Completes s (if c then .next t else .next s) := by
  split
  · next hc => exact next (h hc)
  · exact idle s

theorem judged_undisturbed {s t : State} {c : Prop} [Decidable c] (h : Undisturbed s t) :
    Completes s (if c then .next t else .next s) := judged fun _ => .of_undisturbed h

/-! ## Port links -/

theorem requestAdmitted (p : Port) (addr : Address) (message : List Byte) (s : State) (part : Part) :
    Completes s (execRequestAdmitted p addr message s part) := by
  unfold execRequestAdmitted
  extract_lets t
  have started : Undisturbed s t := by
    simp only [t]
    split
    · exact (Undisturbed.start _ _ _ _).trans (.writeByte _ _ _)
    · exact .refl s
  exact undisturbed ((started.trans (.writeBytes _ _ _)).trans (.stop _ _ _))

theorem windowSelect (p : Port) (addr : Address) (code : Option Byte) (reads : Nat) (s : State) (written : List Byte)
    (part : Part) : Completes s (execWindowSelect p addr code reads s written part) := by
  unfold execWindowSelect
  extract_lets t u v
  have started : Undisturbed s t := by
    simp only [t]
    split
    · split
      · exact (Undisturbed.start _ _ _ _).trans (.writeByte _ _ _)
      · exact .start _ _ _ _
    · exact .refl s
  have addressed : Undisturbed u v := by
    simp only [v]
    split
    · exact .address _ _ _ _
    · exact .refl u
  exact undisturbed ((((started.trans (.writeBytes _ _ _)).trans addressed).trans (.readBytes _ _ _)).trans (.stop _ _ _))

theorem directoryPointerWrite (p : Port) (addr : Address) (pointer : Byte) (s : State) (extra : List Byte) :
    Completes s (execDirectoryPointerWrite p addr pointer s extra) :=
  undisturbed ((((Undisturbed.start _ _ _ _).trans (.writeByte _ _ _)).trans (.writeBytes _ _ _)).trans (.stop _ _ _))

theorem unknownRequestCode (p : Port) (s : State) : Completes s (execUnknownRequestCode p s) := by
  unfold execUnknownRequestCode
  split
  · exact idle s
  · split
    · exact idle s
    · exact undisturbed ((Undisturbed.popRequest _ _).trans (.pushCompletion _ _ _))

/-! ## Switches and the service window -/

theorem setSwitch_undisturbed (s : State) (w : Switch) (x : Bool) : Undisturbed s (s.setSwitch w x) := by
  refine .withCustody s _ ?_
  cases w <;> exact ⟨rfl, rfl, rfl⟩

/-! ## The Array Controller -/

theorem readSlotComplete (drift : List Byte) (s : State) : Completes s (execReadSlotComplete drift s) := by
  unfold execReadSlotComplete
  split
  · next l n _ =>
    extract_lets t u
    have read : Undisturbed t u := by
      simp only [u]
      split
      · exact .bindRead _ _ _ _ _ _ _
      · exact .finishLine _ _ _ _ _ _
      · exact .refl t
    exact undisturbed (((Undisturbed.withControl s _).trans read).trans (.withControl _ _))
  · exact idle s

theorem arrayOperationStart (s : State) : Completes s (execArrayOperationStart s) := by
  unfold execArrayOperationStart
  split
  · exact idle s
  · split
    · split
      · exact undisturbed (.withControl _ _)
      · exact undisturbed (.withControl _ _)
    · split
      · exact undisturbed (.endSkipped _ _)
      · split
        · exact undisturbed (.withControl _ _)
        · exact undisturbed (.startWrite _)

theorem programRecordDone (s : State) : Completes s (execProgramRecordDone s) := by
  unfold execProgramRecordDone
  split
  · exact next (programRecordDone_keeps _ _ _)
  · exact idle s

theorem programFailed (s : State) : Completes s (execProgramFailed s) := by
  unfold execProgramFailed
  split
  · next r _ =>
    extract_lets t
    have left : Undisturbed s (s.execEnded.leaveFailedProgram r) :=
      (Undisturbed.execEnded s).trans (.leaveFailedProgram _ _)
    have judged : Keeps (s.execEnded.leaveFailedProgram r) t := programmedSlot_keeps _ r.slot .damaged _ fun _ => by
      simp only [State.programmedState, coverValid_congr left.marker left.covers]
    exact next (((Keeps.of_undisturbed left).trans judged).trans
      (.of_undisturbed (((Undisturbed.endCeremony t).trans (.finishCommit _ _ _)).trans (.setFault _))))
  · exact idle s

theorem programMarkEnd (ok : Bool) (s : State) : Completes s (execProgramMarkEnd ok s) := by
  unfold execProgramMarkEnd
  split
  · split
    · exact undisturbed (((Undisturbed.execEnded s).trans (.withRecord _ _ _)).trans (.markEnd _ _))
    · exact undisturbed ((((Undisturbed.execEnded s).trans (.leaveFailedMark _ _)).trans (.markEnd _ _)).trans (.setFault _))
  · exact idle s

theorem eraseComplete (s : State) : Completes s (execEraseComplete s) := by
  unfold execEraseComplete
  split
  · next b custody _ =>
    split
    · exact idle s
    · have erased : Keeps s (s.execEnded.eraseEffects b) :=
        (Keeps.of_undisturbed (.execEnded s)).trans (eraseEffects_keeps _ _)
      cases custody with
      | true => exact next (erased.trans (owedEnded_keeps _ _))
      | false => exact next erased
  · exact idle s

theorem eraseFailed (s : State) : Completes s (execEraseFailed s) := by
  unfold execEraseFailed
  split
  · next b custody _ =>
    split
    · exact idle s
    · extract_lets t
      have failed : Undisturbed s t.setFault :=
        (((Undisturbed.withControl s _).trans (.leaveStoppedErase _ _)).trans (.incomplete _ _)).trans (.setFault t)
      cases custody with
      | true => exact next ((Keeps.of_undisturbed failed).trans (owedEnded_keeps _ _))
      | false => exact undisturbed failed
  · exact idle s

theorem eraseSuspend (ran : Nat) (s : State) : Completes s (execEraseSuspend ran s) := by
  unfold execEraseSuspend
  split
  · exact judged_undisturbed (.withControl _ _)
  · exact idle s

theorem eraseSuspended (s : State) : Completes s (execEraseSuspended s) := by
  unfold execEraseSuspended
  split
  · exact judged_undisturbed (.withControl _ _)
  · exact idle s

/-! ## Key buses -/

theorem accept (e : Line) (reply : List Byte) (s : State) : Completes s (execAccept e reply s) := by
  unfold execAccept
  split
  · split
    · split
      · exact undisturbed (.popFrame _ _)
      · exact undisturbed ((Undisturbed.popFrame _ _).trans (.loadAccepted _ _ _))
    · exact idle s
  · exact idle s

theorem refuse (e : Line) (reply : List Byte) (s : State) : Completes s (execRefuse e reply s) := by
  unfold execRefuse
  split
  · split
    · split
      · exact undisturbed (.popFrame _ _)
      · exact undisturbed ((Undisturbed.popFrame _ _).trans (.loadRefused _ _ _ _))
    · exact idle s
  · exact idle s

theorem done (e : Line) (reply : List Byte) (s : State) : Completes s (execDone e reply s) := by
  unfold execDone
  split
  · exact undisturbed ((Undisturbed.popFrame _ _).trans (.deliverDone _ _ _))
  · exact idle s

theorem replyTimeout (e : Line) (s : State) : Completes s (execReplyTimeout e s) := by
  unfold execReplyTimeout
  split
  · exact undisturbed ((Undisturbed.popFrame _ _).trans (.deliverSilence _ _ _))
  · exact idle s

theorem engineReadyFall (e : Line) (s : State) (samples : Samples) :
    Completes s (execEngineReadyFall e s samples) := by
  unfold execEngineReadyFall
  split
  · extract_lets wasBlocked t
    have fallen : Undisturbed s t := (Undisturbed.withBus s e _).trans (.foldl _ (.fallAt e) _ _)
    exact undisturbed (((fallen.trans (.fallClearBlocked _ _ _)).trans (.offerOver _ _)).trans (.withControl _ _))
  · exact idle s

/-! ## The Tamper Monitor -/

theorem clockMeasurement (cycles : Nat) (s : State) (ends : Bool) :
    Completes s (execClockMeasurement cycles s ends) := by
  unfold execClockMeasurement
  split
  · extract_lets x t e
    split
    · have ended : Undisturbed s t := (Undisturbed.withCustody s _ ⟨rfl, rfl, rfl⟩).trans (.withMonitor _ _)
      split
      · exact undisturbed (ended.trans (.withMonitor t _))
      · exact next ((Keeps.of_undisturbed ended).trans (judgeClock_keeps t _))
    · exact undisturbed (.withMonitor _ _)
  · exact idle s

theorem patternTestInterval (s : State) : Completes s (execPatternTestInterval s) := by
  unfold execPatternTestInterval
  split
  · extract_lets t
    split
    · exact undisturbed (.withMonitor _ _)
    · exact undisturbed ((Undisturbed.withMonitor s _).trans (.withControl t _))
  · exact idle s

theorem patternTestResult (drift : List Byte) (s : State) : Completes s (execPatternTestResult drift s) := by
  unfold execPatternTestResult
  split
  · exact undisturbed ((Undisturbed.execEnded s).trans (.judgeRow _ _ _))
  · split
    · exact undisturbed (.endSkipped _ _)
    · exact idle s

theorem calendarSecond (s : State) : Completes s (execCalendarSecond s) := by
  unfold execCalendarSecond
  split
  · split
    next c midnight ticked =>
    extract_lets t
    have counted : Keeps s t := by
      refine setCalendar_keeps s c fun ⟨date, time, _⟩ => ?_
      have legal := calendarTick_legal _ date time
      rwa [ticked] at legal
    split
    · exact next (counted.trans (.of_undisturbed (.sweep t)))
    · exact next counted
  · exact idle s

theorem enclosureNormal (input : Enclosure) (s : State) (samples : Samples) :
    Completes s (execEnclosureNormal input s samples) := by
  unfold execEnclosureNormal
  split
  · cases input with
    | door => exact undisturbed (.withRetention s _ ⟨rfl, rfl, rfl, rfl⟩)
    | mesh => exact undisturbed (.withRetention s _ ⟨rfl, rfl, rfl, rfl⟩)
  · exact idle s

theorem batteryNotLow (s : State) (samples : Samples) : Completes s (execBatteryNotLow s samples) := by
  unfold execBatteryNotLow
  split
  · exact undisturbed (.withRetention s _ ⟨rfl, rfl, rfl, rfl⟩)
  · exact idle s

/-! ## Power and start-up -/

theorem brownout (s : State) (samples : Samples) : Completes s (execBrownout s samples) :=
  judged fun _ => (endVolatile_enter_keeps s .backup .none rfl).trans
    (.of_undisturbed (.withCustody _ _ ⟨rfl, rfl, rfl⟩))

theorem warmResetOnset (s : State) (samples : Samples) : Completes s (execWarmResetOnset s samples) := by
  unfold execWarmResetOnset
  split
  · exact idle s
  · exact next ((endVolatile_enter_keeps s .starting .inReset rfl).trans (pend_keeps _ _))

/-- A start-up walks on from step 3 in a state no directory may be in use in. -/
theorem stepThree_keeps {s : State} (no : ¬ s.directoryAllowed) (mark : Byte) (skip : Bool)
    (drift : List (Nat × List Byte)) : Keeps s (((s.enter .starting .none).pend mark).fromStepThree skip drift) ∧
      Keeps s ((s.enter .starting .none).fromStepThree skip drift) := by
  have entered : Keeps s (s.enter .starting .none) := .of_not_allowed no rfl id rfl rfl
  exact ⟨(entered.trans (pend_keeps _ _)).trans (fromStepThree_keeps _ _ _ rfl rfl),
    entered.trans (fromStepThree_keeps _ _ _ rfl rfl)⟩

theorem mainPowerValid (s : State) (samples : Samples) : Completes s (execMainPowerValid s samples) :=
  judged fun h => by
    have mode : s.custody.present = .backup := by simp at h; exact h.1
    have no : ¬ s.directoryAllowed := by simp [State.directoryAllowed, State.lineServed, mode]
    exact (stepThree_keeps no _ _ _).1

theorem resetRelease (ran : Bool) (drift : List (Nat × List Byte)) (s : State) (samples : Samples) :
    Completes s (execResetRelease ran drift s samples) :=
  judged fun h => by
    obtain ⟨⟨mode, phase⟩, _⟩ : (s.custody.present = .starting ∧ s.custody.phase = .inReset) ∧ _ := by simpa using h
    have no : ¬ s.directoryAllowed := by simp [State.directoryAllowed, State.lineServed, mode, phase]
    exact (stepThree_keeps no 0 _ _).2

theorem commissionRestart (ran : Bool) (drift : List (Nat × List Byte)) (s : State) :
    Completes s (execCommissionRestart ran drift s) :=
  judged fun _ => (endVolatile_enter_keeps s .starting .none rfl).trans (fromStepThree_keeps _ _ _ rfl rfl)

theorem crystalStarted (drift : List (Nat × List Byte)) (s : State) : Completes s (execCrystalStarted drift s) :=
  judged fun h => by
    obtain ⟨mode, phase⟩ : s.custody.present = .starting ∧ s.custody.phase = .crystalWait := by simpa using h
    have ran : Undisturbed s (s.withCustody fun c => { c with crystalOk := true }) := .withCustody s _ ⟨rfl, rfl, rfl⟩
    refine (Keeps.of_undisturbed ran).trans (stepsFiveToSeven_keeps _ _ ?_)
    simp [State.directoryAllowed, State.lineServed, mode, phase]

theorem crystalStartTimeout (s : State) : Completes s (execCrystalStartTimeout s) :=
  judged fun h => by
    obtain ⟨mode, phase⟩ : s.custody.present = .starting ∧ s.custody.phase = .crystalWait := by simpa using h
    have no : ¬ s.directoryAllowed := by simp [State.directoryAllowed, State.lineServed, mode, phase]
    have entered : Keeps s ((s.withCustody fun c => { c with crystalOk := false }).enter .halted .none) :=
      .of_not_allowed no rfl id rfl rfl
    exact entered.trans (pend_keeps _ _)

theorem startUpComplete (s : State) : Completes s (execStartUpComplete s) := by
  unfold execStartUpComplete
  split
  · split
    · extract_lets t
      have offered : Keeps s t := .of_undisturbed (.makeOffers s)
      split
      · exact next (offered.trans (enterResume_keeps t))
      · exact next offered
    · next unverified =>
      have no : ¬ s.directoryAllowed := fun allowed => unverified allowed.1
      exact next (.of_not_allowed no rfl id rfl rfl)
  · exact idle s

theorem retentionMarkerLost (s : State) : Completes s (execRetentionMarkerLost s) :=
  judged fun _ => (retentionLost_keeps s).trans (.of_undisturbed (.nextDraw _))

theorem commissionProgrammingEnd (ok : Bool) (s : State) : Completes s (execCommissionProgrammingEnd ok s) := by
  have fuses (f : Vector Byte 64) : Undisturbed s { s with fuses := f } :=
    ⟨rfl, rfl, rfl, rfl, rfl, rfl, rfl, rfl, rfl, fun _ => rfl, fun _ => .inl rfl⟩
  unfold execCommissionProgrammingEnd
  split
  · extract_lets stop failing
    split
    · exact undisturbed (((fuses _).trans (.withCustody _ _ ⟨rfl, rfl, rfl⟩)).trans (.finishCust _ _ _ _ _))
    · exact undisturbed (((fuses _).trans (.nextDraw _)).trans (.finishCust _ _ _ _ _))
  · exact idle s

end Completes

open Completes in
/-- Every command answers a next state that keeps the queue and the invariants. -/
theorem exec_completes (c : Instr) (s : State) : Completes s (exec c s) := by
  cases c with
  | requestAdmitted p addr message part => exact requestAdmitted p addr message s part
  | windowSelect p addr code reads written part => exact windowSelect p addr code reads s written part
  | directoryPointerWrite p addr pointer extra => exact directoryPointerWrite p addr pointer s extra
  | completionRead p addr reads part => exact undisturbed (.readPart _ _ _ _ _ _)
  | directoryRead p addr reads part => exact undisturbed (.readPart _ _ _ _ _ _)
  | unknownRequestCode p => exact unknownRequestCode p s
  | openCeremony => exact undisturbed (.takeCust _ _ _ _ _ _ .takeOpen)
  | component => exact undisturbed (.takeCust _ _ _ _ _ _ .takeComponent)
  | commit => exact undisturbed (.takeCust _ _ _ _ _ _ .takeCommit)
  | abandon => exact undisturbed (.takeCust _ _ _ _ _ _ .takeAbandon)
  | switchDrop w samples => exact judged_undisturbed ((setSwitch_undisturbed _ _ _).trans (.abandonFor _ _))
  | switchPresent w samples => exact judged_undisturbed (setSwitch_undisturbed _ _ _)
  | ceremonyTimeout => exact judged_undisturbed (.abandonFor _ _)
  | allocate => exact undisturbed (.takeCust _ _ _ _ _ _ .takeAllocate)
  | hold => exact undisturbed (.takeCust _ _ _ _ _ _ (.takeHold codeHold true))
  | unhold => exact undisturbed (.takeCust _ _ _ _ _ _ (.takeHold codeUnhold false))
  | retire => exact undisturbed (.takeCust _ _ _ _ _ _ .takeRetire)
  | reclaim => exact undisturbed (.takeCust _ _ _ _ _ _ .takeReclaim)
  | openServiceWindow => exact undisturbed (.takeCust _ _ _ _ _ _ .takeOpenWindow)
  | closeServiceWindow => exact next (takeCust_keeps _ _ _ _ _ _ takeCloseWindow_keeps)
  | serviceWindowExpiry => exact judged fun _ => closeWindow_keeps s
  | setAlarmMask => exact undisturbed (.takeCust _ _ _ _ _ _ .takeSetMask)
  | clearAlarms => exact undisturbed (.takeCust _ _ _ _ _ _ .takeClearAlarms)
  | clearNvFault => exact undisturbed (.takeCust _ _ _ _ _ _ .takeClearFault)
  | clearResetFlags => exact undisturbed (.takeCust _ _ _ _ _ _ .takeClearReset)
  | zeroize => exact next (takeCust_keeps _ _ _ _ _ _ takeZeroize_keeps)
  | rearm => exact next (takeCust_keeps _ _ _ _ _ _ takeRearm_keeps)
  | setTime => exact next (takeCust_keeps _ _ _ _ _ _ takeSetTime_keeps)
  | commission => exact undisturbed (.takeCust _ _ _ _ _ _ .takeCommission)
  | commissionRestart ran drift => exact commissionRestart ran drift s
  | bind l => exact undisturbed (.takeLine _ _ _ _ _ (.takeBind l))
  | extend l => exact undisturbed (.takeLine _ _ _ _ _ (.takeExtend l))
  | release l => exact undisturbed (.takeLine _ _ _ _ _ (.takeRelease l))
  | releaseAll l => exact undisturbed (.takeLine _ _ _ _ _ (.takeReleaseAll l))
  | clearBlocked l => exact undisturbed (.takeLine _ _ _ _ _ (.takeClearBlocked l))
  | readSlotComplete drift => exact readSlotComplete drift s
  | frameSendStart e => exact judged_undisturbed (.withBus _ _ _)
  | frameSent e => exact judged_undisturbed (.withBus _ _ _)
  | accept e reply => exact accept e reply s
  | refuse e reply => exact refuse e reply s
  | done e reply => exact done e reply s
  | replyTimeout e => exact replyTimeout e s
  | engineReadyFall e samples => exact engineReadyFall e s samples
  | engineReadyRise e samples => exact judged_undisturbed (.withBus _ _ _)
  | arrayOperationStart => exact arrayOperationStart s
  | programRecordDone => exact programRecordDone s
  | programFailed => exact programFailed s
  | programMarkEnd ok => exact programMarkEnd ok s
  | eraseComplete => exact eraseComplete s
  | eraseFailed => exact eraseFailed s
  | eraseSuspend ran => exact eraseSuspend ran s
  | eraseSuspended => exact eraseSuspended s
  | suspensionCap => exact judged_undisturbed (.withControl _ _)
  | doorEvent samples =>
    exact judged fun _ => (Keeps.of_undisturbed (.withRetention s _ ⟨rfl, rfl, rfl, rfl⟩)).trans (raiseTamper_keeps _ _ _)
  | meshEvent samples =>
    exact judged fun _ => (Keeps.of_undisturbed (.withRetention s _ ⟨rfl, rfl, rfl, rfl⟩)).trans (raiseTamper_keeps _ _ _)
  | enclosureNormal input samples => exact enclosureNormal input s samples
  | supplyHighEvent samples =>
    exact judged fun _ => (Keeps.of_undisturbed (.withMonitor s _)).trans (raiseTamper_keeps _ _ _)
  | supplyNotHigh samples => exact judged_undisturbed (.withMonitor _ _)
  | batteryLow samples =>
    exact judged_undisturbed ((Undisturbed.withRetention s _ ⟨rfl, rfl, rfl, rfl⟩).trans (.latch _ _))
  | batteryNotLow samples => exact batteryNotLow s samples
  | clockMeasurement cycles ends => exact clockMeasurement cycles s ends
  | patternTestInterval => exact patternTestInterval s
  | patternTestResult drift => exact patternTestResult drift s
  | calendarSecond => exact calendarSecond s
  | brownout samples => exact brownout s samples
  | mainPowerValid samples => exact mainPowerValid s samples
  | warmResetOnset samples => exact warmResetOnset s samples
  | resetRelease ran drift samples => exact resetRelease ran drift s samples
  | crystalStarted drift => exact crystalStarted drift s
  | crystalStartTimeout => exact crystalStartTimeout s
  | startUpComplete => exact startUpComplete s
  | retentionMarkerLost => exact retentionMarkerLost s
  | commissionProgrammingEnd ok => exact commissionProgrammingEnd ok s
  | disregardedReply e reply => exact idle s

/-! ## The step -/

/-- One cycle of the retention clock keeps the invariants: a calendar's sub-second count stops at 32,767. -/
theorem tick_keeps (s : State) : Keeps s s.countDown.tickOffers := by
  have counted : Keeps s s.countDown := by
    refine ⟨rfl, fun ⟨date, time, sub⟩ => ⟨date, time, ?_⟩, id, id⟩
    simp only [State.countDown]
    split
    · omega
    · exact sub
  unfold State.tickOffers
  split
  · exact counted.trans (.of_undisturbed (.makeOffers _))
  · exact counted

end Sys2Proof.Machine
end

section
/-! PROOF. The invariants of directory, calendar and modes (O3, O5, O6, O7) along a step, and the four invariants at
reset (O8). -/

namespace Sys2Proof.Machine

/-- A step is a command on the queue's rest, or a cycle of the clock with its expiries queued. -/
theorem step_keeps {s t : State} (h : step s = .next t) :
    (∃ rest, Keeps { s with pending := rest } t) ∨
      ∃ u due, Keeps s u ∧ t = { u with pending := due } := by
  cases queue : s.pending with
  | nil =>
    rw [step_empty s queue] at h
    cases h
    exact .inr ⟨_, _, tick_keeps s, rfl⟩
  | cons c rest =>
    rw [step_front s c rest queue] at h
    obtain ⟨u, e, keeps⟩ := exec_completes c { s with pending := rest }
    rw [e] at h
    cases h
    exact .inl ⟨rest, keeps⟩

/-- Settles O3: each command completes, and what it does to the state leaves the queue. -/
theorem everyCommandCompletesAndKeepsTheQueue : Obligations.EveryCommandCompletesAndKeepsTheQueue := fun c s =>
  let ⟨t, completes, keeps⟩ := exec_completes c s
  ⟨t, completes, keeps.pending⟩

/-- Settles O5: every command keeps the directory coherent, and the queue is no part of it. -/
theorem directoryCoherenceIsKept : Obligations.DirectoryCoherenceIsKept := by
  intro s t coherent h
  obtain ⟨rest, keeps⟩ | ⟨u, due, keeps, rfl⟩ := step_keeps h
  · exact keeps.directory coherent
  · exact keeps.directory coherent

/-- Settles O6: every command keeps the calendar legal. -/
theorem calendarStaysLegal : Obligations.CalendarStaysLegal := by
  intro s t legal h
  obtain ⟨rest, keeps⟩ | ⟨u, due, keeps, rfl⟩ := step_keeps h
  · exact keeps.calendar legal
  · exact keeps.calendar legal

/-- Settles O7: every command keeps the modes agreeing. -/
theorem modesKeepAgreeing : Obligations.ModesKeepAgreeing := by
  intro s t agree h
  obtain ⟨rest, keeps⟩ | ⟨u, due, keeps, rfl⟩ := step_keeps h
  · exact keeps.modes agree
  · exact keeps.modes agree

theorem reset_quiet : State.reset.quiet := by
  refine ⟨fun l => ?_, fun e => ?_, rfl, fun e p => ?_⟩
  · simp [State.reset]
  · simp [State.reset, Transmitter.initial]
  · simp [State.reset, State.pos, Position.binding]

/-- Settles O8: at reset the part is quiet, its directory is not in use, its calendar stands at 2000-01-01, and no line
port is served. -/
theorem invariantsHoldAtReset : Obligations.InvariantsHoldAtReset := by
  refine ⟨⟨fun _ => reset_quiet, fun _ => rfl, fun busy => ?_, fun waits => ?_⟩,
    directoryCoherent_of_unused rfl, ⟨rfl, rfl, Nat.zero_lt_succ _⟩, fun _ served => ?_⟩
  · cases busy
  · cases waits
  · cases served

end Sys2Proof.Machine
end

section
/-! PROOF. The frame of the Binding Unit's operations (04, 05): whatever relation its basic updates respect, every one of
its operations respects. -/

namespace Sys2Proof.Machine

/-- A relation between states that a change of a port's link, of a line's progress, of a position, of a transmitter, of
the read slots of the lines, and of a slot's retention or directory entry respects. -/
structure BindingFrame (R : State → State → Prop) : Prop where
  refl : ∀ s, R s s
  trans : ∀ {s t u}, R s t → R t u → R s u
  link : ∀ s p f, R s (s.withLink p f)
  progress : ∀ s l x, R s (s.setProgress l x)
  position : ∀ s e p x, R s (s.setPos e p x)
  bus : ∀ s e f, R s (s.withBus e f)
  reads : ∀ (s : State) (f : ArrayControl → Vector (Option SlotNo) 4),
    R s (s.withControl fun c => { c with lineWait := f c })
  slotRet : ∀ s n f, R s (s.withSlotRet n f)
  slot : ∀ s n f, R s (s.withSlot n f)

namespace BindingFrame
variable {R : State → State → Prop} (F : BindingFrame R)
include F

theorem foldl {α : Type} (f : State → α → State) (hf : ∀ s a, R s (f s a)) (l : List α) (s : State) :
    R s (l.foldl f s) := by
  induction l generalizing s with
  | nil => exact F.refl s
  | cons a l ih => exact F.trans (hf s a) (ih _)

theorem finishLine (s : State) (l : Line) (t c : Byte) (oc : OutcomeCode) (d : List Byte) :
    R s (s.finishLine l t c oc d) := F.trans (F.link s _ _) (F.progress _ _ _)

theorem queueFrame (s : State) (e : Line) (k : FrameKind) : R s (s.queueFrame e k) := F.bus _ _ _

/-! ## Cards (R59 to R61) -/

theorem charge (s : State) (n : SlotNo) (k : Nat) : R s (s.charge n k) := F.slotRet _ _ _

theorem giveBack (s : State) (n : SlotNo) (k : Nat) : R s (s.giveBack n k) := by
  unfold State.giveBack
  split
  · exact F.slotRet _ _ _
  · exact F.refl s

theorem takeGrant (s : State) (n : SlotNo) (k : Nat) : R s (s.takeGrant n k) := by
  unfold State.takeGrant
  split
  · exact F.slotRet _ _ _
  · exact F.refl s

theorem settle (s : State) (b : Binding) (used : Nat) : R s (s.settle b used) :=
  F.trans (F.charge _ _ _) (F.giveBack _ _ _)

/-! ## The line requests (R63 to R74) -/

theorem takeBind (l : Line) (t : Byte) (q : Handle × Nat) (s : State) : R s (takeBind l t q s) := by
  unfold Machine.takeBind
  split
  · exact F.finishLine _ _ _ _ _ _
  · extract_lets grant
    split
    · exact F.finishLine _ _ _ _ _ _
    · exact F.trans (F.trans (F.trans (F.takeGrant s _ _) (F.position _ _ _ _)) (F.reads _ fun c => put c.lineWait l _))
        (F.progress _ _ _)

theorem takeExtend (l : Line) (t : Byte) (q : Pos × Nat) (s : State) : R s (takeExtend l t q s) := by
  unfold Machine.takeExtend
  split
  · split
    · exact F.finishLine _ _ _ _ _ _
    · extract_lets grant total
      split
      · exact F.finishLine _ _ _ _ _ _
      · exact F.trans (F.trans (F.takeGrant s _ _) (F.position _ _ _ _)) (F.finishLine _ _ _ _ _ _)
  · exact F.finishLine _ _ _ _ _ _

theorem releaseAt (s : State) (l : Line) (p : Pos) (used : Nat) : R s (s.releaseAt l p used).1 := by
  unfold State.releaseAt
  split
  · exact F.trans (F.queueFrame s _ _) (F.position _ _ _ _)
  · exact F.trans (F.settle s _ _) (F.position _ _ _ _)
  all_goals exact F.refl s

theorem takeRelease (l : Line) (t : Byte) (q : Pos × Nat) (s : State) : R s (takeRelease l t q s) := by
  unfold Machine.takeRelease
  refine F.trans (F.releaseAt s l q.1 q.2) ?_
  extract_lets u
  split
  · exact F.progress _ _ _
  · exact F.progress _ _ _
  all_goals exact F.finishLine _ _ _ _ _ _

theorem releaseAllCheck (s : State) (l : Line) (t : Byte) (entries : Vector ReleaseEntry 4) :
    R s (s.releaseAllCheck l t entries) := by
  unfold State.releaseAllCheck
  split
  · exact F.finishLine _ _ _ _ _ _
  · exact F.progress _ _ _

theorem takeReleaseAll (l : Line) (t : Byte) (used : Vector Nat 4) (s : State) : R s (takeReleaseAll l t used s) := by
  have releases (ps : List Pos) (acc : State × Vector ReleaseEntry 4) : R acc.1
      (ps.foldl (fun (acc : State × Vector ReleaseEntry 4) p =>
        ((acc.1.releaseAt l p used[p]).1, put acc.2 p (acc.1.releaseAt l p used[p]).2)) acc).1 := by
    induction ps generalizing acc with
    | nil => exact F.refl _
    | cons p ps ih => exact F.trans (F.releaseAt acc.1 l p used[p]) (ih (_, put acc.2 p (acc.1.releaseAt l p used[p]).2))
  exact F.trans (releases four (s, Vector.replicate 4 (.wait 0))) (F.releaseAllCheck _ _ _ _)

theorem clearBlockedCheck (s : State) (l : Line) (t : Byte) (waiting freed : Vector Bool 4) :
    R s (s.clearBlockedCheck l t waiting freed) := by
  unfold State.clearBlockedCheck
  split
  · exact F.progress _ _ _
  · exact F.finishLine _ _ _ _ _ _

theorem takeClearBlocked (l : Line) (t : Byte) (q : Unit) (s : State) : R s (takeClearBlocked l t q s) :=
  F.trans (F.foldl (fun u p => u.queueFrame l (.clear p)) (fun _ _ => F.queueFrame _ _ _) _ s)
    (F.clearBlockedCheck _ _ _ _ _)

/-! ## A BIND's read (R65 to R67) -/

theorem bindFails (s : State) (l : Line) (t : Byte) (p : Pos) (b : Binding) (oc : OutcomeCode) :
    R s (s.bindFails l t p b oc) :=
  F.trans (F.trans (F.position s _ _ _) (F.giveBack _ _ _)) (F.finishLine _ _ _ _ _ _)

theorem bindRead (s : State) (l : Line) (t : Byte) (p : Pos) (asked grant : Nat) (r : SlotRecord) :
    R s (s.bindRead l t p asked grant r) := by
  unfold State.bindRead
  split
  · extract_lets cover
    split
    · exact F.bindFails _ _ _ _ _ _
    · split
      · exact F.trans (F.slot s _ _) (F.bindFails _ _ _ _ _ _)
      · split
        · exact F.bindFails _ _ _ _ _ _
        · exact F.trans (F.trans (F.queueFrame s _ _) (F.bus _ _ _)) (F.progress _ _ _)
  · exact F.refl s

/-! ## The outcomes of frames (R68, R72, R74, R77) -/

theorem popFrame (s : State) (e : Line) : R s (s.popFrame e) := F.bus _ _ _

theorem finishBind (s : State) (e : Line) (p : Pos) (oc : OutcomeCode) (d : List Byte) : R s (s.finishBind e p oc d) := by
  unfold State.finishBind
  split
  · exact F.finishLine _ _ _ _ _ _
  · exact F.refl s

theorem loadAccepted (s : State) (e : Line) (p : Pos) : R s (s.loadAccepted e p) := by
  unfold State.loadAccepted
  split
  · extract_lets t
    split
    · exact F.trans (F.position s _ _ _) (F.finishBind t _ _ _ _)
    · exact F.position _ _ _ _
  · exact F.refl s

theorem loadRefused (s : State) (e : Line) (p : Pos) (reason : Byte) : R s (s.loadRefused e p reason) := by
  unfold State.loadRefused
  split
  · exact F.trans (F.trans (F.trans (F.position s _ _ _) (F.giveBack _ _ _)) (F.bus _ _ _)) (F.finishBind _ _ _ _ _)
  · exact F.refl s

theorem loadSilent (s : State) (e : Line) (p : Pos) : R s (s.loadSilent e p) := by
  unfold State.loadSilent
  split
  · exact F.trans (F.trans (F.trans (F.position s _ _ _) (F.charge _ _ _)) (F.bus _ _ _)) (F.finishBind _ _ _ _ _)
  · exact F.refl s

theorem finishRelease (s : State) (e : Line) (p : Pos) (b : Binding) (used : Nat) (oc : OutcomeCode) :
    R s (s.finishRelease e p b used oc) := by
  unfold State.finishRelease
  split
  · exact F.finishLine _ _ _ _ _ _
  · exact F.releaseAllCheck _ _ _ _
  · exact F.refl s

theorem settleRelease (s : State) (e : Line) (p : Pos) (b : Binding) (used : Nat) (x : Position) (oc : OutcomeCode) :
    R s (s.settleRelease e p b used x oc) :=
  F.trans (F.trans (F.settle s _ _) (F.position _ _ _ _)) (F.finishRelease _ _ _ _ _ _)

theorem endPosition (s : State) (e : Line) (p : Pos) (b : Binding) (reason : EndReason) (unclean : Bool) :
    R s (s.endPosition e p b reason unclean) := by
  unfold State.endPosition
  split
  · exact F.settleRelease _ _ _ _ _ _ _
  · exact F.position _ _ _ _

theorem clearBlockedOutcome (s : State) (e : Line) (p : Pos) (freed : Bool) : R s (s.clearBlockedOutcome e p freed) := by
  unfold State.clearBlockedOutcome
  split
  · exact F.clearBlockedCheck _ _ _ _ _
  · exact F.refl s

theorem clearOutcome (s : State) (e : Line) (p : Pos) (silent : Bool) : R s (s.clearOutcome e p silent) := by
  unfold State.clearOutcome
  split
  · exact F.settleRelease _ _ _ _ _ _ _
  · exact F.endPosition _ _ _ _ _ _
  · split
    · exact F.clearBlockedOutcome _ _ _ _
    · exact F.trans (F.position s _ _ _) (F.clearBlockedOutcome _ _ _ _)
  · exact F.refl s

/-! ## The fall of an engine (R69, R78) -/

theorem bindLosesEngine (s : State) (e : Line) : R s (s.bindLosesEngine e) := by
  unfold State.bindLosesEngine
  split
  · split
    · exact F.trans (F.reads s fun c => put c.lineWait e none) (F.finishLine _ _ _ _ _ _)
    · exact F.progress _ _ _
  · exact F.finishLine _ _ _ _ _ _
  · exact F.refl s

theorem fallAt (e : Line) (s : State) (p : Pos) : R s (State.fallAt e s p) := by
  unfold State.fallAt
  split
  · exact F.refl s
  · exact F.trans (F.trans (F.position s _ _ _) (F.giveBack _ _ _)) (F.bindLosesEngine _ _)
  · exact F.position _ _ _ _
  · exact F.endPosition _ _ _ _ _ _
  · exact F.position _ _ _ _
  · exact F.position _ _ _ _

theorem fallClearBlocked (s : State) (e : Line) (wasBlocked : Vector Bool 4) : R s (s.fallClearBlocked e wasBlocked) := by
  unfold State.fallClearBlocked
  split
  · exact F.finishLine _ _ _ _ _ _
  · exact F.refl s

/-! ## The recall (R76) -/

theorem recallAt (n : SlotNo) (s : State) (ep : Line × Pos) : R s (State.recallAt n s ep) := by
  unfold State.recallAt
  split
  · split
    · exact F.trans (F.queueFrame s _ _) (F.position _ _ _ _)
    · exact F.trans (F.queueFrame s _ _) (F.position _ _ _ _)
    · exact F.refl s
  · exact F.refl s

theorem recallAll (s : State) (n : SlotNo) : R s (s.recall n) := F.foldl _ (F.recallAt n) _ _

end BindingFrame

end Sys2Proof.Machine
end

section
/-! PROOF. The confinement of the clear keys (the Note after R164, R167; R166): two relations that carry keySafe along
the operations. Calm is enough in SERVICE; Confined says besides that a quiet part stays quiet. -/

namespace Sys2Proof.Machine

/-- Without a ceremony the assembly buffer is 00 (R25). -/
def State.idleClear (s : State) : Prop :=
  s.ceremony.current = none → s.ceremony.buffer = Vector.replicate 32 0

/-- From s to t the mode stays, an idle assembly buffer stays 00, and Custody Control submits and starts no erase. -/
structure Calm (s t : State) : Prop where
  present : t.custody.present = s.custody.present
  idle : s.idleClear → t.idleClear
  waits : t.control.custodyWait = s.control.custodyWait
  erases : ∀ b : Bank, t.control.exec = some (.erase b true) → s.control.exec = some (.erase b true)

/-- Besides, outside SERVICE a quiet part stays quiet. -/
structure Confined (s t : State) : Prop extends Calm s t where
  quiet : s.custody.present ≠ .service → s.quiet → t.quiet

/-! ## Custody Control's erases -/

theorem custodyBusy_iff (c : ArrayControl) :
    c.custodyBusy = true ↔ c.custodyWait.isSome = true ∨ ∃ b : Bank, c.exec = some (.erase b true) := by
  unfold ArrayControl.custodyBusy
  cases c.exec with
  | none => simp
  | some op =>
    cases op with
    | erase b custody => cases custody <;> simp
    | readSlot | readReference | programRecord | programMark => simp

theorem not_custodyBusy_iff (c : ArrayControl) :
    c.custodyBusy = false ↔ c.custodyWait = none ∧ ∀ b : Bank, c.exec ≠ some (.erase b true) := by
  rw [← Bool.not_eq_true, custodyBusy_iff]
  simp

/-- Custody Control erases only in ZEROIZING, and never one beside one submitted (R166). -/
def State.custodyInTurn (s : State) : Prop :=
  (s.control.custodyBusy = true → s.custody.present = .zeroizing) ∧
    (s.control.custodyWait.isSome = true → ∀ b : Bank, s.control.exec ≠ some (.erase b true))

theorem keySafe_iff (s : State) :
    s.keySafe ↔ (s.custody.present ≠ .service → s.quiet) ∧ s.idleClear ∧ s.custodyInTurn := Iff.rfl

theorem custodyInTurn_of_not_busy {s : State} (h : s.control.custodyBusy = false) : s.custodyInTurn := by
  obtain ⟨waits, _⟩ := (not_custodyBusy_iff _).mp h
  exact ⟨fun busy => by (rw [h] at busy; cases busy), fun submitted => by (rw [waits] at submitted; cases submitted)⟩

namespace Calm

theorem refl (s : State) : Calm s s := ⟨rfl, id, rfl, fun _ => id⟩

theorem trans {s t u : State} (h : Calm s t) (k : Calm t u) : Calm s u :=
  ⟨k.present.trans h.present, k.idle ∘ h.idle, k.waits.trans h.waits, fun b => h.erases b ∘ k.erases b⟩

theorem custodyBusy {s t : State} (h : Calm s t) (free : s.control.custodyBusy = false) :
    t.control.custodyBusy = false := by
  rw [not_custodyBusy_iff] at free ⊢
  exact ⟨h.waits.trans free.1, fun b e => free.2 b (h.erases b e)⟩

theorem inTurn {s t : State} (h : Calm s t) (turn : s.custodyInTurn) : t.custodyInTurn := by
  refine ⟨fun busy => ?_, fun submitted b e => turn.2 (h.waits ▸ submitted) b (h.erases b e)⟩
  rw [h.present]
  refine turn.1 ((custodyBusy_iff _).mpr ?_)
  obtain submitted | ⟨b, e⟩ := (custodyBusy_iff _).mp busy
  · exact .inl (h.waits ▸ submitted)
  · exact .inr ⟨b, h.erases b e⟩

/-- In SERVICE nothing need be quiet. -/
theorem keySafe {s t : State} (h : Calm s t) (service : s.custody.present = .service) (safe : s.keySafe) : t.keySafe :=
  let ⟨_, idle, turn⟩ := (keySafe_iff s).mp safe
  ⟨fun other => absurd (h.present.trans service) other, h.idle idle, h.inTurn turn⟩

/-- What leaves the ceremony alone, and of the Array Controller Custody Control's slot and the executing operation. -/
theorem of_same {s t : State} (present : t.custody.present = s.custody.present) (ceremony : t.ceremony = s.ceremony)
    (waits : t.control.custodyWait = s.control.custodyWait) (exec : t.control.exec = s.control.exec) : Calm s t :=
  ⟨present, by unfold State.idleClear; rw [ceremony]; exact id, waits, fun _ => by rw [exec]; exact id⟩

/-- Every operation of the Binding Unit is calm. -/
theorem bindings : BindingFrame Calm where
  refl := refl
  trans := trans
  link := fun s p f => by cases p <;> exact of_same rfl rfl rfl rfl
  progress := fun _ _ _ => of_same rfl rfl rfl rfl
  position := fun _ _ _ _ => of_same rfl rfl rfl rfl
  bus := fun _ _ _ => of_same rfl rfl rfl rfl
  reads := fun _ _ => of_same rfl rfl rfl rfl
  slotRet := fun _ _ _ => of_same rfl rfl rfl rfl
  slot := fun _ _ _ => of_same rfl rfl rfl rfl

end Calm

/-- The part of quiet that the links, the positions and the transmitters make up. -/
theorem quiet_congr {s t : State} (progress : t.lineProgress = s.lineProgress)
    (buffers : ∀ e : Line, t.buses[e].buffer = s.buses[e].buffer) (ceremony : s.ceremony.current = none →
      t.ceremony.current = none) (positions : t.positions = s.positions) : s.quiet → t.quiet := by
  rintro ⟨requests, clear, idle, table⟩
  refine ⟨fun l => by rw [progress]; exact requests l, fun e => (buffers e).trans (clear e), ceremony idle, fun e p => ?_⟩
  have same : t.pos e p = s.pos e p := by simp only [State.pos, positions]
  rw [same]; exact table e p

namespace Confined

theorem refl (s : State) : Confined s s := ⟨.refl s, fun _ => id⟩

theorem trans {s t u : State} (h : Confined s t) (k : Confined t u) : Confined s u :=
  ⟨h.toCalm.trans k.toCalm, fun other q => k.quiet (h.present ▸ other) (h.quiet other q)⟩

theorem foldl {α : Type} (f : State → α → State) (hf : ∀ s a, Confined s (f s a)) (l : List α) (s : State) :
    Confined s (l.foldl f s) := by
  induction l generalizing s with
  | nil => exact refl s
  | cons a l ih => exact (hf s a).trans (ih _)

theorem keySafe {s t : State} (h : Confined s t) (safe : s.keySafe) : t.keySafe :=
  let ⟨quiet, idle, turn⟩ := (keySafe_iff s).mp safe
  ⟨fun other => have other' := h.present ▸ other; h.quiet other' (quiet other'), h.idle idle, h.inTurn turn⟩

/-- What leaves all that keySafe looks at alone. -/
theorem of_same {s t : State} (calm : Calm s t) (ceremony : t.ceremony = s.ceremony)
    (progress : t.lineProgress = s.lineProgress) (positions : t.positions = s.positions) (buses : t.buses = s.buses) :
    Confined s t :=
  ⟨calm, fun _ => quiet_congr progress (fun _ => by rw [buses]) (fun idle => ceremony ▸ idle) positions⟩

/-! ## Field updates -/

theorem withLink (s : State) (p : Port) (f : Link → Link) : Confined s (s.withLink p f) := by
  cases p <;> exact of_same (.of_same rfl rfl rfl rfl) rfl rfl rfl rfl
theorem withRetention (s : State) (f : Retention → Retention) : Confined s (s.withRetention f) :=
  of_same (.of_same rfl rfl rfl rfl) rfl rfl rfl rfl
theorem withDirectory (s : State) (f : Directory → Directory) : Confined s (s.withDirectory f) :=
  of_same (.of_same rfl rfl rfl rfl) rfl rfl rfl rfl
theorem withMonitor (s : State) (f : Monitor → Monitor) : Confined s (s.withMonitor f) :=
  of_same (.of_same rfl rfl rfl rfl) rfl rfl rfl rfl
theorem withArray (s : State) (f : KeyArray → KeyArray) : Confined s (s.withArray f) :=
  of_same (.of_same rfl rfl rfl rfl) rfl rfl rfl rfl
theorem withSlot (s : State) (n : SlotNo) (f : SlotDir → SlotDir) : Confined s (s.withSlot n f) :=
  of_same (.of_same rfl rfl rfl rfl) rfl rfl rfl rfl
theorem withBank (s : State) (b : Bank) (f : BankDir → BankDir) : Confined s (s.withBank b f) :=
  of_same (.of_same rfl rfl rfl rfl) rfl rfl rfl rfl
theorem withSlotRet (s : State) (n : SlotNo) (f : SlotRetention → SlotRetention) : Confined s (s.withSlotRet n f) :=
  of_same (.of_same rfl rfl rfl rfl) rfl rfl rfl rfl
theorem nextDraw (s : State) : Confined s s.nextDraw := of_same (.of_same rfl rfl rfl rfl) rfl rfl rfl rfl
theorem withCustProgress (s : State) (x : Option CustProgress) : Confined s { s with custProgress := x } :=
  of_same (.of_same rfl rfl rfl rfl) rfl rfl rfl rfl
theorem withAllocations (s : State) (x : Vector Allocation 4) : Confined s { s with allocations := x } :=
  of_same (.of_same rfl rfl rfl rfl) rfl rfl rfl rfl
theorem withFuses (s : State) (x : Vector Byte 64) : Confined s { s with fuses := x } :=
  of_same (.of_same rfl rfl rfl rfl) rfl rfl rfl rfl

/-- A change of the Array Controller that submits and starts no erase of Custody Control. -/
theorem withControl (s : State) (f : ArrayControl → ArrayControl)
    (waits : (f s.control).custodyWait = s.control.custodyWait)
    (erases : ∀ b : Bank, (f s.control).exec = some (.erase b true) → s.control.exec = some (.erase b true)) :
    Confined s (s.withControl f) := of_same ⟨rfl, id, waits, erases⟩ rfl rfl rfl rfl

/-- A change of Custody Control that keeps the mode. -/
theorem withCustody (s : State) (f : Custody → Custody) (present : (f s.custody).present = s.custody.present) :
    Confined s (s.withCustody f) := of_same (.of_same present rfl rfl rfl) rfl rfl rfl rfl

/-- A change of a transmitter that keeps its buffer or clears it. -/
theorem withBus (s : State) (e : Line) (f : Transmitter → Transmitter)
    (buffer : ∀ t, t.buffer = Vector.replicate 32 0 → (f t).buffer = Vector.replicate 32 0) :
    Confined s (s.withBus e f) := by
  refine ⟨.of_same rfl rfl rfl rfl, fun _ ⟨requests, clear, idle, table⟩ => ⟨requests, fun e' => ?_, idle, table⟩⟩
  simp only [withBus_buses, put_get]
  split
  · exact buffer _ (clear e)
  · exact clear e'

/-- A position takes a value without a binding. -/
theorem setPos (s : State) (e : Line) (p : Pos) (x : Position) (empty : x.binding = none) :
    Confined s (s.setPos e p x) := by
  refine ⟨.of_same rfl rfl rfl rfl, fun _ ⟨requests, clear, idle, table⟩ => ⟨requests, clear, idle, fun e' p' => ?_⟩⟩
  rw [pos_setPos]
  split
  · exact empty
  · exact table e' p'

/-- A line request is over. -/
theorem finishLine (s : State) (l : Line) (t c : Byte) (oc : OutcomeCode) (d : List Byte) :
    Confined s (s.finishLine l t c oc d) := by
  refine ⟨.of_same rfl rfl rfl rfl, fun _ ⟨requests, clear, idle, table⟩ => ⟨fun l' => ?_, clear, idle, table⟩⟩
  simp only [finishLine_lineProgress, put_get]
  split
  · rfl
  · exact requests l'

/-- A change of the ceremony that opens none and clears the buffer with it. -/
theorem withCeremony (s : State) (f : Ceremony → Ceremony)
    (idle : s.ceremony.current = none → (f s.ceremony).current = none)
    (clear : s.idleClear → (f s.ceremony).current = none → (f s.ceremony).buffer = Vector.replicate 32 0) :
    Confined s (s.withCeremony f) :=
  ⟨⟨rfl, fun h => clear h, rfl, fun _ => id⟩, fun _ => quiet_congr rfl (fun _ => rfl) idle rfl⟩

/-! ## Shared operations -/

theorem popRequest (s : State) (p : Port) : Confined s (s.popRequest p) := withLink _ _ _
theorem pushCompletion (s : State) (p : Port) (c : Completion) : Confined s (s.pushCompletion p c) := withLink _ _ _
theorem finishCust (s : State) (t c : Byte) (oc : OutcomeCode) (d : List Byte) : Confined s (s.finishCust t c oc d) :=
  (pushCompletion _ _ _).trans (withCustProgress _ _)
theorem queueFrame (s : State) (e : Line) (k : FrameKind) : Confined s (s.queueFrame e k) :=
  withBus _ _ _ fun _ clear => clear
theorem popFrame (s : State) (e : Line) : Confined s (s.popFrame e) := withBus _ _ _ fun _ clear => clear
theorem latch (s : State) (a : Alarm) : Confined s (s.latch a) := by
  unfold State.latch
  split
  · exact withRetention _ _
  · exact refl s
theorem latchSource (s : State) (src : Source) : Confined s (s.latchSource src) := by
  unfold State.latchSource
  split
  · exact latch _ _
  · exact refl s
theorem recordEvent (s : State) (src : Source) (oc : EventOutcome) : Confined s (s.recordEvent src oc) :=
  withRetention _ _
theorem withRecord (s : State) (n : SlotNo) (f : SlotRecord → SlotRecord) : Confined s (s.withRecord n f) :=
  withArray _ _
theorem execEnded (s : State) : Confined s s.execEnded := withControl _ _ rfl fun _ e => by cases e

/-! ## The ceremony (R48, R49) -/

theorem endCeremony (s : State) : Confined s s.endCeremony := by
  unfold State.endCeremony
  split
  · exact refl s
  · exact (withBank _ _ _).trans (withCeremony _ _ (fun _ => rfl) fun _ _ => rfl)
theorem restartInactivity (s : State) : Confined s s.restartInactivity :=
  withCeremony _ _ (fun idle => by rw [idle]; rfl) fun clear none => clear (by simpa using none)
theorem withOpen (s : State) (f : OpenRecord → OpenRecord) : Confined s (s.withOpen f) :=
  withCeremony _ _ (fun idle => by rw [idle]; rfl) fun clear none => clear (by simpa using none)
theorem reportAbandoned (s : State) (c : Cause) (o : OpenRecord) : Confined s (s.reportAbandoned c o) := by
  unfold State.reportAbandoned
  split
  · exact pushCompletion _ _ _
  · exact withCeremony _ _ id id
theorem abandonFor (s : State) (c : Cause) : Confined s (s.abandonFor c) := by
  unfold State.abandonFor
  split
  · exact refl s
  · split
    · exact refl s
    · exact (endCeremony s).trans (reportAbandoned _ _ _)
theorem finishCommit (s : State) (oc : OutcomeCode) (d : List Byte) : Confined s (s.finishCommit oc d) := by
  unfold State.finishCommit
  split
  · exact finishCust _ _ _ _ _
  · exact refl s

/-! ## The administration client and the fault flag (R106, R113, R114) -/

theorem markEnd (s : State) (n : SlotNo) : Confined s (s.markEnd n) := by
  unfold State.markEnd
  extract_lets t
  split
  · exact (withSlot s _ _).trans (withSlotRet t _ _)
  · exact withSlot s _ _
theorem submitErase (s : State) (b : Bank) : Confined s (s.submitErase b) :=
  (withControl s _ rfl fun _ => id).trans (withBank _ _ _)
theorem submitMark (s : State) (t : Byte) (h : Handle) (n : SlotNo) (r : Nat) : Confined s (s.submitMark t h n r) := by
  unfold State.submitMark
  split
  · exact (markEnd _ _).trans (finishCust _ _ _ _ _)
  · exact (withControl s _ rfl fun _ => id).trans (finishCust _ _ _ _ _)
theorem adminEmptied (s : State) : Confined s s.adminEmptied := by
  unfold State.adminEmptied
  split
  · exact submitMark _ _ _ _ _
  · split
    · exact finishCust _ _ _ _ _
    · exact (submitErase _ _).trans (finishCust _ _ _ _ _)
  · exact refl s
theorem refuseProgram (s : State) : Confined s s.refuseProgram := by
  unfold State.refuseProgram
  split
  · exact refl s
  · exact ((withControl s _ rfl fun _ => id).trans (endCeremony _)).trans (finishCommit _ _ _)
theorem refuseAdmin (s : State) : Confined s s.refuseAdmin := by
  unfold State.refuseAdmin
  split
  · exact refl s
  · exact ((withControl s _ rfl fun _ => id).trans (markEnd _ _)).trans (adminEmptied _)
  · exact ((withControl s _ rfl fun _ => id).trans (withBank _ _ _)).trans (adminEmptied _)
theorem setFault (s : State) : Confined s s.setFault :=
  (((withControl s _ rfl fun _ => id).trans (latch _ _)).trans (refuseProgram _)).trans (refuseAdmin _)

/-! ## The Array Controller -/

theorem markBank (s : State) (b : Bank) (on : Bool) : Confined s (s.markBank b on) := withArray _ _
theorem leaveStoppedErase (s : State) (b : Bank) : Confined s (s.leaveStoppedErase b) := by
  unfold State.leaveStoppedErase
  extract_lets d
  split
  · exact (markBank s _ _).trans (nextDraw _)
  · exact ((markBank s _ _).trans (withArray _ _)).trans (nextDraw _)
theorem resumeCheck (s : State) : Confined s (s.withControl ArrayControl.resumeCheck) := by
  refine withControl _ _ ?_ fun b => ?_
  · unfold ArrayControl.resumeCheck
    split
    · rfl
    · split <;> rfl
  · unfold ArrayControl.resumeCheck
    split
    · exact id
    · split
      · intro e; cases e
      · exact id
theorem startRead (s : State) (k : Fin 5) : Confined s (s.withControl fun c => c.startRead k) := by
  have started (c : ArrayControl) : (c.startRead k).custodyWait = c.custodyWait ∧
      ∀ b : Bank, (c.startRead k).exec = some (.erase b true) → c.exec = some (.erase b true) := by
    unfold ArrayControl.startRead
    split
    · split
      · exact ⟨rfl, fun b e => by cases e⟩
      · exact ⟨rfl, fun b => id⟩
    · split
      · exact ⟨rfl, fun b e => by cases e⟩
      · exact ⟨rfl, fun b => id⟩
  exact withControl _ _ (started _).1 (started _).2
theorem writeTest (s : State) (b : Bank) (f : TestRecord → TestRecord) : Confined s (s.writeTest b f) :=
  withRetention _ _
theorem endSkipped (s : State) (b : Bank) : Confined s (s.endSkipped b) := by
  unfold State.endSkipped State.skipTest
  exact (withControl s _ rfl fun _ => id).trans (writeTest _ _ _)
theorem setDegraded (s : State) (b : Bank) : Confined s (s.setDegraded b) := by
  unfold State.setDegraded
  extract_lets t
  split
  · exact (withBank s _ _).trans (latch t _)
  · exact withBank s _ _
theorem judgeRow (s : State) (b : Bank) (d : List Byte) : Confined s (s.judgeRow b d) := by
  unfold State.judgeRow
  extract_lets n before fails t
  split
  · split
    · exact (writeTest s _ _).trans (setDegraded t _)
    · exact writeTest s _ _
  · exact writeTest s _ _
theorem fillSlot (s : State) (n : SlotNo) (h : Header) : Confined s (s.fillSlot n h) :=
  (withSlot s _ _).trans (withSlotRet _ _ _)
theorem eraseEffects (s : State) (b : Bank) : Confined s (s.eraseEffects b) := by
  unfold State.eraseEffects
  extract_lets count cover dir bank ret t
  have erased : Confined s t := of_same (.of_same rfl rfl rfl rfl) rfl rfl rfl rfl
  split
  · exact (erased.trans (nextDraw t)).trans (latch _ _)
  · exact erased.trans (nextDraw t)

/-! ## Port links -/

theorem address (s : State) (p : Port) (a : Address) (x : Transfer) : Confined s (s.address p a x) := by
  unfold State.address
  extract_lets ack
  exact withLink _ _ _
theorem start (s : State) (p : Port) (a : Address) (x : Transfer) : Confined s (s.start p a x) :=
  (withLink _ _ _).trans (address _ _ _ _)
theorem stop (s : State) (p : Port) (k : Part) : Confined s (s.stop p k) := by
  unfold State.stop
  split
  · exact withLink _ _ _
  · exact refl s
theorem writeCode (s : State) (p : Port) (b : Byte) : Confined s (s.writeCode p b) := by
  unfold State.writeCode
  split
  · exact withLink _ _ _
  · split <;> exact withLink _ _ _
  · exact withLink _ _ _
  · exact withLink _ _ _
theorem writeByte (p : Port) (s : State) (b : Byte) : Confined s (State.writeByte p s b) := by
  unfold State.writeByte
  split
  · exact writeCode _ _ _
  · exact withLink _ _ _
  · exact withLink _ _ _
  · exact withLink _ _ _
  all_goals exact refl s
theorem writeBytes (s : State) (p : Port) (bytes : List Byte) : Confined s (s.writeBytes p bytes) :=
  foldl _ (writeByte p) _ _
theorem clock (s : State) (p : Port) (n : Nat) : Confined s (s.clock p n) := by
  unfold State.clock
  split
  · exact withLink _ _ _
  · exact withLink _ _ _
  · exact withLink _ _ _
  · unfold State.clockDirectory
    extract_lets l more first records
    split <;> exact withLink _ _ _
  all_goals exact refl s
theorem readBytes (s : State) (p : Port) (n : Nat) : Confined s (s.readBytes p n) := by
  unfold State.readBytes
  split
  · exact refl s
  · split
    · exact (withLink _ _ _).trans (clock _ _ _)
    · exact clock _ _ _
theorem readPart (s : State) (p : Port) (a : Address) (k : Part) (w : Window) (n : Nat) :
    Confined s (s.readPart p a k w n) := by
  unfold State.readPart
  split
  · split
    · exact ((start _ _ _ _).trans (readBytes _ _ _)).trans (stop _ _ _)
    · exact refl s
  · exact (readBytes _ _ _).trans (stop _ _ _)

/-! ## The offers of a start-up -/

theorem makeOffers (s : State) : Confined s s.makeOffers := by
  obtain ⟨same, offered⟩ := makeOffers_spec s
  have buffers (e : Line) : s.makeOffers.buses[e].buffer = s.buses[e].buffer := by
    rw [(offered e).2]
    split <;> rfl
  rw [same] at buffers ⊢
  exact ⟨.of_same rfl rfl rfl rfl, fun _ => quiet_congr rfl buffers id rfl⟩

end Confined

end Sys2Proof.Machine
end

section
/-! PROOF. keySafe through a zeroization, the end of the volatile state and a start-up (O4): each leaves the part quiet
before it leaves SERVICE. -/

namespace Sys2Proof.Machine

/-! ## Entering a mode (R167, R170, R177) -/

/-- Nothing of a key is left open, whatever mode is entered next: quiet, the assembly buffer 00 in IDLE, and no erase of
Custody Control. -/
structure State.Shut (s : State) : Prop where
  quiet : s.quiet
  idle : s.idleClear
  free : s.control.custodyBusy = false

theorem State.Shut.keySafe {s : State} (h : s.Shut) : s.keySafe :=
  ⟨fun _ => h.quiet, h.idle, custodyInTurn_of_not_busy h.free⟩

theorem State.Shut.of_same {s t : State} (h : s.Shut) (progress : t.lineProgress = s.lineProgress)
    (buses : t.buses = s.buses) (ceremony : t.ceremony = s.ceremony) (positions : t.positions = s.positions)
    (control : t.control = s.control) : t.Shut where
  quiet := quiet_congr progress (fun _ => by rw [buses]) (fun idle => ceremony ▸ idle) positions h.quiet
  idle := by unfold State.idleClear; rw [ceremony]; exact h.idle
  free := by rw [control]; exact h.free

theorem idleClear_congr {s t : State} (h : t.ceremony = s.ceremony) (idle : s.idleClear) : t.idleClear := by
  unfold State.idleClear
  rw [h]
  exact idle

theorem State.Shut.withRetention {s : State} (h : s.Shut) (f : Retention → Retention) : (s.withRetention f).Shut :=
  h.of_same rfl rfl rfl rfl rfl

theorem State.Shut.withCustody {s : State} (h : s.Shut) (f : Custody → Custody) : (s.withCustody f).Shut :=
  h.of_same rfl rfl rfl rfl rfl

/-- A safe part is shut in every mode but SERVICE and ZEROIZING. -/
theorem shut_of_keySafe {s : State} (safe : s.keySafe) (service : s.custody.present ≠ .service)
    (zeroizing : s.custody.present ≠ .zeroizing) : s.Shut where
  quiet := safe.1 service
  idle := safe.2.1
  free := by
    cases busy : s.control.custodyBusy with
    | false => rfl
    | true => exact absurd (safe.2.2.1 busy) zeroizing

/-! ## Owed erases (R166, R167) -/

theorem keySafe_nextOwed {s : State} (safe : s.keySafe) : s.nextOwed.keySafe := by
  unfold State.nextOwed
  split
  · next due =>
    obtain ⟨mode, free⟩ := due
    split
    · next b _ =>
      have quiet := safe.1 (by rw [mode]; decide)
      obtain ⟨_, none⟩ := (not_custodyBusy_iff _).mp free
      exact (Confined.withBank _ b _).keySafe ⟨fun _ => quiet, safe.2.1, fun _ => mode, fun _ => none⟩
    · exact safe
  · exact safe

/-- An erase of Custody Control that has ended leads on in ZEROIZING or to RECOVERY (R166, R167). -/
theorem keySafe_owedEnded {s : State} (safe : s.keySafe) (mode : s.custody.present = .zeroizing)
    (free : s.control.custodyBusy = false) (b : Bank) : (s.owedEnded b).keySafe := by
  have shut : s.Shut := ⟨safe.1 (by rw [mode]; decide), safe.2.1, free⟩
  unfold State.owedEnded
  extract_lets t
  split
  · exact ((shut.withRetention _).withRetention _ |>.withCustody _).keySafe
  · exact keySafe_nextOwed ((Confined.withRetention s _).keySafe safe)

/-! ## Tamper events (R163, R164, R168) -/

namespace Confined

theorem destroyCovers (s : State) (src : Source) (pl : Place) : Confined s (s.destroyCovers src pl) :=
  ((((withRetention s _).trans (withRetention _ _)).trans (recordEvent _ _ _)).trans (latch _ _)).trans (latchSource _ _)

theorem zeroizeCeremony (s : State) : Confined s s.zeroizeCeremony := by
  unfold State.zeroizeCeremony
  split
  · exact refl s
  · split
    · exact (endCeremony s).trans (finishCommit _ _ _)
    · exact abandonFor _ _

theorem zeroizeCust (s : State) : Confined s s.zeroizeCust := by
  unfold State.zeroizeCust
  split
  · exact finishCust _ _ _ _ _
  · exact finishCust _ _ _ _ _
  · exact refl s

theorem beginUnpowered (s : State) (src : Source) : Confined s (s.beginUnpowered src) := by
  unfold State.beginUnpowered
  extract_lets t
  split
  · exact (destroyCovers _ _ _).trans (withDirectory t _)
  · exact destroyCovers _ _ _

end Confined

theorem nextOwed_ceremony (s : State) : s.nextOwed.ceremony = s.ceremony := by
  unfold State.nextOwed
  split
  · split <;> rfl
  · rfl

/-- A running zeroization leaves an idle assembly buffer at 00. -/
theorem beginRunning_idleClear {s : State} (idle : s.idleClear) (src : Source) : (s.beginRunning src).idleClear := by
  unfold State.beginRunning
  extract_lets s1 s2 s3 s4 s5
  have custody : s1.idleClear :=
    idleClear_congr (s := s.destroyCovers src .running) (withCustody_ceremony _ _) ((Confined.destroyCovers s src _).idle idle)
  have ceremony : s2.idleClear := ((Confined.withDirectory s1 _).trans (.zeroizeCeremony _)).idle custody
  have lines : s4.ceremony = s2.ceremony := by
    obtain ⟨_, table, _⟩ := endTable_eq s2
    obtain ⟨_, ended, _⟩ := zeroizeLines_eq s2.endTable
    simp only [s4, s3, ended, table]
  have array : s4.abortArray.ceremony = s4.ceremony := by
    obtain ⟨_, _, _, aborted, _⟩ := abortArray_eq s4
    rw [aborted]
  have aborted : s4.abortArray.idleClear := idleClear_congr (array.trans lines) ceremony
  have cust : s5.idleClear := (Confined.zeroizeCust _).idle aborted
  clear_value s5
  exact idleClear_congr (nextOwed_ceremony _) ((Confined.withMonitor s5 _).idle cust)

/-- A running zeroization leaves the part in ZEROIZING, quiet, and with its first erase submitted. -/
theorem beginRunning_keySafe {s : State} (safe : s.keySafe) (src : Source) (marker : s.retention.marker = true) :
    (s.beginRunning src).keySafe := by
  obtain ⟨_, custody, _, _, _, _, _, _, _, _, _, _, exec, _, _, positions, progress, _, _, _, _, _, _, buses, idle, _⟩ :=
    beginRunning_zeroized s src marker
  have quiet : (s.beginRunning src).quiet :=
    ⟨progress, fun e => by rw [buses e], idle, fun e p => by rw [positions e p]; rfl⟩
  exact ⟨fun _ => quiet, beginRunning_idleClear safe.2.1 src, fun _ => by rw [custody],
    fun _ b => by rw [exec]; exact nofun⟩

theorem raiseTamper_keySafe {s : State} (safe : s.keySafe) (src : Source) (act : Action) :
    (s.raiseTamper src act).keySafe := by
  have noted (oc : EventOutcome) : ((s.latchSource src).recordEvent src oc).keySafe :=
    ((Confined.latchSource s src).trans (.recordEvent _ _ _)).keySafe safe
  unfold State.raiseTamper
  extract_lets recorded alarmed
  split
  · exact safe
  · next marker =>
    rw [Bool.not_eq_false] at marker
    split
    · exact safe
    · exact noted _
    · exact noted _
    · split
      · exact beginRunning_keySafe safe src marker
      · exact noted _
    all_goals
      split
      · split
        · exact (Confined.beginUnpowered s src).keySafe safe
        · exact noted _
      · exact noted _

theorem closeWindow_keySafe {s : State} (safe : s.keySafe) : s.closeWindow.keySafe := by
  unfold State.closeWindow
  extract_lets t
  have closed : t.keySafe := (Confined.withMonitor s _).keySafe safe
  split
  · exact raiseTamper_keySafe closed _ _
  · exact closed

theorem judgeClock_keySafe {s : State} (safe : s.keySafe) (e : List Measurement) : (s.judgeClock e).keySafe := by
  unfold State.judgeClock
  extract_lets t fails u
  have judged : Confined s t := .withMonitor s _
  split
  · exact ((judged.trans (.withRetention t _)).trans (.withMonitor _ _)).keySafe safe
  · have failed : u.keySafe := (judged.trans (.withMonitor t _)).keySafe safe
    split
    · exact raiseTamper_keySafe failed _ _
    · exact failed

/-! ## The end of the volatile state and the start-up (R172 to R180) -/

theorem endVolatile_shut (s : State) : s.endVolatile.Shut where
  quiet := by
    refine ⟨fun l => ?_, fun e => ?_, rfl, fun e p => ?_⟩
    · rw [endVolatile_lineProgress]; exact Vector.getElem_replicate _
    · simp only [State.endVolatile, mapTable_get, Transmitter.ended, Transmitter.initial]
    · obtain ⟨_, _, left⟩ := leaveStopped_eq s.leaveFuses.endTable
      have free : s.endVolatile.positions = noPositions := by simp only [State.endVolatile, left, endTable_positions]
      simp only [State.pos, free, noPositions_get]
      rfl
  idle := fun _ => rfl
  free := rfl

theorem loadFuses_shut {s : State} (h : s.Shut) : s.loadFuses.Shut := by
  obtain ⟨_, loaded⟩ := loadFuses_eq s
  rw [loaded]
  exact h.of_same rfl rfl rfl rfl rfl

theorem scan_shut {s : State} (h : s.Shut) (drift : List (Nat × List Byte)) : (s.scan drift).Shut :=
  h.of_same rfl rfl rfl rfl rfl

theorem stepsFiveToSeven_keySafe {s : State} (h : s.Shut) (drift : List (Nat × List Byte)) :
    (s.stepsFiveToSeven drift).keySafe := by
  unfold State.stepsFiveToSeven
  extract_lets reinitialised t u v
  have checked : t.Shut := (h.withCustody _).withRetention _
  split
  · have scanned : u.Shut := scan_shut checked drift
    have judged : v.keySafe := by
      simp only [v]
      split
      · exact raiseTamper_keySafe scanned.keySafe _ _
      · exact scanned.keySafe
    split
    · exact (Confined.makeOffers v).keySafe judged
    · exact judged
  · exact (checked.withCustody _).keySafe

theorem fromStepThree_keySafe {s : State} (h : s.Shut) (skip : Bool) (drift : List (Nat × List Byte)) :
    (s.fromStepThree skip drift).keySafe := by
  unfold State.fromStepThree
  extract_lets t
  have loaded : t.Shut := loadFuses_shut h
  split
  · exact ((loaded.withCustody _).withRetention _).keySafe
  · split
    · exact stepsFiveToSeven_keySafe loaded drift
    · exact (loaded.withCustody _).keySafe

theorem enterResume_keySafe {s : State} (h : s.Shut) : s.enterResume.keySafe := by
  unfold State.enterResume
  extract_lets m t
  have entered : t.keySafe := (h.withCustody _).keySafe
  cases m with
  | service => exact (Confined.withMonitor t _).keySafe entered
  | zeroizing => exact keySafe_nextOwed entered
  | recovery => exact entered

end Sys2Proof.Machine
end

section
/-! PROOF. keySafe through the requests of the ports (O4): a handling that could open a key is reached in SERVICE only,
and a REARM enters it from a shut RECOVERY. -/

namespace Sys2Proof.Machine

/-! ## The takes (R36, R58) -/

theorem takeLine_keySafe {α : Type} {s : State} (safe : s.keySafe) (l : Line) (code : Byte) (parse : Message → Option α)
    (act : Byte → α → State → State) (acts : ∀ t q u, Calm u (act t q u)) : (s.takeLine l code parse act).keySafe := by
  have completed (t : Byte) (oc : OutcomeCode) : ((s.popRequest (.line l)).finishLine l t code oc []).keySafe :=
    ((Confined.popRequest s _).trans (.finishLine _ _ _ _ _ _)).keySafe safe
  unfold State.takeLine
  split
  · exact safe
  · next m _ =>
    split
    · extract_lets t
      split
      · next service =>
        split
        · exact completed _ _
        · exact ((Confined.popRequest s (.line l)).toCalm.trans (acts _ _ t)).keySafe service safe
      · exact completed _ _
    · exact safe

theorem Confined.custTaking (s : State) (t : Byte) : Confined s (s.custTaking t) :=
  (popRequest s .cust).trans (withCustProgress _ _)

theorem takeCust_keySafe {α : Type} {s : State} (safe : s.keySafe) (code : Byte) (gate : Mode → Option OutcomeCode)
    (need : SwitchNeed) (parse : Message → Option α) (act : Byte → α → State → State)
    (acts : ∀ t q u, gate u.custody.present = none → u.keySafe → (act t q u).keySafe) :
    (s.takeCust code gate need parse act).keySafe := by
  have taken (t : Byte) : (s.custTaking t).keySafe := (Confined.custTaking s t).keySafe safe
  have completed (t : Byte) (oc : OutcomeCode) : ((s.custTaking t).finishCust t code oc []).keySafe :=
    (Confined.finishCust _ _ _ _ _).keySafe (taken t)
  unfold State.takeCust
  split
  · exact safe
  · next m _ =>
    split
    · extract_lets t
      split
      · exact completed _ _
      · next passed =>
        split
        · exact completed _ _
        · split
          · exact acts _ _ _ passed (taken m.tag)
          · exact completed _ _
    · exact safe

theorem takeCust_confined {α : Type} {s : State} (safe : s.keySafe) (code : Byte) (gate : Mode → Option OutcomeCode)
    (need : SwitchNeed) (parse : Message → Option α) (act : Byte → α → State → State)
    (acts : ∀ t q u, Confined u (act t q u)) : (s.takeCust code gate need parse act).keySafe :=
  takeCust_keySafe safe code gate need parse act fun t q u _ taken => (acts t q u).keySafe taken

theorem service_of_gateService {m : Mode} (passed : gateService m = none) : m = .service := by
  cases m <;> simp [gateService] at passed ⊢

theorem takeCust_calm {α : Type} {s : State} (safe : s.keySafe) (code : Byte) (need : SwitchNeed)
    (parse : Message → Option α) (act : Byte → α → State → State) (acts : ∀ t q u, Calm u (act t q u)) :
    (s.takeCust code gateService need parse act).keySafe :=
  takeCust_keySafe safe code gateService need parse act fun t q u passed taken =>
    (acts t q u).keySafe (service_of_gateService passed) taken

namespace Calm

/-! ## Ceremonies (R38 to R47) -/

/-- An open ceremony's buffer may hold what it will. -/
theorem withOpenCeremony (s : State) (f : Ceremony → Ceremony) (isOpen : (f s.ceremony).current ≠ none) :
    Calm s (s.withCeremony f) := ⟨rfl, fun _ idle => absurd idle isOpen, rfl, fun _ => id⟩

theorem finishCust (s : State) (t c : Byte) (oc : OutcomeCode) (d : List Byte) : Calm s (s.finishCust t c oc d) :=
  (Confined.finishCust s t c oc d).toCalm

theorem restartInactivity (s : State) : Calm s s.restartInactivity := (Confined.restartInactivity s).toCalm

theorem takeOpen (t : Byte) (q : OpenRequest) (s : State) : Calm s (takeOpen t q s) := by
  unfold Machine.takeOpen
  split
  · exact (restartInactivity s).trans (finishCust _ _ _ _ _)
  · split
    · exact finishCust _ _ _ _ _
    · split
      · exact finishCust _ _ _ _ _
      · split
        · exact finishCust _ _ _ _ _
        · exact ((Confined.withBank s _ _).toCalm.trans (withOpenCeremony _ _ (Option.some_ne_none _))).trans (finishCust _ _ _ _ _)

theorem acceptComponent (s : State) (o : OpenRecord) (q : ComponentRequest) (isOpen : s.ceremony.current ≠ none) :
    Calm s (s.acceptComponent o q) :=
  (Confined.withOpen s _).toCalm.trans (withOpenCeremony _ _ (by simpa [State.withOpen] using isOpen))

theorem takeComponent (t : Byte) (q : ComponentRequest) (s : State) : Calm s (takeComponent t q s) := by
  unfold Machine.takeComponent
  split
  · exact finishCust _ _ _ _ _
  · next o isOpen =>
    extract_lets u
    have restarted : Calm s u := restartInactivity s
    split
    · exact finishCust _ _ _ _ _
    · split
      · exact restarted.trans (finishCust _ _ _ _ _)
      · split
        · exact restarted.trans (finishCust _ _ _ _ _)
        · split
          · have stillOpen : u.ceremony.current ≠ none := by simp [u, State.restartInactivity, isOpen]
            exact (restarted.trans (acceptComponent u o q stillOpen)).trans (finishCust _ _ _ _ _)
          · split
            · exact (restarted.trans (Confined.withOpen u _).toCalm).trans (finishCust _ _ _ _ _)
            · exact (restarted.trans (Confined.endCeremony u).toCalm).trans (finishCust _ _ _ _ _)

theorem commitKey (s : State) (t : Byte) (o : OpenRecord) (q : CommitRequest) (isOpen : s.ceremony.current ≠ none) :
    Calm s (s.commitKey t o q) := by
  unfold State.commitKey
  extract_lets key u record
  have adjusted : Calm s u := withOpenCeremony s _ isOpen
  split
  · exact (adjusted.trans (restartInactivity u)).trans (finishCust _ _ _ _ _)
  · split
    · exact (adjusted.trans (Confined.endCeremony u).toCalm).trans (finishCust _ _ _ _ _)
    · exact adjusted.trans (((Confined.withOpen u _).trans (.withControl _ _ rfl fun _ => id)).trans
        (.withCustProgress _ _)).toCalm

theorem takeCommit (t : Byte) (q : CommitRequest) (s : State) : Calm s (takeCommit t q s) := by
  unfold Machine.takeCommit
  split
  · exact finishCust _ _ _ _ _
  · next o isOpen =>
    extract_lets refuse
    have refused (oc : OutcomeCode) : Calm s (refuse oc) := (restartInactivity s).trans (finishCust _ _ _ _ _)
    split
    · exact finishCust _ _ _ _ _
    · split
      · exact refused _
      · split
        · exact refused _
        · split
          · exact refused _
          · exact commitKey s t o q (by simp [isOpen])

theorem takeAbandon (t : Byte) (q : Unit) (s : State) : Calm s (takeAbandon t q s) := by
  unfold Machine.takeAbandon
  split
  · exact finishCust _ _ _ _ _
  · split
    · exact finishCust _ _ _ _ _
    · exact (Confined.endCeremony s).toCalm.trans (finishCust _ _ _ _ _)

/-! ## RETIRE (R125, R126) -/

theorem takeRetire (t : Byte) (q : Handle × Bool) (s : State) : Calm s (takeRetire t q s) := by
  unfold Machine.takeRetire
  split
  split
  · exact finishCust _ _ _ _ _
  · next n _ =>
    split
    · exact finishCust _ _ _ _ _
    · extract_lets marked u recalled
      have recalled' : Calm s u := by
        simp only [u]
        split
        · exact (Confined.withSlot s _ _).toCalm.trans (bindings.recallAll marked n)
        · exact (Confined.withSlot s _ _).toCalm
      split
      · exact recalled'.trans (Confined.submitMark u _ _ _ _).toCalm
      · exact recalled'.trans (Confined.withCustProgress u _).toCalm

end Calm

namespace Confined

/-! ## Administration and the calendar (R123 to R143, R183) -/

theorem takeAllocate (t : Byte) (q : Line × Byte × Byte) (s : State) : Confined s (takeAllocate t q s) := by
  unfold Machine.takeAllocate
  split
  split
  · exact finishCust _ _ _ _ _
  · exact (withAllocations s _).trans (finishCust _ _ _ _ _)

theorem takeHold (code : Byte) (on : Bool) (t : Byte) (q : Handle) (s : State) : Confined s (takeHold code on t q s) := by
  unfold Machine.takeHold
  split
  · exact finishCust _ _ _ _ _
  · split
    · exact finishCust _ _ _ _ _
    · exact finishCust _ _ _ _ _
    all_goals exact (withSlotRet s _ _).trans (finishCust _ _ _ _ _)

theorem takeReclaim (t : Byte) (b : Bank) (s : State) : Confined s (takeReclaim t b s) := by
  unfold Machine.takeReclaim
  split
  · exact finishCust _ _ _ _ _
  · extract_lets epoch
    split
    · exact (submitErase s b).trans (finishCust _ _ _ _ _)
    · exact withCustProgress s _

theorem takeOpenWindow (t : Byte) (q : Unit) (s : State) : Confined s (takeOpenWindow t q s) :=
  (withMonitor s _).trans (finishCust _ _ _ _ _)
theorem takeSetMask (t : Byte) (q : Byte) (s : State) : Confined s (takeSetMask t q s) :=
  (withRetention s _).trans (finishCust _ _ _ _ _)
theorem takeClearAlarms (t : Byte) (q : Byte) (s : State) : Confined s (takeClearAlarms t q s) :=
  (withRetention s _).trans (finishCust _ _ _ _ _)
theorem takeClearFault (t : Byte) (q : Unit) (s : State) : Confined s (takeClearFault t q s) :=
  (withControl s _ rfl fun _ => id).trans (finishCust _ _ _ _ _)
theorem takeClearReset (t : Byte) (q : Unit) (s : State) : Confined s (takeClearReset t q s) :=
  (withRetention s _).trans (finishCust _ _ _ _ _)
theorem takeCommission (t : Byte) (q : Vector Byte 64) (s : State) : Confined s (takeCommission t q s) :=
  withCustProgress s _

theorem sweep (s : State) : Confined s s.sweep := withDirectory _ _

theorem takeSetTime (t : Byte) (q : Date × Time) (s : State) : Confined s (takeSetTime t q s) := by
  unfold Machine.takeSetTime
  split
  · extract_lets before u
    exact ((withRetention s _).trans (sweep u)).trans (finishCust _ _ _ _ _)
  · exact finishCust _ _ _ _ _

end Confined

/-! ## The service window, ZEROIZE and REARM (R132, R137, R170) -/

theorem takeCloseWindow_keySafe {s : State} (safe : s.keySafe) (t : Byte) (q : Unit) :
    (takeCloseWindow t q s).keySafe := by
  unfold takeCloseWindow
  extract_lets u
  have closed : u.keySafe := by
    simp only [u]
    split
    · exact closeWindow_keySafe safe
    · exact safe
  exact (Confined.finishCust u _ _ _ _).keySafe closed

theorem takeZeroize_keySafe {s : State} (safe : s.keySafe) (t : Byte) (q : Unit) : (takeZeroize t q s).keySafe :=
  (Confined.finishCust _ _ _ _ _).keySafe (raiseTamper_keySafe safe _ _)

/-- A REARM finds a shut RECOVERY; the standing sources may then begin a zeroization. -/
theorem takeRearm_keySafe {s : State} (safe : s.keySafe) (passed : gateRearm s.custody.present = none) (tag : Byte)
    (q : Unit) : (takeRearm tag q s).keySafe := by
  have recovery : s.custody.present = .recovery := by
    cases mode : s.custody.present <;> rw [mode] at passed <;> simp [gateRearm] at passed ⊢
  have shut : s.Shut := shut_of_keySafe safe (by rw [recovery]; decide) (by rw [recovery]; decide)
  unfold takeRearm
  extract_lets t order
  have served : t.keySafe :=
    ((Confined.withMonitor _ _).trans (.finishCust _ _ _ _ _)).keySafe ((shut.withRetention _).withCustody _).keySafe
  exact foldl_keeps State.keySafe (fun u (e : Source × Action) => u.raiseTamper e.1 e.2)
    (fun u e h => raiseTamper_keySafe h e.1 e.2) order t.nextDraw ((Confined.nextDraw t).keySafe served)

end Sys2Proof.Machine
end

section
/-! PROOF. keySafe through the key buses, the Array Controller, the monitors and the start-up, and along a step (O4): a
quiet part's buses find no binding and no request to act on. -/

namespace Sys2Proof.Machine

/-- A command's outcome is a next state, and keySafe holds in it. -/
def StaysSafe (o : Host.Outcome State Fault Refusal) : Prop := ∃ t, o = .next t ∧ t.keySafe

/-- In SERVICE it is enough to be calm; elsewhere the part is quiet. -/
theorem keySafe_of_calm {s t : State} (safe : s.keySafe) (calm : Calm s t) (confined : s.quiet → Confined s t) :
    t.keySafe := by
  by_cases service : s.custody.present = .service
  · exact calm.keySafe service safe
  · exact (confined (safe.1 service)).keySafe safe

/-! ## A quiet part's key buses (R68 to R79) -/

/-- A quiet part's positions are FREE or BLOCKED. -/
theorem quiet_pos {s : State} (h : s.quiet) (e : Line) (p : Pos) : s.pos e p = .free ∨ s.pos e p = .blocked := by
  have none := h.2.2.2 e p
  revert none
  cases s.pos e p <;> simp [Position.binding]

theorem clearAllPosition_empty (silent : Bool) {x : Position} (empty : x.binding = none) :
    (clearAllPosition silent x).binding = none := by
  cases x with
  | free | blocked => cases silent <;> rfl
  | loading | bound | clearing | ended => cases empty

namespace Confined

/-- A change of the Array Controller after which a suspended erase may resume. -/
theorem resumed (s : State) (f : ArrayControl → ArrayControl) (waits : (f s.control).custodyWait = s.control.custodyWait)
    (erases : ∀ b : Bank, (f s.control).exec = some (.erase b true) → s.control.exec = some (.erase b true)) :
    Confined s (s.withControl fun c => (f c).resumeCheck) :=
  (withControl s f waits erases).trans (resumeCheck (s.withControl f))

/-- Operations that are confined in a quiet part, one after another, outside SERVICE. -/
theorem foldl_quiet {α : Type} (f : State → α → State) (hf : ∀ s a, s.quiet → Confined s (f s a)) (l : List α)
    (s : State) (other : s.custody.present ≠ .service) (h : s.quiet) : Confined s (l.foldl f s) := by
  induction l generalizing s with
  | nil => exact refl s
  | cons a l ih =>
    have first := hf s a h
    exact first.trans (ih _ (first.present ▸ other) (first.quiet other h))

theorem loadAccepted {s : State} (h : s.quiet) (e : Line) (p : Pos) : Confined s (s.loadAccepted e p) := by
  unfold State.loadAccepted
  obtain free | blocked := quiet_pos h e p
  · rw [free]; exact refl s
  · rw [blocked]; exact refl s

theorem loadRefused {s : State} (h : s.quiet) (e : Line) (p : Pos) (r : Byte) : Confined s (s.loadRefused e p r) := by
  unfold State.loadRefused
  obtain free | blocked := quiet_pos h e p
  · rw [free]; exact refl s
  · rw [blocked]; exact refl s

theorem loadSilent {s : State} (h : s.quiet) (e : Line) (p : Pos) : Confined s (s.loadSilent e p) := by
  unfold State.loadSilent
  obtain free | blocked := quiet_pos h e p
  · rw [free]; exact refl s
  · rw [blocked]; exact refl s

theorem clearBlockedOutcome {s : State} (h : ∀ l : Line, s.lineProgress[l] = none) (e : Line) (p : Pos) (freed : Bool) :
    Confined s (s.clearBlockedOutcome e p freed) := by
  unfold State.clearBlockedOutcome
  rw [h e]
  exact refl s

theorem clearOutcome {s : State} (h : s.quiet) (e : Line) (p : Pos) (silent : Bool) :
    Confined s (s.clearOutcome e p silent) := by
  unfold State.clearOutcome
  obtain free | blocked := quiet_pos h e p
  · rw [free]; exact refl s
  · rw [blocked]
    dsimp only
    split
    · exact clearBlockedOutcome h.1 _ _ _
    · exact (setPos s e p .free rfl).trans (clearBlockedOutcome (s := s.setPos e p .free) h.1 _ _ _)

theorem offerOver (s : State) (e : Line) : Confined s (s.offerOver e) := withCustody s _ rfl

theorem clearAllOutcome (s : State) (e : Line) (silent : Bool) : Confined s (s.clearAllOutcome e silent) := by
  suffices outcome : Confined s { s with positions := put s.positions e (mapTable (clearAllPosition silent) s.positions[e]) }
    from outcome.trans (offerOver _ e)
  refine ⟨.of_same rfl rfl rfl rfl, fun _ ⟨requests, clear, idle, table⟩ => ⟨requests, clear, idle, fun e' p => ?_⟩⟩
  simp only [State.pos, put_get]
  split
  · rw [mapTable_get]; exact clearAllPosition_empty silent (table e p)
  · exact table e' p

theorem deliverSilence {s : State} (h : s.quiet) (e : Line) (f : Frame) : Confined s (s.deliverSilence e f) := by
  unfold State.deliverSilence
  split
  · exact refl s
  · split
    · exact loadSilent h _ _
    · exact clearOutcome h _ _ _
    · exact clearAllOutcome _ _ _

theorem deliverDone {s : State} (h : s.quiet) (e : Line) (f : Frame) : Confined s (s.deliverDone e f) := by
  unfold State.deliverDone
  split
  · exact refl s
  · split
    · exact clearOutcome h _ _ _
    · exact clearAllOutcome _ _ _
    · exact refl s

theorem fallAt {s : State} (h : s.quiet) (e : Line) (p : Pos) : Confined s (State.fallAt e s p) := by
  unfold State.fallAt
  obtain free | blocked := quiet_pos h e p
  · rw [free]; exact refl s
  · rw [blocked]; exact setPos s e p .free rfl

theorem fallClearBlocked {s : State} (h : s.quiet) (e : Line) (w : Vector Bool 4) : Confined s (s.fallClearBlocked e w) := by
  unfold State.fallClearBlocked
  rw [h.1 e]
  exact refl s

end Confined

namespace Calm

theorem deliverSilence (s : State) (e : Line) (f : Frame) : Calm s (s.deliverSilence e f) := by
  unfold State.deliverSilence
  split
  · exact refl s
  · split
    · exact bindings.loadSilent _ _ _
    · exact bindings.clearOutcome _ _ _ _
    · exact (Confined.clearAllOutcome _ _ _).toCalm

theorem deliverDone (s : State) (e : Line) (f : Frame) : Calm s (s.deliverDone e f) := by
  unfold State.deliverDone
  split
  · exact refl s
  · split
    · exact bindings.clearOutcome _ _ _ _
    · exact (Confined.clearAllOutcome _ _ _).toCalm
    · exact refl s

end Calm

/-- The frame that is answered leaves the queue first, which keeps a quiet part quiet. -/
theorem answered_keySafe {s t : State} (safe : s.keySafe) (e : Line) (calm : Calm (s.popFrame e) t)
    (confined : (s.popFrame e).quiet → Confined (s.popFrame e) t) : t.keySafe :=
  keySafe_of_calm ((Confined.popFrame s e).keySafe safe) calm confined

namespace StaysSafe

theorem next {t : State} (h : t.keySafe) : StaysSafe (.next t) := ⟨t, rfl, h⟩
theorem confined {s t : State} (safe : s.keySafe) (h : Confined s t) : StaysSafe (.next t) := next (h.keySafe safe)

/-- A command that is judged by a condition and changes nothing where it fails. -/
theorem judged {s t : State} (safe : s.keySafe) {c : Prop} [Decidable c] (h : c → t.keySafe) :
    StaysSafe (if c then .next t else .next s) := by
  split
  · next hc => exact next (h hc)
  · exact next safe

theorem judged_confined {s t : State} (safe : s.keySafe) {c : Prop} [Decidable c] (h : Confined s t) :
    StaysSafe (if c then .next t else .next s) := judged safe fun _ => h.keySafe safe

variable {s : State} (safe : s.keySafe)
include safe

/-! ## Port links (R185 to R188) -/

theorem requestAdmitted (p : Port) (addr : Address) (message : List Byte) (part : Part) :
    StaysSafe (execRequestAdmitted p addr message s part) := by
  unfold execRequestAdmitted
  extract_lets t
  have started : Confined s t := by
    simp only [t]
    split
    · exact (Confined.start _ _ _ _).trans (.writeByte _ _ _)
    · exact .refl s
  exact confined safe ((started.trans (.writeBytes _ _ _)).trans (.stop _ _ _))

theorem windowSelect (p : Port) (addr : Address) (code : Option Byte) (reads : Nat) (written : List Byte) (part : Part) :
    StaysSafe (execWindowSelect p addr code reads s written part) := by
  unfold execWindowSelect
  extract_lets t u v
  have started : Confined s t := by
    simp only [t]
    split
    · split
      · exact (Confined.start _ _ _ _).trans (.writeByte _ _ _)
      · exact .start _ _ _ _
    · exact .refl s
  have addressed : Confined u v := by
    simp only [v]
    split
    · exact .address _ _ _ _
    · exact .refl u
  exact confined safe ((((started.trans (.writeBytes _ _ _)).trans addressed).trans (.readBytes _ _ _)).trans (.stop _ _ _))

theorem directoryPointerWrite (p : Port) (addr : Address) (pointer : Byte) (extra : List Byte) :
    StaysSafe (execDirectoryPointerWrite p addr pointer s extra) :=
  confined safe ((((Confined.start _ _ _ _).trans (.writeByte _ _ _)).trans (.writeBytes _ _ _)).trans (.stop _ _ _))

theorem unknownRequestCode (p : Port) : StaysSafe (execUnknownRequestCode p s) := by
  unfold execUnknownRequestCode
  split
  · exact next safe
  · split
    · exact next safe
    · exact confined safe ((Confined.popRequest _ _).trans (.pushCompletion _ _ _))

/-! ## Key buses (R86 to R95) -/

theorem accept (e : Line) (reply : List Byte) : StaysSafe (execAccept e reply s) := by
  unfold execAccept
  split
  · split
    · next p _ _ _ _ =>
      split
      · exact confined safe (.popFrame _ _)
      · exact next (answered_keySafe safe e (Calm.bindings.loadAccepted _ _ _) fun h => .loadAccepted h e p)
    · exact next safe
  · exact next safe

theorem refuse (e : Line) (reply : List Byte) : StaysSafe (execRefuse e reply s) := by
  unfold execRefuse
  split
  · split
    · next p _ _ _ _ =>
      split
      · exact confined safe (.popFrame _ _)
      · exact next (answered_keySafe safe e (Calm.bindings.loadRefused _ _ _ _) fun h => .loadRefused h e p _)
    · exact next safe
  · exact next safe

theorem done (e : Line) (reply : List Byte) : StaysSafe (execDone e reply s) := by
  unfold execDone
  split
  · exact next (answered_keySafe safe e (.deliverDone _ _ _) fun h => .deliverDone h e _)
  · exact next safe

theorem replyTimeout (e : Line) : StaysSafe (execReplyTimeout e s) := by
  unfold execReplyTimeout
  split
  · exact next (answered_keySafe safe e (.deliverSilence _ _ _) fun h => .deliverSilence h e _)
  · exact next safe

theorem frameSent (e : Line) : StaysSafe (execFrameSent e s) := by
  refine judged_confined safe (.withBus s e _ fun t clear => ?_)
  dsimp only
  split
  · rfl
  · exact clear

theorem engineReadyFall (e : Line) (samples : Samples) : StaysSafe (execEngineReadyFall e s samples) := by
  unfold execEngineReadyFall
  split
  · extract_lets wasBlocked t
    have cleared : Confined s (s.withBus e Transmitter.fall) := .withBus s e _ fun _ _ => rfl
    have fallen : Calm s (t.fallClearBlocked e wasBlocked) :=
      (cleared.toCalm.trans (Calm.bindings.foldl _ (Calm.bindings.fallAt e) _ _)).trans
        (Calm.bindings.fallClearBlocked _ _ _)
    have quietly (other : s.custody.present ≠ .service) (h : s.quiet) : Confined s (t.fallClearBlocked e wasBlocked) := by
      have positions : Confined s t := cleared.trans
        (.foldl_quiet _ (fun u p q => .fallAt q e p) _ _ (cleared.present ▸ other) (cleared.quiet other h))
      exact positions.trans (.fallClearBlocked (positions.quiet other h) _ _)
    have settled : (t.fallClearBlocked e wasBlocked).keySafe := by
      by_cases service : s.custody.present = .service
      · exact fallen.keySafe service safe
      · exact (quietly service (safe.1 service)).keySafe safe
    exact confined settled ((Confined.offerOver _ e).trans (.resumeCheck _))
  · exact next safe

/-! ## A BIND's read and the Array Controller (R65, R101 to R111) -/

theorem readSlotComplete (drift : List Byte) : StaysSafe (execReadSlotComplete drift s) := by
  unfold execReadSlotComplete
  split
  · next l n _ =>
    extract_lets t u
    have ended : Confined s t := .withControl s _ rfl fun _ e => by cases e
    have read : Calm t u := by
      simp only [u]
      split
      · exact Calm.bindings.bindRead _ _ _ _ _ _ _
      · exact Calm.bindings.finishLine _ _ _ _ _ _
      · exact .refl t
    have quietly (h : t.quiet) : Confined t u := by
      have none : s.lineProgress[l] = none := h.1 l
      simp only [u, none]
      exact .refl t
    exact confined (keySafe_of_calm (ended.keySafe safe) read quietly) (.resumeCheck u)
  · exact next safe

omit safe in
theorem startErase (b : Bank) : Confined s (s.startErase b false) :=
  (Confined.withControl s _ rfl fun _ e => by cases e).trans (.markBank _ _ _)

/-- The erase of Custody Control that starts is no longer submitted. -/
theorem startOwed (b : Bank) (submitted : s.control.custodyWait = some b) :
    ((s.withControl fun c => { c with custodyWait := none }).startErase b true).keySafe := by
  have mode : s.custody.present = .zeroizing := safe.2.2.1 (by simp [ArrayControl.custodyBusy, submitted])
  have quiet := safe.1 (by rw [mode]; decide)
  exact (Confined.markBank _ b true).keySafe ⟨fun _ => quiet, safe.2.1, fun _ => mode, nofun⟩

theorem startWrite : s.startWrite.keySafe := by
  unfold State.startWrite
  split
  · next b submitted => exact startOwed safe b submitted
  · split
    · exact (Confined.withControl s _ rfl fun _ e => by cases e).keySafe safe
    · split
      · exact ((Confined.withControl s _ rfl fun _ e => by cases e).trans (.adminEmptied _)).keySafe safe
      · next b _ _ =>
        have left := (Confined.withControl s (fun c => { c with adminWait := none }) rfl fun _ => id).keySafe safe
        exact ((startErase b).trans (.adminEmptied _)).keySafe left
      · exact safe

theorem arrayOperationStart : StaysSafe (execArrayOperationStart s) := by
  unfold execArrayOperationStart
  split
  · exact next safe
  · split
    · split
      · exact confined safe (.startRead _ _)
      · exact confined safe (.withControl _ _ rfl fun _ e => by cases e)
    · split
      · exact confined safe (.endSkipped _ _)
      · split
        · exact confined safe (.startRead _ _)
        · exact next (startWrite safe)

theorem programRecordDone : StaysSafe (execProgramRecordDone s) := by
  unfold execProgramRecordDone
  split
  · exact confined safe (((((Confined.execEnded s).trans (.withRecord _ _ _)).trans (.fillSlot _ _ _)).trans
      (.endCeremony _)).trans (.finishCommit _ _ _))
  · exact next safe

theorem programFailed : StaysSafe (execProgramFailed s) := by
  unfold execProgramFailed
  split
  · extract_lets t
    have damaged : Confined s t :=
      (((Confined.execEnded s).trans (.withRecord _ _ _)).trans (.nextDraw _)).trans (.withSlot _ _ _)
    exact confined safe (((damaged.trans (.endCeremony t)).trans (.finishCommit _ _ _)).trans (.setFault _))
  · exact next safe

theorem programMarkEnd (ok : Bool) : StaysSafe (execProgramMarkEnd ok s) := by
  unfold execProgramMarkEnd
  split
  · split
    · exact confined safe (((Confined.execEnded s).trans (.withRecord _ _ _)).trans (.markEnd _ _))
    · exact confined safe (((((Confined.execEnded s).trans (.withRecord _ _ _)).trans (.nextDraw _)).trans
        (.markEnd _ _)).trans (.setFault _))
  · exact next safe

/-- An erase of Custody Control executes only in ZEROIZING, and no other is submitted beside it. -/
theorem erasing {b : Bank} (exec : s.control.exec = some (.erase b true)) :
    s.custody.present = .zeroizing ∧ s.control.custodyWait = none := by
  refine ⟨safe.2.2.1 (by simp [ArrayControl.custodyBusy, exec]), ?_⟩
  cases waits : s.control.custodyWait with
  | none => rfl
  | some _ => exact absurd exec (safe.2.2.2 (by simp [waits]) b)

/-- What follows the end of an erase, by whose it was. -/
theorem eraseEnded {t u : State} {b : Bank} {custody : Bool} (exec : s.control.exec = some (.erase b custody))
    (stopped : Confined s t) (idle : t.control.exec = none) (rest : Confined t u) :
    StaysSafe (.next (if custody then u.owedEnded b else u)) := by
  cases custody with
  | true =>
    obtain ⟨mode, none⟩ := erasing safe exec
    have free : t.control.custodyBusy = false :=
      (not_custodyBusy_iff _).mpr ⟨stopped.waits.trans none, fun b => by rw [idle]; exact nofun⟩
    exact next (keySafe_owedEnded ((stopped.trans rest).keySafe safe) ((stopped.trans rest).present.trans mode)
      (rest.custodyBusy free) b)
  | false => exact confined safe (stopped.trans rest)

theorem eraseComplete : StaysSafe (execEraseComplete s) := by
  unfold execEraseComplete
  split
  · next b custody exec =>
    split
    · exact next safe
    · exact eraseEnded safe exec (.execEnded s) rfl (.eraseEffects _ b)
  · exact next safe

omit safe in
theorem eraseLeft (b : Bank) : Confined s ((s.leaveStoppedErase b).incomplete b).setFault :=
  ((Confined.leaveStoppedErase s b).trans (.withBank _ b _)).trans (.setFault _)

theorem eraseFailed : StaysSafe (execEraseFailed s) := by
  unfold execEraseFailed
  split
  · next b custody exec =>
    split
    · exact next safe
    · have stopped : Confined s (s.withControl fun c => { c with exec := none, execTime := 1500000 }) :=
        .withControl s _ rfl fun _ e => by cases e
      exact eraseEnded safe exec stopped rfl (eraseLeft b)
  · exact next safe

theorem eraseSuspend (ran : Nat) : StaysSafe (execEraseSuspend ran s) := by
  unfold execEraseSuspend
  split
  · exact judged_confined safe (.withControl _ _ rfl fun _ => id)
  · exact next safe

theorem eraseSuspended : StaysSafe (execEraseSuspended s) := by
  unfold execEraseSuspended
  split
  · next b _ => exact judged_confined safe (.resumed s (fun c => { c with
      exec := none, suspending := false, suspended := some b, capReached := false, suspendTime := 0 }) rfl
      fun _ e => by cases e)
  · exact next safe

theorem suspensionCap : StaysSafe (execSuspensionCap s) :=
  judged_confined safe (.resumed s (fun c => { c with capReached := true, suspendTime := 1000 }) rfl fun _ => id)

end StaysSafe

end Sys2Proof.Machine
end

section
/-! PROOF. keySafe along every command and every step (O4). -/

namespace Sys2Proof.Machine

namespace StaysSafe

variable {s : State} (safe : s.keySafe)
include safe

/-! ## The monitors and the calendar (R140 to R158) -/

theorem clockMeasurement (cycles : Nat) (ends : Bool) : StaysSafe (execClockMeasurement cycles s ends) := by
  unfold execClockMeasurement
  split
  · extract_lets x t e
    split
    · have ended : Confined s t := (Confined.withCustody s _ rfl).trans (.withMonitor _ _)
      split
      · exact confined safe (ended.trans (.withMonitor t _))
      · exact next (judgeClock_keySafe (ended.keySafe safe) e)
    · exact confined safe (.withMonitor _ _)
  · exact next safe

theorem patternTestInterval : StaysSafe (execPatternTestInterval s) := by
  unfold execPatternTestInterval
  split
  · extract_lets t
    split
    · exact confined safe (.withMonitor _ _)
    · exact confined safe ((Confined.withMonitor s _).trans (.withControl t _ rfl fun _ => id))
  · exact next safe

theorem patternTestResult (drift : List Byte) : StaysSafe (execPatternTestResult drift s) := by
  unfold execPatternTestResult
  split
  · exact confined safe ((Confined.execEnded s).trans (.judgeRow _ _ _))
  · split
    · exact confined safe (.endSkipped _ _)
    · exact next safe

theorem calendarSecond : StaysSafe (execCalendarSecond s) := by
  unfold execCalendarSecond
  split
  · split
    extract_lets t
    split
    · exact confined safe ((Confined.withRetention s _).trans (.sweep t))
    · exact confined safe (.withRetention s _)
  · exact next safe

theorem enclosureNormal (input : Enclosure) (samples : Samples) : StaysSafe (execEnclosureNormal input s samples) := by
  unfold execEnclosureNormal
  split
  · cases input with
    | door => exact confined safe (.withRetention s _)
    | mesh => exact confined safe (.withRetention s _)
  · exact next safe

theorem batteryNotLow (samples : Samples) : StaysSafe (execBatteryNotLow s samples) := by
  unfold execBatteryNotLow
  split
  · exact confined safe (.withRetention s _)
  · exact next safe

/-- An event whose condition is noted first (R149, R152). -/
theorem event {t : State} (noted : Confined s t) (src : Source) (act : Action) {c : Prop} [Decidable c] :
    StaysSafe (if c then .next (t.raiseTamper src act) else .next s) :=
  judged safe fun _ => raiseTamper_keySafe (noted.keySafe safe) src act

/-! ## Power and start-up (R172 to R183) -/

omit safe in
theorem ended_shut (m : Mode) (phase : StartPhase) : (s.endVolatile.enter m phase).Shut :=
  (endVolatile_shut s).withCustody _

theorem brownout (samples : Samples) : StaysSafe (execBrownout s samples) :=
  judged safe fun _ => ((ended_shut _ _).withCustody _).keySafe

theorem warmResetOnset (samples : Samples) : StaysSafe (execWarmResetOnset s samples) := by
  unfold execWarmResetOnset
  split
  · exact next safe
  · exact next ((ended_shut _ _).withRetention _).keySafe

theorem mainPowerValid (samples : Samples) : StaysSafe (execMainPowerValid s samples) :=
  judged safe fun h => by
    obtain ⟨mode, _⟩ : s.custody.present = .backup ∧ _ := by simpa using h
    have shut := shut_of_keySafe safe (by rw [mode]; decide) (by rw [mode]; decide)
    exact fromStepThree_keySafe ((shut.withCustody _).withRetention _) _ _

/-- A part in STARTING is shut. -/
theorem starting_shut (mode : s.custody.present = .starting) : s.Shut :=
  shut_of_keySafe safe (by rw [mode]; decide) (by rw [mode]; decide)

theorem resetRelease (ran : Bool) (drift : List (Nat × List Byte)) (samples : Samples) :
    StaysSafe (execResetRelease ran drift s samples) :=
  judged safe fun h => by
    obtain ⟨⟨mode, _⟩, _⟩ : (s.custody.present = .starting ∧ s.custody.phase = .inReset) ∧ _ := by simpa using h
    exact fromStepThree_keySafe ((starting_shut safe mode).withCustody _) _ _

theorem commissionRestart (ran : Bool) (drift : List (Nat × List Byte)) :
    StaysSafe (execCommissionRestart ran drift s) :=
  judged safe fun _ => fromStepThree_keySafe (ended_shut _ _) _ _

theorem crystalStarted (drift : List (Nat × List Byte)) : StaysSafe (execCrystalStarted drift s) :=
  judged safe fun h => by
    obtain ⟨mode, _⟩ : s.custody.present = .starting ∧ s.custody.phase = .crystalWait := by simpa using h
    exact stepsFiveToSeven_keySafe ((starting_shut safe mode).withCustody _) _

theorem crystalStartTimeout : StaysSafe (execCrystalStartTimeout s) :=
  judged safe fun h => by
    obtain ⟨mode, _⟩ : s.custody.present = .starting ∧ s.custody.phase = .crystalWait := by simpa using h
    exact (((starting_shut safe mode).withCustody _).withCustody _ |>.withRetention _).keySafe

theorem startUpComplete : StaysSafe (execStartUpComplete s) := by
  unfold execStartUpComplete
  split
  · next h =>
    obtain ⟨mode, _⟩ : s.custody.present = .starting ∧ s.custody.phase = .clearAllWait := by simpa using h
    split
    · extract_lets t
      have offers : Confined s t := .makeOffers s
      have offered : t.keySafe := offers.keySafe safe
      split
      · exact next (enterResume_keySafe (starting_shut offered (offers.present.trans mode)))
      · exact next offered
    · exact next ((starting_shut safe mode).withCustody _).keySafe
  · exact next safe

theorem retentionMarkerLost : StaysSafe (execRetentionMarkerLost s) :=
  judged_confined safe (((Confined.withRetention s _).trans (.withDirectory _ _)).trans (.nextDraw _))

theorem commissionProgrammingEnd (ok : Bool) : StaysSafe (execCommissionProgrammingEnd ok s) := by
  unfold execCommissionProgrammingEnd
  split
  · extract_lets stop failing
    split
    · exact confined safe (((Confined.withFuses s _).trans (.withCustody _ _ rfl)).trans (.finishCust _ _ _ _ _))
    · exact confined safe (((Confined.withFuses s _).trans (.nextDraw _)).trans (.finishCust _ _ _ _ _))
  · exact next safe

end StaysSafe

theorem Confined.setSwitch (s : State) (w : Switch) (x : Bool) : Confined s (s.setSwitch w x) := by
  refine .withCustody s _ ?_
  cases w <;> rfl

open StaysSafe in
/-- Every command keeps the clear keys confined. -/
theorem exec_staysSafe (c : Instr) {s : State} (safe : s.keySafe) : StaysSafe (exec c s) := by
  cases c with
  | requestAdmitted p addr message part => exact requestAdmitted safe p addr message part
  | windowSelect p addr code reads written part => exact windowSelect safe p addr code reads written part
  | directoryPointerWrite p addr pointer extra => exact directoryPointerWrite safe p addr pointer extra
  | completionRead p addr reads part => exact confined safe (.readPart _ _ _ _ _ _)
  | directoryRead p addr reads part => exact confined safe (.readPart _ _ _ _ _ _)
  | unknownRequestCode p => exact unknownRequestCode safe p
  | openCeremony => exact next (takeCust_calm safe _ _ _ _ .takeOpen)
  | component => exact next (takeCust_calm safe _ _ _ _ .takeComponent)
  | commit => exact next (takeCust_calm safe _ _ _ _ .takeCommit)
  | abandon => exact next (takeCust_calm safe _ _ _ _ .takeAbandon)
  | switchDrop w samples => exact judged_confined safe ((Confined.setSwitch s _ _).trans (.abandonFor _ _))
  | switchPresent w samples => exact judged_confined safe (.setSwitch s _ _)
  | ceremonyTimeout => exact judged_confined safe (.abandonFor s _)
  | allocate => exact next (takeCust_confined safe _ _ _ _ _ .takeAllocate)
  | hold => exact next (takeCust_confined safe _ _ _ _ _ (.takeHold codeHold true))
  | unhold => exact next (takeCust_confined safe _ _ _ _ _ (.takeHold codeUnhold false))
  | retire => exact next (takeCust_calm safe _ _ _ _ .takeRetire)
  | reclaim => exact next (takeCust_confined safe _ _ _ _ _ .takeReclaim)
  | openServiceWindow => exact next (takeCust_confined safe _ _ _ _ _ .takeOpenWindow)
  | closeServiceWindow =>
    exact next (takeCust_keySafe safe _ _ _ _ _ fun t q u _ taken => takeCloseWindow_keySafe taken t q)
  | serviceWindowExpiry => exact judged safe fun _ => closeWindow_keySafe safe
  | setAlarmMask => exact next (takeCust_confined safe _ _ _ _ _ .takeSetMask)
  | clearAlarms => exact next (takeCust_confined safe _ _ _ _ _ .takeClearAlarms)
  | clearNvFault => exact next (takeCust_confined safe _ _ _ _ _ .takeClearFault)
  | clearResetFlags => exact next (takeCust_confined safe _ _ _ _ _ .takeClearReset)
  | zeroize => exact next (takeCust_keySafe safe _ _ _ _ _ fun t q u _ taken => takeZeroize_keySafe taken t q)
  | rearm => exact next (takeCust_keySafe safe _ _ _ _ _ fun t q u passed taken => takeRearm_keySafe taken passed t q)
  | setTime => exact next (takeCust_confined safe _ _ _ _ _ .takeSetTime)
  | commission => exact next (takeCust_confined safe _ _ _ _ _ .takeCommission)
  | commissionRestart ran drift => exact commissionRestart safe ran drift
  | bind l => exact next (takeLine_keySafe safe _ _ _ _ (Calm.bindings.takeBind l))
  | extend l => exact next (takeLine_keySafe safe _ _ _ _ (Calm.bindings.takeExtend l))
  | release l => exact next (takeLine_keySafe safe _ _ _ _ (Calm.bindings.takeRelease l))
  | releaseAll l => exact next (takeLine_keySafe safe _ _ _ _ (Calm.bindings.takeReleaseAll l))
  | clearBlocked l => exact next (takeLine_keySafe safe _ _ _ _ (Calm.bindings.takeClearBlocked l))
  | readSlotComplete drift => exact readSlotComplete safe drift
  | frameSendStart e => exact judged_confined safe (.withBus s e _ fun _ clear => clear)
  | frameSent e => exact frameSent safe e
  | accept e reply => exact accept safe e reply
  | refuse e reply => exact refuse safe e reply
  | done e reply => exact done safe e reply
  | replyTimeout e => exact replyTimeout safe e
  | engineReadyFall e samples => exact engineReadyFall safe e samples
  | engineReadyRise e samples => exact judged_confined safe (.withBus s e _ fun _ clear => clear)
  | arrayOperationStart => exact arrayOperationStart safe
  | programRecordDone => exact programRecordDone safe
  | programFailed => exact programFailed safe
  | programMarkEnd ok => exact programMarkEnd safe ok
  | eraseComplete => exact eraseComplete safe
  | eraseFailed => exact eraseFailed safe
  | eraseSuspend ran => exact eraseSuspend safe ran
  | eraseSuspended => exact eraseSuspended safe
  | suspensionCap => exact suspensionCap safe
  | doorEvent samples => exact event safe (.withRetention s _) _ _
  | meshEvent samples => exact event safe (.withRetention s _) _ _
  | enclosureNormal input samples => exact enclosureNormal safe input samples
  | supplyHighEvent samples => exact event safe (.withMonitor s _) _ _
  | supplyNotHigh samples => exact judged_confined safe (.withMonitor s _)
  | batteryLow samples => exact judged_confined safe ((Confined.withRetention s _).trans (.latch _ _))
  | batteryNotLow samples => exact batteryNotLow safe samples
  | clockMeasurement cycles ends => exact clockMeasurement safe cycles ends
  | patternTestInterval => exact patternTestInterval safe
  | patternTestResult drift => exact patternTestResult safe drift
  | calendarSecond => exact calendarSecond safe
  | brownout samples => exact brownout safe samples
  | mainPowerValid samples => exact mainPowerValid safe samples
  | warmResetOnset samples => exact warmResetOnset safe samples
  | resetRelease ran drift samples => exact resetRelease safe ran drift samples
  | crystalStarted drift => exact crystalStarted safe drift
  | crystalStartTimeout => exact crystalStartTimeout safe
  | startUpComplete => exact startUpComplete safe
  | retentionMarkerLost => exact retentionMarkerLost safe
  | commissionProgrammingEnd ok => exact commissionProgrammingEnd safe ok
  | disregardedReply e reply => exact next safe

/-- A cycle of the retention clock opens no ceremony. -/
theorem Confined.tickOffers (s : State) : Confined s s.countDown.tickOffers := by
  have counted : Confined s s.countDown := by
    refine ⟨⟨rfl, fun idle none => idle (by simpa [State.countDown] using none), rfl, fun _ => id⟩, fun _ => ?_⟩
    exact quiet_congr rfl (fun _ => rfl) (fun idle => by simp [State.countDown, idle]) rfl
  unfold State.tickOffers
  split
  · exact counted.trans (.makeOffers _)
  · exact counted

/-- Settles O4: every command and every cycle of the clock keep the clear keys confined, and the queue is no part of
them. -/
theorem keySafeIsKept : Obligations.KeySafeIsKept := by
  intro s t safe h
  cases queue : s.pending with
  | nil =>
    rw [step_empty s queue] at h
    cases h
    exact (Confined.tickOffers s).keySafe safe
  | cons c rest =>
    rw [step_front s c rest queue] at h
    obtain ⟨u, e, kept⟩ := exec_staysSafe c (s := { s with pending := rest }) safe
    rw [e] at h
    cases h
    exact kept

end Sys2Proof.Machine
end

section
/-! PROOF. The reset (O1) and what a step on an empty queue does (O2). -/

namespace Sys2Proof.Machine

/-- Settles O1: the values of the reset, field by field. -/
theorem resetIsAnUnpoweredIdlePart : Obligations.ResetIsAnUnpoweredIdlePart := by
  refine ⟨rfl, rfl, rfl, fun e => ?_, rfl, rfl, rfl, rfl, rfl, rfl, fun l => ?_, rfl, rfl, fun n => ?_, ?_⟩
  · simp [State.reset, Transmitter.initial]
  · simp [State.reset]
  · simp [State.reset, KeyArray.factory, SlotRecord.blank]
  · simp [State.reset, factoryFuses, Config.factoryIdentity]

/-! ## One cycle of the retention clock -/

theorem engineSeen_iff (s : State) : s.engineSeen = true ↔ ∃ e : Line, s.buses[e].ready = true := by
  have covered : ∀ e : Line, e ∈ four := by decide
  simp only [State.engineSeen, List.any_eq_true]
  exact ⟨fun ⟨e, _, ready⟩ => ⟨e, ready⟩, fun ⟨e, ready⟩ => ⟨e, covered e, ready⟩⟩

/-- The offers of a tick change offers and queues alone. -/
theorem tickOffers_eq (s : State) : s.tickOffers = { s with
    custody := { s.custody with offers := s.tickOffers.custody.offers }, buses := s.tickOffers.buses } := by
  unfold State.tickOffers
  split
  · exact (makeOffers_spec s).1
  · rfl

/-- At step 7, with an engine ready, a tick makes every offer that is to be made. -/
theorem tickOffers_made (s : State) (mode : s.custody.present = .starting) (phase : s.custody.phase = .clearAllWait)
    (seen : ∃ e : Line, s.buses[e].ready = true) (e : Line) :
    s.tickOffers.custody.offers[e] = (if s.custody.offers[e] = .toMake
      then (if s.buses[e].ready then .inFlight else .done) else s.custody.offers[e]) ∧
    s.tickOffers.buses[e] = (if s.custody.offers[e] = .toMake ∧ s.buses[e].ready = true
      then { s.buses[e] with queue := s.buses[e].queue ++ [{ kind := .clearAll, stale := false }] } else s.buses[e]) := by
  unfold State.tickOffers
  split
  · exact (makeOffers_spec s).2 e
  · next none =>
    have settled : s.custody.offers[e] ≠ .toMake := by
      intro toMake
      refine none ⟨mode, phase, (engineSeen_iff s).mpr seen, ?_⟩
      have found : Offer.toMake ∈ s.custody.offers.toList := by
        rw [← toMake]; exact Vector.mem_toList_iff.mpr (Vector.getElem_mem e.isLt)
      simpa using found
    simp only [settled, false_and, if_false, and_self]

theorem tickOffers_kept (s : State)
    (h : s.custody.present ≠ .starting ∨ s.custody.phase ≠ .clearAllWait ∨ ∀ e : Line, s.buses[e].ready = false) :
    s.tickOffers = s := by
  unfold State.tickOffers
  refine if_neg fun ⟨mode, phase, seen, _⟩ => ?_
  obtain ⟨e, ready⟩ := (engineSeen_iff s).mp seen
  obtain other | other | unseen := h
  · exact other mode
  · exact other phase
  · rw [unseen e] at ready; cases ready

/-- A COLLECTING ceremony is due after a cycle when its timer stood at 1 or 0. -/
theorem countDown_ceremonyDue (s : State) : s.countDown.ceremonyDue = true ↔
    ∃ o, s.ceremony.current = some o ∧ o.programming = false ∧ o.timer ≤ 1 := by
  unfold State.ceremonyDue State.countDown
  cases s.ceremony.current with
  | none => simp
  | some o => cases programming : o.programming <;> simp [programming, Nat.sub_eq_zero_iff_le]

theorem map_pred_eq_zero (x : Option Nat) : (x.map fun n => n - 1) = some 0 ↔ ∃ k, x = some k ∧ k ≤ 1 := by
  cases x with
  | none => simp
  | some n => simp [Nat.sub_eq_zero_iff_le]

/-- Which expiries a cycle queues. -/
theorem mem_due (s t : State) (c : Instr) : c ∈ State.due s t ↔
    (c = .ceremonyTimeout ∧ t.ceremonyDue = true) ∨ (c = .serviceWindowExpiry ∧ t.monitor.windowTimer = some 0) ∨
    (c = .patternTestInterval ∧ t.custody.present = .service ∧ t.monitor.intervalTimer = some 0) ∨
    (c = .calendarSecond ∧ s.retention.calendar.counting = true ∧ s.retention.calendar.sub = 32767) := by
  have offered (p : Prop) [Decidable p] (d : Instr) : c ∈ (if p then [d] else []) ↔ c = d ∧ p := by
    split <;> simp_all
  simp only [State.due, List.mem_append, offered, or_assoc]

/-- Settles O2: the front command runs on the queue's rest; a cycle of the clock is the count, the offers and the
expiries, each by its own lemma. -/
theorem stepRunsTheFrontCommand : Obligations.StepRunsTheFrontCommand := by
  refine ⟨step_front, fun s queue => ⟨s.tick, step_empty s queue, ?_⟩⟩
  have offers := tickOffers_eq s.countDown
  generalize made : s.countDown.tickOffers = t at offers
  have pending : s.tick.pending = State.due s t := by
    have kept : t.pending = [] := by rw [offers]; exact queue
    simp only [State.tick, made, kept, List.nil_append]
  have ceremony : t.ceremonyDue = s.countDown.ceremonyDue := by rw [offers]; rfl
  have window : t.monitor.windowTimer = some 0 ↔ ∃ k, s.monitor.windowTimer = some k ∧ k ≤ 1 := by
    rw [offers]; exact map_pred_eq_zero _
  have interval : t.monitor.intervalTimer = some 0 ↔ ∃ k, s.monitor.intervalTimer = some k ∧ k ≤ 1 := by
    rw [offers]; exact map_pred_eq_zero _
  have present : t.custody.present = s.custody.present := by rw [offers]; rfl
  have tick : s.tick = { t with pending := t.pending ++ State.due s t } := by rw [← made]; rfl
  refine ⟨?_, ?_, ?_, ?_, ?_, ?_, ?_, ?_, ?_, ?_, ?_, ?_⟩
  · simp [pending, mem_due, ceremony, countDown_ceremonyDue]
  · simp only [pending, mem_due, window, reduceCtorEq, false_and, false_or, or_false, true_and]
  · simp only [pending, mem_due, interval, present, reduceCtorEq, false_and, false_or, or_false, true_and]
  · simp [pending, mem_due]
  · intro c queued
    rw [pending, mem_due] at queued
    obtain ⟨e, _⟩ | ⟨e, _⟩ | ⟨e, _⟩ | ⟨e, _⟩ := queued <;> simp [e]
  · rw [tick, offers]; rfl
  · rw [tick, offers]; rfl
  · rw [tick, offers]; rfl
  · rw [tick, offers]; rfl
  · intro e mode phase seen
    rw [tick, ← made]
    exact tickOffers_made s.countDown mode phase seen e
  · intro still
    rw [tick, ← made, tickOffers_kept s.countDown still]
    exact ⟨rfl, rfl⟩
  · rw [tick, offers]
    exact ⟨rfl, rfl, rfl, rfl, rfl, rfl, rfl, rfl, rfl, rfl, rfl⟩

end Sys2Proof.Machine
end

section
/-! PROOF. Addresses, written transactions and REQUEST_ADMITTED (O9). -/

namespace Sys2Proof.Machine

/-! ## Where and when a port answers (R171, R178, R184, R185) -/

theorem acknowledges_iff (s : State) (p : Port) (addr : Address) :
    s.acknowledges p addr = true ↔ s.answers p = some addr.toNat := by simp [State.acknowledges]

theorem lineServed_iff (s : State) : s.lineServed = true ↔
    s.custody.present = .service ∨ s.custody.present = .zeroizing ∨ s.custody.present = .recovery := by
  simp [State.lineServed, or_assoc]

theorem custServed_iff (s : State) : s.custServed = true ↔ s.custody.present = .service ∨
    s.custody.present = .zeroizing ∨ s.custody.present = .recovery ∨ s.custody.present = .uncommissioned := by
  simp [State.custServed, lineServed_iff, or_assoc]

theorem answers_line_served (s : State) (l : Line) (h : s.lineServed = true) (verified : s.custody.record = .verified) :
    s.answers (.line l) = some s.fuses[0].toNat := by simp [State.answers, h, State.param, verified]

theorem answers_line_other (s : State) (l : Line) (h : s.lineServed = false) : s.answers (.line l) = none := by
  simp [State.answers, h]

theorem answers_cust_served (s : State) (h : s.lineServed = true) (verified : s.custody.record = .verified) :
    s.answers .cust = some s.fuses[1].toNat := by
  obtain mode | mode | mode := (lineServed_iff s).mp h <;> simp [State.answers, mode, State.param, verified]

theorem answers_cust_halted (s : State) (h : s.custody.present = .halted) : s.answers .cust =
    some (if s.custody.record = .verified then s.fuses[1].toNat else 0x3C) := by
  simp [State.answers, h, State.param, factoryAddress]

theorem requestOpen_iff (s : State) (p : Port) :
    s.requestOpen p = true ↔ (s.link p).requests.length < capacity p ∧ s.custody.present ≠ .halted := by
  simp [State.requestOpen]

/-! ## The start, the stop and the first byte of a transaction -/

section
variable (s : State) (p : Port) (addr : Address)

theorem start_unanswered (x : Transfer) (h : (s.link p).transfer ≠ .message) (ack : s.acknowledges p addr = false) :
    s.start p addr x = s.withLink p fun l => { l with transfer := .idle, acks := [false] } := by
  simp [start_eq s p addr x h, ack]

theorem start_write (h : (s.link p).transfer ≠ .message) (ack : s.acknowledges p addr = true) :
    s.start p addr .addressed = s.withLink p fun l => { l with transfer := .addressed, acks := [true] } := by
  simp [start_eq s p addr .addressed h, ack]

theorem start_read (h : (s.link p).transfer ≠ .message) (ack : s.acknowledges p addr = true) :
    s.start p addr .opened = s.withLink p fun l => { l with transfer := .opened, acks := [true], sent := [] } := by
  simp [start_eq s p addr .opened h, ack]

theorem stop_eq (k : Part) : s.stop p k = s.withLink p fun l => if k.closes then l.ended else l := by
  unfold State.stop
  split
  · rfl
  · exact (withLink_id s p _ rfl).symm

theorem writeByte_addressed (b : Byte) (h : (s.link p).transfer = .addressed) : s.writeByte p b = s.writeCode p b := by
  unfold State.writeByte
  rw [h]

theorem writeByte_none (b : Byte) (h : (s.link p).transfer.isWrite = false) : s.writeByte p b = s :=
  writeBytes_none s p [b] h

theorem writeCode_request (h : s.requestOpen p = true) : s.writeCode p 0x01 =
    s.withLink p fun l => { l.choose .request .message with assembly := [], overlong := false } := by
  simp [State.writeCode, windowOf, h]

theorem writeCode_full (h : s.requestOpen p = false) : s.writeCode p 0x01 = s.withLink p Link.refuse := by
  simp [State.writeCode, windowOf, h]

theorem writeCode_directory : s.writeCode p 0x04 = s.withLink p fun l => l.choose .directory .pointer := by
  simp [State.writeCode, windowOf]

end

/-- The state of a write whose address has been acknowledged. -/
def State.writing (s : State) (p : Port) : State := s.withLink p fun l => { l with transfer := .addressed, acks := [true] }

theorem requestOpen_writing (s : State) (p : Port) : (s.writing p).requestOpen p = s.requestOpen p :=
  requestOpen_withLink _ _ _ rfl

theorem writing_link (s : State) (p : Port) :
    (s.writing p).link p = { s.link p with transfer := .addressed, acks := [true] } := link_withLink _ _ _

/-- The first byte of an acknowledged write is its window code. -/
theorem writing_writeByte (s : State) (p : Port) (b : Byte) : (s.writing p).writeByte p b = (s.writing p).writeCode p b :=
  writeByte_addressed _ _ _ (by rw [writing_link])

/-! ## REQUEST_ADMITTED (R185 to R187) -/

namespace Admitted
variable (s : State) (p : Port) (addr : Address) (part : Part) (message : List Byte)

theorem exec_opening (opens : part.opens = true) : exec (.requestAdmitted p addr message part) s =
    .next ((((s.start p addr .addressed).writeByte p 0x01).writeBytes p message).stop p part) := by
  simp [exec, execRequestAdmitted, opens]

theorem exec_later (opens : part.opens = false) :
    exec (.requestAdmitted p addr message part) s = .next ((s.writeBytes p message).stop p part) := by
  simp [exec, execRequestAdmitted, opens]

theorem whole (opens : part.opens = true) (fresh : (s.link p).transfer ≠ .message) (ack : s.acknowledges p addr = true)
    (place : s.requestOpen p = true) :
    exec (.requestAdmitted p addr message part) s = .next (s.withLink p fun l => { l with
      window := some .request
      acks := true :: true :: List.replicate message.length true
      assembly := if part.closes then [] else message.take 64
      overlong := if part.closes then false else decide (64 < message.length)
      transfer := if part.closes then .idle else .message
      requests := if part.closes = true ∧ message ≠ []
        then l.requests ++ [{ bytes := message.take 64, overlong := decide (64 < message.length) }]
        else l.requests }) := by
  rw [exec_opening _ _ _ _ _ opens, start_write s p addr fresh ack, ← State.writing, writing_writeByte,
    writeCode_request _ _ ((requestOpen_writing s p).trans place), State.writing, withLink_withLink]
  rw [writeBytes_message, stop_eq, withLink_withLink, withLink_withLink]
  · congr 1
    refine withLink_congr _ _ _ _ ?_
    cases part.closes with
    | false => simp [Link.choose]
    | true => cases message <;> simp [Link.choose, Link.ended, Link.enqueue]
  · rw [link_withLink]; rfl
  · rw [link_withLink]; exact Nat.zero_le _

theorem full (opens : part.opens = true) (fresh : (s.link p).transfer ≠ .message) (ack : s.acknowledges p addr = true)
    (place : s.requestOpen p = false) :
    exec (.requestAdmitted p addr message part) s = .next (s.withLink p fun l => { l with
      acks := true :: false :: List.replicate message.length false
      transfer := if part.closes then .idle else .refusing }) := by
  rw [exec_opening _ _ _ _ _ opens, start_write s p addr fresh ack, ← State.writing, writing_writeByte,
    writeCode_full _ _ ((requestOpen_writing s p).trans place), State.writing, withLink_withLink]
  rw [writeBytes_refusing, stop_eq, withLink_withLink, withLink_withLink]
  · congr 1
    refine withLink_congr _ _ _ _ ?_
    cases part.closes <;> simp [Link.refuse, Link.ended]
  · rw [link_withLink]; rfl

theorem unanswered (opens : part.opens = true) (fresh : (s.link p).transfer ≠ .message)
    (ack : s.acknowledges p addr = false) :
    exec (.requestAdmitted p addr message part) s = .next (s.withLink p fun l => { l with
      acks := [false], transfer := .idle }) := by
  have idle : ((s.withLink p fun l => { l with transfer := .idle, acks := [false] }).link p).transfer.isWrite = false := by
    rw [link_withLink]; rfl
  rw [exec_opening _ _ _ _ _ opens, start_unanswered s p addr _ fresh ack, writeByte_none _ _ _ idle,
    writeBytes_none _ _ _ idle, stop_eq, withLink_withLink]
  congr 1
  refine withLink_congr _ _ _ _ ?_
  cases part.closes <;> simp [Link.ended]

theorem later (opens : part.opens = false) (message' : (s.link p).transfer = .message)
    (length : (s.link p).assembly.length ≤ 64) :
    exec (.requestAdmitted p addr message part) s = .next (s.withLink p fun l => { l with
      acks := l.acks ++ List.replicate message.length true
      assembly := if part.closes then [] else (l.assembly ++ message).take 64
      overlong := if part.closes then false else l.overlong || decide (64 < (l.assembly ++ message).length)
      transfer := if part.closes then .idle else .message
      requests := if part.closes = true ∧ l.assembly ++ message ≠ []
        then l.requests ++ [{ bytes := (l.assembly ++ message).take 64
                              overlong := l.overlong || decide (64 < (l.assembly ++ message).length) }]
        else l.requests }) := by
  rw [exec_later _ _ _ _ _ opens, writeBytes_message s p message message' length, stop_eq, withLink_withLink]
  congr 1
  refine withLink_congr _ _ _ _ ?_
  cases part.closes with
  | false => simp [message']
  | true =>
    by_cases empty : (s.link p).assembly ++ message = []
    · simp [Link.ended, Link.enqueue, message', empty]
    · simp [Link.ended, Link.enqueue, message', empty]

theorem refused (opens : part.opens = false) (refusing : (s.link p).transfer = .refusing) :
    exec (.requestAdmitted p addr message part) s = .next (s.withLink p fun l => { l with
      acks := l.acks ++ List.replicate message.length false
      transfer := if part.closes then .idle else .refusing }) := by
  rw [exec_later _ _ _ _ _ opens, writeBytes_refusing s p message refusing, stop_eq, withLink_withLink]
  congr 1
  refine withLink_congr _ _ _ _ ?_
  cases part.closes <;> simp [Link.ended, refusing]

theorem repeated (opens : part.opens = true) (message' : (s.link p).transfer = .message) :
    exec (.requestAdmitted p addr message part) s =
      exec (.requestAdmitted p addr message part) (s.withLink p fun l => { l with
        requests := if l.assembly = [] then l.requests
          else l.requests ++ [{ bytes := l.assembly, overlong := l.overlong }]
        assembly := [], overlong := false, transfer := .idle }) := by
  rw [exec_opening _ _ _ _ _ opens, exec_opening _ _ _ _ _ opens, start_repeated s p addr _ message']
  rfl

end Admitted

/-- Settles O9: the addresses by the modes, and each kind of transaction by its own lemma. -/
theorem requestAdmittedQueuesTheMessage : Obligations.RequestAdmittedQueuesTheMessage := by
  refine ⟨fun s addr => ⟨fun served verified => ⟨fun l => ?_, ?_⟩, fun service zeroizing recovery l => ?_, fun mode => ?_,
    fun mode => ?_, fun mode => ?_⟩, fun s => ⟨fun l => ?_, ?_⟩, fun s p addr part message => ⟨fun opens fresh =>
    ⟨fun ack place => ?_, fun ack place => ?_, fun ack => ?_⟩, fun opens message' length => ?_, fun opens refusing => ?_,
    fun opens message' => ?_⟩⟩
  · rw [acknowledges_iff, answers_line_served s l ((lineServed_iff s).mpr served) verified, Option.some.injEq, eq_comm]
  · rw [acknowledges_iff, answers_cust_served s ((lineServed_iff s).mpr served) verified, Option.some.injEq, eq_comm]
  · have other : s.lineServed = false := by rw [← Bool.not_eq_true, lineServed_iff]; simp [service, zeroizing, recovery]
    simp [State.acknowledges, answers_line_other s l other]
  · simp only [acknowledges_iff, State.answers, mode, factoryAddress, Option.some.injEq]
    rw [← BitVec.toNat_inj, eq_comm]
    rfl
  · rw [acknowledges_iff, answers_cust_halted s mode, Option.some.injEq, eq_comm]
  · obtain mode | mode := mode <;> simp [State.acknowledges, State.answers, mode]
  · exact requestOpen_iff s (.line l)
  · exact requestOpen_iff s .cust
  · exact Admitted.whole s p addr part message opens fresh ack place
  · exact Admitted.full s p addr part message opens fresh ack place
  · exact Admitted.unanswered s p addr part message opens fresh ack
  · exact Admitted.later s p addr part message opens message' length
  · exact Admitted.refused s p addr part message opens refusing
  · exact Admitted.repeated s p addr part message opens message'

end Sys2Proof.Machine
end

section
/-! PROOF. Reads of the windows: WINDOW_SELECT (O10). -/

namespace Sys2Proof.Machine

/-! ## What a read's source does not depend on -/

theorem directoryRecord_withLink (s : State) (p q : Port) (f : Link → Link) (time : Bool) (n : SlotNo) :
    (s.withLink p f).directoryRecord q time n = s.directoryRecord q time n := by cases p <;> rfl

theorem pointedRecord_withLink (s : State) (p q : Port) (f : Link → Link) (time : Bool) (k : Nat) :
    (s.withLink p f).pointedRecord q time k = s.pointedRecord q time k := by
  unfold State.pointedRecord
  split
  · exact directoryRecord_withLink _ _ _ _ _ _
  · rfl

/-- The source of a read depends on the link's window and queues alone. -/
theorem source_withLink (s : State) (p : Port) (f : Link → Link) (window : (f (s.link p)).window = (s.link p).window)
    (requests : (f (s.link p)).requests = (s.link p).requests)
    (completions : (f (s.link p)).completions = (s.link p).completions) : (s.withLink p f).source p = s.source p := by
  have status : (s.withLink p f).portStatus p = s.portStatus p := by
    cases p with
    | line l => rfl
    | cust =>
      have requests' : (f s.custLink).requests = s.custLink.requests := requests
      have completions' : (f s.custLink).completions = s.custLink.completions := completions
      simp only [State.portStatus, State.withLink, requests', completions']
      rfl
  have identity : (s.withLink p f).identityRecord p = s.identityRecord p := by cases p <;> rfl
  have custody : (s.withLink p f).custodyStatus = s.custodyStatus := by cases p <;> rfl
  have directory : (s.withLink p f).directory = s.directory := by cases p <;> rfl
  simp only [State.source, link_withLink, window, completions, status, identity, custody, directory]

/-! ## A whole read (R185, R186) -/

/-- The state of a read whose address has been acknowledged. -/
def State.reading (s : State) (p : Port) : State :=
  s.withLink p fun l => { l with transfer := .opened, acks := [true], sent := [] }

theorem reading_link (s : State) (p : Port) :
    (s.reading p).link p = { s.link p with transfer := .opened, acks := [true], sent := [] } := link_withLink _ _ _

/-- The first byte of an acknowledged read judges its source. -/
theorem reading_readBytes (s : State) (p : Port) (n : Nat) (hn : 0 < n) :
    (s.reading p).readBytes p n =
      (s.withLink p fun l => { l with transfer := s.source p, acks := [true], sent := [] }).clock p n := by
  rw [readBytes_opened _ _ _ (by rw [reading_link]) hn, State.reading, source_withLink _ _ _ rfl rfl rfl, withLink_withLink]

/-- A whole read of a window with a fixed record. -/
theorem read_record (s : State) (p : Port) (n : Nat) (hn : 0 < n) (record : List Byte)
    (source : s.source p = .record record) : ((s.reading p).readBytes p n).stop p .whole = s.withLink p fun l =>
      { l with transfer := .idle, acks := [true], sent := clocked record n } := by
  rw [reading_readBytes s p n hn, source, clock_record _ _ _ record (by rw [link_withLink]), stop_eq, withLink_withLink,
    withLink_withLink]
  refine withLink_congr _ _ _ _ ?_
  simp [Part.whole, Link.ended]

/-- A whole read without a source sends the fill. -/
theorem read_fill (s : State) (p : Port) (n : Nat) (hn : 0 < n) (source : s.source p = .fill) :
    ((s.reading p).readBytes p n).stop p .whole = s.withLink p fun l =>
      { l with transfer := .idle, acks := [true], sent := List.replicate n 0xFF } := by
  rw [reading_readBytes s p n hn, source, clock_fill _ _ _ (by rw [link_withLink]), stop_eq, withLink_withLink,
    withLink_withLink]
  refine withLink_congr _ _ _ _ ?_
  simp [Part.whole, Link.ended]

/-! ## The acknowledgements do not matter to a read -/

/-- Acknowledgements put before those of a link. -/
def Link.prefixed (a : List Bool) (l : Link) : Link := { l with acks := a ++ l.acks }

theorem clock_prefixed (s : State) (p : Port) (n : Nat) (a : List Bool) :
    (s.withLink p (Link.prefixed a)).clock p n = (s.clock p n).withLink p (Link.prefixed a) := by
  have transfer : ((s.withLink p (Link.prefixed a)).link p).transfer = (s.link p).transfer := by rw [link_withLink]; rfl
  have commute (f : Link → Link) (h : f (Link.prefixed a (s.link p)) = Link.prefixed a (f (s.link p))) :
      (s.withLink p (Link.prefixed a)).withLink p f = (s.withLink p f).withLink p (Link.prefixed a) := by
    rw [withLink_withLink, withLink_withLink]
    exact withLink_congr _ _ _ _ h
  unfold State.clock
  rw [transfer]
  split
  · exact commute _ rfl
  · exact commute _ rfl
  · exact commute _ rfl
  · unfold State.clockDirectory
    extract_lets l more first records l' first' records'
    have same : l = Link.prefixed a l' := link_withLink _ _ _
    have recordsSame : records = records' := by
      simp only [records, records', pointedRecord_withLink, first, first', same, Link.prefixed]
    have firstSame : first = first' := by simp only [first, first', same, Link.prefixed]
    split
    · exact commute _ rfl
    · rw [recordsSame, firstSame]
      exact commute _ rfl
  all_goals rfl

theorem readBytes_prefixed (s : State) (p : Port) (n : Nat) (a : List Bool) :
    (s.withLink p (Link.prefixed a)).readBytes p n = (s.readBytes p n).withLink p (Link.prefixed a) := by
  have transfer : ((s.withLink p (Link.prefixed a)).link p).transfer = (s.link p).transfer := by rw [link_withLink]; rfl
  unfold State.readBytes
  rw [transfer]
  split
  · rfl
  · split
    · rw [← clock_prefixed, source_withLink _ _ _ rfl rfl rfl, withLink_withLink, withLink_withLink]
      rfl
    · exact clock_prefixed _ _ _ _

theorem stop_prefixed (s : State) (p : Port) (k : Part) (a : List Bool) :
    (s.withLink p (Link.prefixed a)).stop p k = (s.stop p k).withLink p (Link.prefixed a) := by
  rw [stop_eq, stop_eq, withLink_withLink, withLink_withLink]
  refine withLink_congr _ _ _ _ ?_
  split
  · simp only [Link.ended, Link.prefixed]
    split <;> rfl
  · rfl

/-! ## A write stays a write -/

theorem writeCode_isWrite (s : State) (p : Port) (b : Byte) : ((s.writeCode p b).link p).transfer.isWrite = true := by
  unfold State.writeCode
  split
  · rw [link_withLink]; rfl
  · split <;> (rw [link_withLink]; rfl)
  · rw [link_withLink]; rfl
  · rw [link_withLink]; rfl

theorem writeByte_isWrite (s : State) (p : Port) (b : Byte) (h : (s.link p).transfer.isWrite = true) :
    ((s.writeByte p b).link p).transfer.isWrite = true := by
  unfold State.writeByte
  split
  · exact writeCode_isWrite _ _ _
  · rw [link_withLink]
    unfold Link.store
    split <;> exact h
  · rw [link_withLink]; rfl
  · rw [link_withLink]; rfl
  all_goals exact h

theorem writeBytes_isWrite (s : State) (p : Port) (bytes : List Byte) (h : (s.link p).transfer.isWrite = true) :
    ((s.writeBytes p bytes).link p).transfer.isWrite = true := by
  induction bytes generalizing s with
  | nil => exact h
  | cons b bytes ih => exact ih _ (writeByte_isWrite s p b h)

theorem acknowledges_writeByte (s : State) (p q : Port) (addr : Address) (b : Byte) :
    (s.writeByte p b).acknowledges q addr = s.acknowledges q addr := by
  unfold State.writeByte
  split
  · unfold State.writeCode
    split
    · exact acknowledges_withLink _ _ _ _ _
    · split <;> exact acknowledges_withLink _ _ _ _ _
    all_goals exact acknowledges_withLink _ _ _ _ _
  · exact acknowledges_withLink _ _ _ _ _
  · exact acknowledges_withLink _ _ _ _ _
  · exact acknowledges_withLink _ _ _ _ _
  all_goals rfl

theorem acknowledges_writeBytes (s : State) (p q : Port) (addr : Address) (bytes : List Byte) :
    (s.writeBytes p bytes).acknowledges q addr = s.acknowledges q addr := by
  induction bytes generalizing s with
  | nil => rfl
  | cons b bytes ih => exact (ih _).trans (acknowledges_writeByte s p q addr b)

theorem acknowledges_start (s : State) (p q : Port) (addr : Address) (x : Transfer) :
    (s.start p addr x).acknowledges q addr = s.acknowledges q addr := by
  unfold State.start State.address
  rw [acknowledges_withLink, acknowledges_withLink]

/-- An acknowledged start of a write leaves a write in progress. -/
theorem start_isWrite (s : State) (p : Port) (addr : Address) (ack : s.acknowledges p addr = true) :
    ((s.start p addr .addressed).link p).transfer.isWrite = true := by
  unfold State.start State.address
  simp [ack, Transfer.isWrite]

/-! ## WINDOW_SELECT (R186) -/

namespace Selected
variable (s : State) (p : Port) (addr : Address)

/-- A write of a code and further bytes, without a read behind it. -/
theorem exec_write (code : Byte) (written : List Byte) (part : Part) (opens : part.opens = true) :
    exec (.windowSelect p addr (some code) 0 written part) s =
      .next ((((s.start p addr .addressed).writeByte p code).writeBytes p written).stop p part) := by
  simp [exec, execWindowSelect, opens, readBytes_zero]

/-- A write of a code and further bytes, with a repeated start and a read behind it. -/
theorem exec_writeRead (code : Byte) (written : List Byte) (n : Nat) (hn : 0 < n) (ack : s.acknowledges p addr = true) :
    exec (.windowSelect p addr (some code) n written .whole) s =
      .next ((((((s.start p addr .addressed).writeByte p code).writeBytes p written).address p addr .opened).readBytes p
        n).stop p .whole) := by
  have writing := writeBytes_isWrite _ p written (writeByte_isWrite _ p code (start_isWrite s p addr ack))
  simp [exec, execWindowSelect, Part.whole, writing, Nat.ne_of_gt hn]

/-- A read of the selected window. -/
theorem exec_read (n : Nat) (fresh : (s.link p).transfer ≠ .message) (ack : s.acknowledges p addr = true) :
    exec (.windowSelect p addr none n [] .whole) s = .next (((s.reading p).readBytes p n).stop p .whole) := by
  have start : s.start p addr .opened = s.reading p := start_read s p addr fresh ack
  have notWrite : ((s.reading p).link p).transfer.isWrite = false := by rw [reading_link]; rfl
  simp [exec, execWindowSelect, Part.whole, State.writeBytes, start, notWrite]

/-- A code that the window takes no bytes behind. -/
theorem chosen (code : Byte) (w : Window) (window : windowOf p code = some w) (request : w ≠ .request)
    (directory : w ≠ .directory) (written : List Byte) (fresh : (s.link p).transfer ≠ .message)
    (ack : s.acknowledges p addr = true) :
    exec (.windowSelect p addr (some code) 0 written .whole) s = .next (s.withLink p fun l => { l with
      window := some w, transfer := .idle, acks := true :: true :: List.replicate written.length false }) := by
  have code' : (s.writing p).writeCode p code = (s.writing p).withLink p fun l => l.choose w .refusing := by
    unfold State.writeCode
    rw [window]
    cases w <;> simp at request directory ⊢
  rw [exec_write _ _ _ _ _ _ rfl, start_write s p addr fresh ack, ← State.writing, writing_writeByte, code', State.writing,
    withLink_withLink, writeBytes_refusing, stop_eq, withLink_withLink, withLink_withLink]
  · rfl
  · rw [link_withLink]; rfl

/-- A code that names no window of the port. -/
theorem unknown (code : Byte) (window : windowOf p code = none) (written : List Byte)
    (fresh : (s.link p).transfer ≠ .message) (ack : s.acknowledges p addr = true) :
    exec (.windowSelect p addr (some code) 0 written .whole) s = .next (s.withLink p fun l => { l with
      transfer := .idle, acks := true :: false :: List.replicate written.length false }) := by
  have code' : (s.writing p).writeCode p code = (s.writing p).withLink p Link.refuse := by
    unfold State.writeCode
    rw [window]
  rw [exec_write _ _ _ _ _ _ rfl, start_write s p addr fresh ack, ← State.writing, writing_writeByte, code', State.writing,
    withLink_withLink, writeBytes_refusing, stop_eq, withLink_withLink, withLink_withLink]
  · rfl
  · rw [link_withLink]; rfl

theorem directory (fresh : (s.link p).transfer ≠ .message) (ack : s.acknowledges p addr = true) :
    exec (.windowSelect p addr (some 0x04) 0 [] .whole) s = .next (s.withLink p fun l => { l with
      window := some .directory, transfer := .idle, acks := [true, true] }) := by
  rw [exec_write _ _ _ _ _ _ rfl, start_write s p addr fresh ack, ← State.writing, writing_writeByte, writeCode_directory,
    State.writing, withLink_withLink, stop_eq, State.writeBytes, List.foldl_nil, withLink_withLink]
  rfl

theorem windowOf_unknown (code : Byte) (h : code = 0 ∨ 6 < code.toNat ∨ (code = 0x06 ∧ p ≠ .cust)) :
    windowOf p code = none := by
  obtain rfl | large | ⟨rfl, line⟩ := h
  · rfl
  · have other (k : Byte) (small : k.toNat ≤ 6) : code ≠ k := by rintro rfl; omega
    simp [windowOf, other]
  · simp [windowOf, line]

/-- A write with a read behind it is the write and then the read, their acknowledgements joined. -/
theorem writeThenRead (ack : s.acknowledges p addr = true) (code : Byte) (written : List Byte) (n : Nat) (hn : 0 < n) :
    ∃ t u, exec (.windowSelect p addr (some code) 0 written .whole) s = .next t ∧
      exec (.windowSelect p addr none n [] .whole) t = .next u ∧
      exec (.windowSelect p addr (some code) n written .whole) s =
        .next (u.withLink p fun l => { l with acks := (t.link p).acks ++ l.acks }) := by
  rw [exec_writeRead s p addr code written n hn ack, exec_write s p addr code written .whole rfl]
  have ack' : (((s.start p addr .addressed).writeByte p code).writeBytes p written).acknowledges p addr = true := by
    rw [acknowledges_writeBytes, acknowledges_writeByte, acknowledges_start, ack]
  generalize ((s.start p addr .addressed).writeByte p code).writeBytes p written = w at ack'
  have stopped : w.stop p .whole = w.withLink p Link.ended := stop_eq w p .whole
  have idle : ∀ l : Link, l.ended.transfer = .idle := fun l => by unfold Link.ended; split <;> rfl
  have endedAcks : ∀ l : Link, l.ended.acks = l.acks := fun l => by unfold Link.ended; split <;> rfl
  have fresh : ((w.stop p .whole).link p).transfer ≠ .message := by rw [stopped, link_withLink, idle]; exact nofun
  refine ⟨_, _, rfl, exec_read _ p addr n fresh (by rw [stopped, acknowledges_withLink, ack']), ?_⟩
  have acks : ((w.stop p .whole).link p).acks = (w.link p).acks := by rw [stopped, link_withLink, endedAcks]
  have again : w.address p addr .opened = ((w.stop p .whole).reading p).withLink p (Link.prefixed (w.link p).acks) := by
    rw [stopped, State.reading, withLink_withLink, withLink_withLink]
    unfold State.address
    rw [ack']
    exact withLink_congr _ _ _ _ rfl
  rw [again, readBytes_prefixed, stop_prefixed, acks]
  rfl

theorem unanswered (fresh : (s.link p).transfer ≠ .message) (ack : s.acknowledges p addr = false) (code : Option Byte)
    (written : List Byte) (n : Nat) : exec (.windowSelect p addr code n written .whole) s =
      .next (s.withLink p fun l => { l with transfer := .idle, acks := [false] }) := by
  generalize idle : (s.withLink p fun l => { l with transfer := .idle, acks := [false] }) = t
  have transfer : (t.link p).transfer = .idle := by rw [← idle, link_withLink]
  have notWrite : (t.link p).transfer.isWrite = false := by rw [transfer]; rfl
  have written' : t.writeBytes p written = t := writeBytes_none _ _ _ notWrite
  have read : t.readBytes p n = t := by
    unfold State.readBytes
    rw [transfer]
    split
    · rfl
    · exact clock_none _ _ _ (.inl transfer)
  have stop : t.stop p .whole = t := by
    rw [stop_eq]
    refine withLink_id _ _ _ ?_
    have ended := ended_of_ne (t.link p) (by rw [transfer]; exact nofun)
    rw [← transfer] at ended
    simp [Part.whole, ended]
  cases code with
  | none =>
    simp [exec, execWindowSelect, Part.whole, start_unanswered s p addr _ fresh ack, idle, written', notWrite, read]
    exact stop
  | some c =>
    have code' : t.writeByte p c = t := writeByte_none _ _ _ notWrite
    simp [exec, execWindowSelect, Part.whole, start_unanswered s p addr _ fresh ack, idle, code', written', notWrite, read]
    exact stop

/-- A later part of a read of a record sends what is left of it. -/
theorem laterPart (left : List Byte) (n : Nat) (record : (s.link p).transfer = .record left) (hn : 0 < n) :
    exec (.windowSelect p addr none n [] { opens := false, closes := false }) s = .next (s.withLink p fun l => { l with
      transfer := .record (left.drop n), sent := l.sent ++ clocked left n }) := by
  have notWrite : (s.link p).transfer.isWrite = false := by rw [record]; rfl
  have read := readBytes_judged s p n (by rw [record]; exact nofun) hn
  simp [exec, execWindowSelect, State.writeBytes, notWrite, read, clock_record s p n left record, State.stop]

end Selected

/-- A whole read of the completion and directory windows. -/
theorem readPart_whole (s : State) (p : Port) (addr : Address) (n : Nat) (w : Window) (window : (s.link p).window = some w)
    (fresh : (s.link p).transfer ≠ .message) (ack : s.acknowledges p addr = true) :
    s.readPart p addr .whole w n = ((s.reading p).readBytes p n).stop p .whole := by
  simp [State.readPart, window, start_read s p addr fresh ack, State.reading, show Part.whole.opens = true from rfl]

/-- Settles O10: each kind of write and read by its own lemma. -/
theorem windowSelectSelectsAndShows : Obligations.WindowSelectSelectsAndShows := by
  refine fun s p addr => ⟨fun fresh ack written => ⟨?_, Selected.directory s p addr fresh ack, fun code unknown => ?_⟩,
    fun part message opens => ?_, fun b extra => ?_, fun fresh ack n hn => ⟨fun none => ?_, ?_, fun window => ?_,
    fun window => ?_⟩, fun ack code written n hn => Selected.writeThenRead s p addr ack code written n hn,
    fun fresh ack code written n => Selected.unanswered s p addr fresh ack code written n,
    fun left n record hn => Selected.laterPart s p addr left n record hn⟩
  · rintro ⟨code, w⟩ row cust
    have window : windowOf p code = some w ∧ w ≠ .request ∧ w ≠ .directory := by
      simp only [List.mem_cons, List.not_mem_nil, or_false, Prod.mk.injEq] at row
      obtain ⟨rfl, rfl⟩ | ⟨rfl, rfl⟩ | ⟨rfl, rfl⟩ | ⟨rfl, rfl⟩ := row
      · exact ⟨rfl, nofun, nofun⟩
      · exact ⟨rfl, nofun, nofun⟩
      · exact ⟨rfl, nofun, nofun⟩
      · rw [cust rfl]; exact ⟨rfl, nofun, nofun⟩
    obtain ⟨code', request, directory⟩ := window
    exact Selected.chosen s p addr code w code' request directory written fresh ack
  · exact Selected.unknown s p addr code (Selected.windowOf_unknown p code unknown) written fresh ack
  · rw [Selected.exec_write _ _ _ _ _ _ opens, Admitted.exec_opening _ _ _ _ _ opens]
  · rw [Selected.exec_write _ _ _ _ _ _ rfl]
    rfl
  · rw [Selected.exec_read s p addr n fresh ack, read_fill s p n hn]
    obtain window | window := none <;> simp [State.source, window]
  · rintro ⟨w, record⟩ row window
    rw [Selected.exec_read s p addr n fresh ack, read_record s p n hn record]
    simp only [List.mem_cons, List.not_mem_nil, or_false, Prod.mk.injEq] at row
    obtain ⟨rfl, rfl⟩ | ⟨rfl, rfl⟩ | ⟨rfl, rfl⟩ := row <;> simp_all [State.source]
  · rw [Selected.exec_read s p addr n fresh ack]
    simp [exec, execCompletionRead, readPart_whole s p addr n _ window fresh ack]
  · rw [Selected.exec_read s p addr n fresh ack]
    simp [exec, execDirectoryRead, readPart_whole s p addr n _ window fresh ack]

end Sys2Proof.Machine
end

section
/-! PROOF. The directory pointer, the directory window (O11) and the completion window (O12). -/

namespace Sys2Proof.Machine

/-! ## DIRECTORY_POINTER_WRITE (R190) -/

theorem exec_directoryPointerWrite (s : State) (p : Port) (addr : Address) (b : Byte) (extra : List Byte) :
    exec (.directoryPointerWrite p addr b extra) s =
      .next ((((s.start p addr .addressed).writeByte p 0x04).writeBytes p (b :: extra)).stop p .whole) := rfl

theorem pointerWrite_acknowledged (s : State) (p : Port) (addr : Address) (b : Byte) (extra : List Byte)
    (fresh : (s.link p).transfer ≠ .message) (ack : s.acknowledges p addr = true) :
    exec (.directoryPointerWrite p addr b extra) s = .next (s.withLink p fun l => { l with
      window := some .directory, pointer := b.toNat % 128, timeForm := decide (128 ≤ b.toNat), transfer := .idle
      acks := true :: true :: true :: List.replicate extra.length false }) := by
  have chosen : (s.start p addr .addressed).writeByte p 0x04 =
      (s.writing p).withLink p fun l => l.choose .directory .pointer := by
    rw [start_write s p addr fresh ack, ← State.writing, writing_writeByte, writeCode_directory]
  have pointed (t : State) (h : (t.link p).transfer = .pointer) :
      t.writeBytes p (b :: extra) = (t.withLink p fun l => l.point b).writeBytes p extra := by
    show ((t.writeByte p b).writeBytes p extra) = _
    unfold State.writeByte
    rw [h]
  rw [exec_directoryPointerWrite, chosen, pointed _ (by rw [link_withLink]; rfl), State.writing, withLink_withLink,
    withLink_withLink, writeBytes_refusing _ _ _ (by rw [link_withLink]; rfl), stop_eq, withLink_withLink, withLink_withLink]
  rfl

theorem pointerWrite_unanswered (s : State) (p : Port) (addr : Address) (b : Byte) (extra : List Byte)
    (fresh : (s.link p).transfer ≠ .message) (ack : s.acknowledges p addr = false) :
    exec (.directoryPointerWrite p addr b extra) s = .next (s.withLink p fun l =>
      { l with transfer := .idle, acks := [false] }) :=
  Selected.unanswered s p addr fresh ack (some 0x04) (b :: extra) 0 ▸ by
    rw [Selected.exec_write _ _ _ _ _ _ rfl, exec_directoryPointerWrite]

/-! ## The bytes of a directory read (R190) -/

theorem clockDirectory_within (s : State) (p : Port) (left : List Byte) (n : Nat) (h : n < left.length) :
    s.clockDirectory p left n = s.withLink p fun l =>
      { l with transfer := .directory (left.drop n), sent := l.sent ++ left.take n } := by
  unfold State.clockDirectory
  rw [if_pos h]

/-- The last byte of a record moves the pointer by one. -/
theorem clockDirectory_last (s : State) (p : Port) (left : List Byte) (h : left ≠ []) :
    s.clockDirectory p left left.length = s.withLink p fun l => { l with
      transfer := .directory [], sent := l.sent ++ left, pointer := min 128 (l.pointer + 1) } := by
  unfold State.clockDirectory
  extract_lets l more first records
  have none : more = 0 := Nat.sub_self _
  rw [if_neg (Nat.lt_irrefl _)]
  refine withLink_congr _ _ _ _ ?_
  simp [none, first, h, l]

/-- The records from the pointer on. -/
def State.recordsFrom (s : State) (p : Port) (time : Bool) (first n : Nat) : List Byte :=
  (List.range (n / 24 + 1)).flatMap fun k => s.pointedRecord p time (first + k)

theorem recordsFrom_one (s : State) (p : Port) (time : Bool) (first n : Nat) (h : n < 24) :
    s.recordsFrom p time first n = s.pointedRecord p time first := by
  have one : n / 24 + 1 = 1 := by omega
  simp [State.recordsFrom, one, List.range_succ]

/-- A read that begins at a record's first byte. -/
theorem clockDirectory_fresh (s : State) (p : Port) (n : Nat) :
    s.clockDirectory p [] n = s.withLink p fun l => { l with
      sent := l.sent ++ (s.recordsFrom p l.timeForm l.pointer n).take n
      pointer := min 128 (l.pointer + n / 24)
      transfer := .directory (if n % 24 = 0 then [] else (s.recordsFrom p l.timeForm l.pointer n).drop n) } := by
  unfold State.clockDirectory
  extract_lets l more first records
  rw [List.length_nil, if_neg (Nat.not_lt_zero _)]
  refine withLink_congr _ _ _ _ ?_
  simp [State.recordsFrom, more, first, records, l]

/-- The directory window's read of a record that begins in this part. -/
theorem clockDirectory_begun (s : State) (p : Port) (n : Nat) (hn : 0 < n) (short : n < 24)
    (pointer : (s.link p).pointer ≤ 128) : s.clockDirectory p [] n = s.withLink p fun l => { l with
      transfer := .directory ((s.pointedRecord p l.timeForm l.pointer).drop n)
      sent := l.sent ++ (s.pointedRecord p l.timeForm l.pointer).take n } := by
  rw [clockDirectory_fresh]
  refine withLink_congr _ _ _ _ ?_
  have none : n / 24 = 0 := Nat.div_eq_of_lt short
  have some : n % 24 ≠ 0 := by omega
  simp [recordsFrom_one _ _ _ _ _ short, none, some, pointer]

theorem recordsFrom_withLink (s : State) (p q : Port) (f : Link → Link) (time : Bool) (first n : Nat) :
    (s.withLink p f).recordsFrom q time first n = s.recordsFrom q time first n := by
  simp only [State.recordsFrom, pointedRecord_withLink]

/-! ## DIRECTORY_READ and COMPLETION_READ (R189, R190) -/

theorem readPart_later (s : State) (p : Port) (addr : Address) (part : Part) (w : Window) (n : Nat) (hn : 0 < n)
    (opens : part.opens = false) (judged : (s.link p).transfer ≠ .opened) :
    s.readPart p addr part w n = (s.clock p n).stop p part := by
  simp [State.readPart, opens, readBytes_judged s p n judged hn]

theorem readPart_opening (s : State) (p : Port) (addr : Address) (part : Part) (w : Window) (n : Nat)
    (opens : part.opens = true) (window : (s.link p).window = some w) (fresh : (s.link p).transfer ≠ .message)
    (ack : s.acknowledges p addr = true) : s.readPart p addr part w n = ((s.reading p).readBytes p n).stop p part := by
  simp [State.readPart, opens, window, start_read s p addr fresh ack, State.reading]

namespace DirectoryRead
variable (s : State) (p : Port) (addr : Address) (n : Nat) (hn : 0 < n)
include hn

theorem whole (ack : s.acknowledges p addr = true) (window : (s.link p).window = some .directory)
    (fresh : (s.link p).transfer ≠ .message) (inUse : s.directory.inUse = true) :
    exec (.directoryRead p addr n .whole) s = .next (s.withLink p fun l => { l with
      transfer := .idle, acks := [true], pointer := min 128 (l.pointer + n / 24)
      sent := ((List.range (n / 24 + 1)).flatMap fun k => s.pointedRecord p l.timeForm (l.pointer + k)).take n }) := by
  have source : s.source p = .directory [] := by simp [State.source, window, inUse]
  show Host.Outcome.next (s.readPart p addr .whole .directory n) = _
  rw [readPart_opening s p addr .whole _ n rfl window fresh ack, reading_readBytes s p n hn, source,
    clock_directory _ _ _ [] (by rw [link_withLink]), clockDirectory_fresh, stop_eq, withLink_withLink, withLink_withLink]
  simp only [recordsFrom_withLink]
  rfl

theorem begun (ack : s.acknowledges p addr = true) (window : (s.link p).window = some .directory)
    (fresh : (s.link p).transfer ≠ .message) (inUse : s.directory.inUse = true) (short : n < 24)
    (pointer : (s.link p).pointer ≤ 128) :
    exec (.directoryRead p addr n { opens := true, closes := false }) s = .next (s.withLink p fun l => { l with
      transfer := .directory ((s.pointedRecord p l.timeForm l.pointer).drop n), acks := [true]
      sent := (s.pointedRecord p l.timeForm l.pointer).take n }) := by
  have source : s.source p = .directory [] := by simp [State.source, window, inUse]
  show Host.Outcome.next (s.readPart p addr _ .directory n) = _
  rw [readPart_opening s p addr _ _ n rfl window fresh ack, reading_readBytes s p n hn, source,
    clock_directory _ _ _ [] (by rw [link_withLink]),
    clockDirectory_begun _ p n hn short (by rw [link_withLink]; exact pointer), stop_eq, withLink_withLink, withLink_withLink]
  simp only [pointedRecord_withLink]
  rfl

theorem noDirectory (ack : s.acknowledges p addr = true) (window : (s.link p).window = some .directory)
    (fresh : (s.link p).transfer ≠ .message) (inUse : s.directory.inUse = false) :
    exec (.directoryRead p addr n .whole) s = .next (s.withLink p fun l => { l with
      transfer := .idle, acks := [true], sent := List.replicate n 0xFF }) := by
  have source : s.source p = .fill := by simp [State.source, window, inUse]
  show Host.Outcome.next (s.readPart p addr .whole .directory n) = _
  rw [readPart_opening s p addr .whole _ n rfl window fresh ack, read_fill s p n hn source]

/-- A later part of a directory read clocks from where the read stands. -/
theorem later (left : List Byte) (reads : (s.link p).transfer = .directory left) :
    exec (.directoryRead p addr n { opens := false, closes := false }) s = .next (s.clockDirectory p left n) := by
  show Host.Outcome.next (s.readPart p addr _ .directory n) = _
  rw [readPart_later s p addr _ _ n hn rfl (by rw [reads]; exact nofun), clock_directory s p n left reads]
  rfl

end DirectoryRead

/-- Settles O11: the pointer write, the records at the pointer, and the parts of a read by where it stands. -/
theorem directoryWindowFollowsItsPointer : Obligations.DirectoryWindowFollowsItsPointer := by
  refine ⟨fun s p addr b extra fresh => ⟨pointerWrite_acknowledged s p addr b extra fresh,
    pointerWrite_unanswered s p addr b extra fresh⟩, fun s p time => ⟨fun k => ?_, fun k large => ?_⟩,
    fun s p addr n ack window fresh hn => ⟨DirectoryRead.whole s p addr n hn ack window fresh,
    DirectoryRead.begun s p addr n hn ack window fresh, DirectoryRead.noDirectory s p addr n hn ack window fresh⟩,
    fun s p addr left n reads hn => ⟨fun short => ?_, fun last => ?_, fun empty short pointer => ?_⟩⟩
  · exact dif_pos k.isLt
  · exact dif_neg (Nat.not_lt.mpr large)
  · rw [DirectoryRead.later s p addr n hn left reads, clockDirectory_within s p left n short]
  · subst last
    rw [DirectoryRead.later s p addr _ hn left reads, clockDirectory_last s p left (List.ne_nil_of_length_pos hn)]
  · subst empty
    rw [DirectoryRead.later s p addr n hn [] reads, clockDirectory_begun s p n hn short pointer]

/-- Settles O12: a read from its start and a later part clock the completion alike, and the stop ends either. -/
theorem completionReadSendsTheOldestCompletion : Obligations.CompletionReadSendsTheOldestCompletion := by
  intro s p addr part n hn
  refine ⟨fun opens ack window fresh => ⟨fun c rest waits => ?_, fun none => ?_⟩, fun later =>
    ⟨fun left reads => ?_, fun fill => ?_⟩⟩
  all_goals show Host.Outcome.next (s.readPart p addr _ .completion n) = _
  · have source : s.source p = .completion c.bytes := by simp [State.source, window, waits]
    rw [readPart_opening s p addr part _ n opens window fresh ack, reading_readBytes s p n hn, source,
      clock_completion _ _ _ c.bytes (by rw [link_withLink]), State.clockCompletion, stop_eq, withLink_withLink,
      withLink_withLink]
    congr 1
    refine withLink_congr _ _ _ _ ?_
    by_cases all : c.bytes.length ≤ n <;> cases part.closes <;> simp [all, waits, Link.ended]
  · have source : s.source p = .record [0x00] := by simp [State.source, window, none]
    rw [readPart_opening s p addr .whole _ n rfl window fresh ack, read_record s p n hn [0x00] source]
  · rw [readPart_later s p addr part _ n hn later (by rw [reads]; exact nofun), clock_completion s p n left reads,
      State.clockCompletion, stop_eq, withLink_withLink]
    congr 1
    refine withLink_congr _ _ _ _ ?_
    by_cases all : left.length ≤ n <;> cases part.closes <;> simp [all, Link.ended]
  · rw [readPart_later s p addr part _ n hn later (by rw [fill]; exact nofun), clock_fill s p n fill, stop_eq,
      withLink_withLink]
    congr 1
    refine withLink_congr _ _ _ _ ?_
    cases part.closes <;> simp [fill, Link.ended]

end Sys2Proof.Machine
end

section
/-! PROOF. The attention lines, the directory records, port status and identity (for O13). -/

namespace Sys2Proof.Machine

/-! ## Attention lines (R83, R193) -/

theorem isEnded_iff (x : Position) : x.isEnded = true ↔ ∃ b r u, x = .ended b r u := by
  cases x <;> simp [Position.isEnded]

/-- What holds of some entry of a table of four. -/
theorem any_toList_iff {α : Type} {n : Nat} (v : Vector α n) (p : α → Bool) :
    v.toList.any p = true ↔ ∃ i : Fin n, p v[i] = true := by
  simp [Fin.exists_iff, Vector.any_eq_true]

theorem attention_line_iff (s : State) (l : Line) : s.attention (.line l) = true ↔
    (s.custody.present = .service ∨ s.custody.present = .zeroizing ∨ s.custody.present = .recovery) ∧
    (s.lineLinks[l].completions ≠ [] ∨ ∃ (p : Pos) (b : Binding) (r : EndReason) (u : Bool), s.pos l p = .ended b r u) := by
  have ended : s.positions[l].toList.any Position.isEnded = true ↔
      ∃ (p : Pos) (b : Binding) (r : EndReason) (u : Bool), s.pos l p = .ended b r u := by
    rw [any_toList_iff]
    exact exists_congr fun p => isEnded_iff _
  rw [State.attention, Bool.and_eq_true, lineServed_iff, Bool.or_eq_true, ended]
  simp

theorem attention_cust_iff (s : State) : s.attention .cust = true ↔
    (s.custody.present = .service ∨ s.custody.present = .zeroizing ∨ s.custody.present = .recovery ∨
      s.custody.present = .uncommissioned) ∧
    (s.custLink.completions ≠ [] ∨ s.ceremony.undelivered ≠ none) := by
  rw [State.attention, Bool.and_eq_true, custServed_iff, Bool.or_eq_true]
  simp [Option.isSome_iff_ne_none]

/-! ## Directory records (R21, R190, R191) -/

/-- A slot is shown in full to the custodian, and to a line port whose domain is the slot's. -/
theorem visible_of_domain (s : State) (p : Port) (n : SlotNo) (h : p = .cust ∨ ∃ l, p = .line l ∧
    s.allocations[l].domain ≠ 0 ∧ hDomain s.directory.slots[n].header = s.allocations[l].domain) : s.visible p n = true := by
  obtain rfl | ⟨l, rfl, domain, same⟩ := h
  · rfl
  · simpa [State.visible] using ⟨domain, same⟩

theorem visible_other (s : State) (l : Line) (n : SlotNo)
    (h : s.allocations[l].domain = 0 ∨ hDomain s.directory.slots[n].header ≠ s.allocations[l].domain) :
    s.visible (.line l) n = false := by
  rw [← Bool.not_eq_true]
  simpa [State.visible, or_iff_not_imp_left] using h

section
variable (s : State) (p : Port) (n : SlotNo)

theorem directoryRecord_hidden (time : Bool) (h : s.visible p n = false) :
    s.directoryRecord p time n = [BitVec.ofNat 8 n.val, 0, 0xFE] ++ List.replicate 21 0 := by
  simp only [State.directoryRecord, h, if_true]

theorem directoryRecord_empty (time : Bool) (h : s.visible p n = true) (empty : s.directory.slots[n].state = .empty) :
    s.directoryRecord p time n =
      [BitVec.ofNat 8 n.val, s.directory.banks[bankOf n].epoch, 0] ++ List.replicate 21 0 := by
  simp only [State.directoryRecord, h, Bool.true_eq_false, if_false, empty, if_true, SlotState.byte]

theorem directoryRecord_time (h : s.visible p n = true) (taken : s.directory.slots[n].state ≠ .empty) :
    s.directoryRecord p true n =
      [BitVec.ofNat 8 n.val, s.directory.banks[bankOf n].epoch, s.directory.slots[n].state.byte, 0] ++
        slice s.directory.slots[n].header 16 6 ++ List.replicate 14 0 := by
  simp only [State.directoryRecord, h, Bool.true_eq_false, if_false, taken, if_true]
  rfl

theorem directoryRecord_entry (h : s.visible p n = true) (taken : s.directory.slots[n].state ≠ .empty) :
    s.directoryRecord p false n =
      [BitVec.ofNat 8 n.val, s.directory.banks[bankOf n].epoch, s.directory.slots[n].state.byte, s.slotFlags n,
        keyByte s.directory.slots[n].header, shapeByte s.directory.slots[n].header s.directory.banks[bankOf n]] ++
        slice s.directory.slots[n].header 5 11 ++ be24 s.retention.slots[n].remaining ++
        be24 s.retention.slots[n].issued ++ [BitVec.ofNat 8 (s.liveCount n)] := by
  simp only [State.directoryRecord, h, Bool.true_eq_false, if_false, taken]
  rfl

theorem slice_length {k : Nat} (v : Vector Byte k) (start len : Nat) (h : start + len ≤ k) : (slice v start len).length = len := by
  simp [slice]; omega

theorem directoryRecord_length (time : Bool) : (s.directoryRecord p time n).length = 24 := by
  cases shown : s.visible p n with
  | false => simp [directoryRecord_hidden s p n time shown]
  | true =>
    by_cases empty : s.directory.slots[n].state = .empty
    · simp [directoryRecord_empty s p n time shown empty]
    · cases time with
      | true => simp [directoryRecord_time s p n shown empty, slice_length]
      | false => simp [directoryRecord_entry s p n shown empty, slice_length, be24]

end

/-! ## The bytes of a record (11.7) -/

theorem bitsByte_lt (bits : List Bool) : (bitsByte bits).toNat < 2 ^ bits.length := by
  have sum : bits.foldr (fun b acc => acc * 2 + b.toNat) 0 < 2 ^ bits.length := by
    induction bits with
    | nil => exact Nat.one_pos
    | cons b bits ih =>
      have bit : b.toNat ≤ 1 := Bool.toNat_le b
      rw [List.foldr_cons, List.length_cons, Nat.pow_succ]
      omega
  exact lt_of_le_of_lt (by rw [bitsByte, BitVec.toNat_ofNat]; exact Nat.mod_le _ _) sum

theorem slotFlags_bits (s : State) (n : SlotNo) :
    (s.slotFlags n).getLsbD 0 = s.directory.slots[n].retirePending ∧
    (s.slotFlags n).getLsbD 1 = s.retention.slots[n].hold ∧
    (s.slotFlags n).getLsbD 2 = (hAllowance s.directory.slots[n].header).isSome ∧
    (s.slotFlags n).getLsbD 3 = hDated s.directory.slots[n].header ∧
    (s.slotFlags n).getLsbD 4 = s.directory.slots[n].shownNotYet ∧
    (s.slotFlags n).getLsbD 5 = s.directory.slots[n].shownExpired ∧ (s.slotFlags n).toNat < 64 := by
  unfold State.slotFlags
  refine ⟨?_, ?_, ?_, ?_, ?_, ?_, bitsByte_lt _⟩ <;> rw [getLsbD_bitsByte _ (by decide)] <;> rfl

theorem keyByte_toNat (h : Header) (domain : (hDomain h).toNat < 16) (cls : (hClass h).toNat < 16) :
    (keyByte h).toNat = (hDomain h).toNat + 16 * (hClass h).toNat := by
  simp only [keyByte, domain, cls, if_true, shown, BitVec.toNat_ofNat]
  omega

/-- A byte of fields that do not overlap. -/
theorem shapeByte_toNat (h : Header) (b : BankDir) (k p n : Nat) (length : lengthCode h = k) (hk : k < 4)
    (parity : (hParity h).toNat = p) (hp : p < 2)
    (count : shown 4 (hCount h) (if hCount h = 3 then some 1 else if hCount h = 2 ∨ hCount h = 0 then some 0 else none) 2 = n)
    (hn : n < 2) : (shapeByte h b).toNat =
      k + 4 * p + 8 * n + 16 * b.condition.code + 64 * b.degraded.toNat + 128 * b.lost.toNat := by
  have code : b.condition.code ≤ 2 := by cases b.condition <;> decide
  have degraded := Bool.toNat_le b.degraded
  have lost := Bool.toNat_le b.lost
  simp only [shapeByte, length, parity, hp, if_true, shown]
  simp only [shown] at count
  rw [count, BitVec.toNat_ofNat]
  omega

theorem lengthCode_of_length (h : Header) (k c : Nat) (row : (k, c) ∈ [(16, 1), (24, 2), (32, 3)]) (length : hLength h = k) :
    lengthCode h = c := by
  simp only [List.mem_cons, List.not_mem_nil, or_false, Prod.mk.injEq] at row
  unfold lengthCode
  obtain ⟨rfl, rfl⟩ | ⟨rfl, rfl⟩ | ⟨rfl, rfl⟩ := row <;> rw [length] <;> rfl

theorem shapeByte_of_fields (h : Header) (b : BankDir) (kc : Nat × Nat) (kRow : kc ∈ [(16, 1), (24, 2), (32, 3)])
    (nc : Byte × Nat) (nRow : nc ∈ [((2 : Byte), 0), (3, 1)]) (length : hLength h = kc.1) (count : hCount h = nc.1)
    (parity : (hParity h).toNat < 2) : (shapeByte h b).toNat = kc.2 + 4 * (hParity h).toNat + 8 * nc.2 +
      16 * b.condition.code + 64 * b.degraded.toNat + 128 * b.lost.toNat := by
  have code := lengthCode_of_length h kc.1 kc.2 kRow length
  simp only [List.mem_cons, List.not_mem_nil, or_false] at kRow nRow
  refine shapeByte_toNat h b kc.2 _ nc.2 code ?_ rfl parity ?_ ?_
  · obtain rfl | rfl | rfl := kRow <;> decide
  · rw [count]; obtain rfl | rfl := nRow <;> rfl
  · obtain rfl | rfl := nRow <;> decide

/-- A cleared header copy shows 00 for key, length, parity and count (R21). -/
theorem keyByte_cleared : keyByte (Vector.replicate 22 0) = 0 := rfl

theorem shapeByte_cleared (b : BankDir) : (shapeByte (Vector.replicate 22 0) b).toNat =
    16 * b.condition.code + 64 * b.degraded.toNat + 128 * b.lost.toNat := by
  rw [shapeByte_toNat (Vector.replicate 22 0) b 0 0 0 rfl (by decide) rfl (by decide) rfl (by decide)]
  omega

/-! ## Port status and identity (R82, R148, R192) -/

theorem calendarBytes_eq (s : State) : s.calendarBytes = dateBytes s.retention.calendar.date ++
    timeBytes s.retention.calendar.time ++
    [BitVec.ofNat 8 (s.retention.calendar.set.toNat + 2 * s.retention.calendar.counting.toNat)] := by
  simp only [State.calendarBytes]
  congr 2
  cases s.retention.calendar.set <;> cases s.retention.calendar.counting <;> rfl

theorem bitsByte_two (a b : Bool) : bitsByte [a, b] = BitVec.ofNat 8 (a.toNat + 2 * b.toNat) := by
  cases a <;> cases b <;> rfl

/-- A table of four in order. -/
theorem toList_four {α : Type} (v : Vector α 4) : v.toList = four.map fun i => v[i] := by
  apply List.ext_getElem
  · simp [four]
  · intro i h _
    have small : i < 4 := by simpa using h
    have : i = 0 ∨ i = 1 ∨ i = 2 ∨ i = 3 := by omega
    obtain rfl | rfl | rfl | rfl := this <;> simp [four]

/-- The nine bytes of a position by its state (11.7). -/
theorem position_bytes (x : Position) : x.bytes = match x with
    | .free => List.replicate 9 0
    | .loading b rp => [1, boolByte rp] ++ b.handle.bytes ++ [BitVec.ofNat 8 b.slot.val] ++ be24 b.reservation
    | .bound b => [2, 0] ++ b.handle.bytes ++ [BitVec.ofNat 8 b.slot.val] ++ be24 b.reservation
    | .clearing b kind => [3, match kind with | .release => 0 | .recall => 2] ++ b.handle.bytes ++
      [BitVec.ofNat 8 b.slot.val] ++ be24 b.reservation
    | .ended b reason unclean => [4, BitVec.ofNat 8 ((match reason with | .recalled => 0 | .engineLost => 4) +
        8 * unclean.toNat)] ++ b.handle.bytes ++ [BitVec.ofNat 8 b.slot.val] ++ be24 b.reservation
    | .blocked => 5 :: List.replicate 8 0 := by
  cases x with
  | free | bound | blocked => rfl
  | loading b rp => cases rp <;> rfl
  | clearing b kind => cases kind <;> rfl
  | ended b reason unclean => cases reason <;> cases unclean <;> rfl

theorem position_bytes_length (x : Position) : x.bytes.length = 9 := by
  cases x <;> rfl

theorem identityRecord_length (s : State) (p : Port) : (s.identityRecord p).length = 15 := by
  simp [State.identityRecord, slice_length]

theorem calendarBytes_length (s : State) : s.calendarBytes.length = 7 := rfl

theorem portStatus_line_length (s : State) (l : Line) : (s.portStatus (.line l)).length = 47 := by
  simp only [State.portStatus, toList_four, four, List.map_cons, List.map_nil, List.flatMap_cons, List.flatMap_nil,
    List.length_append, List.length_cons, List.length_nil, calendarBytes_length, position_bytes_length]

end Sys2Proof.Machine
end

section
/-! PROOF. Custody status is its fields laid end to end, and the shapes of every window record (O13). -/

namespace Sys2Proof.Machine

/-! ## Fields laid end to end -/

/-- Each field begins where the one before it ends. -/
def Laid : Nat → List (Nat × List Byte) → Prop
  | _, [] => True
  | offset, f :: fields => f.1 = offset ∧ Laid (offset + f.2.length) fields

/-- A record of fields laid end to end shows each at its offset. -/
theorem fieldAt_of_laid (fields : List (Nat × List Byte)) (before : List Byte) (laid : Laid before.length fields) :
    ∀ f ∈ fields, fieldAt (before ++ fields.flatMap (·.2)) f.1 f.2.length = f.2 := by
  induction fields generalizing before with
  | nil => exact nofun
  | cons g fields ih =>
    obtain ⟨offset, rest⟩ := laid
    rintro f (_ | ⟨_, later⟩)
    · simp [fieldAt, offset]
    · have shown := ih (before ++ g.2) (by rwa [List.length_append]) f later
      rwa [List.append_assoc] at shown

/-! ## Custody status (R192) -/

/-- A field as a mode shows it that does not show the running blocks: 00 (R192). -/
def darkened (dark : Bool) (f : Nat × List Byte) : Nat × List Byte :=
  (f.1, if dark then List.replicate f.2.length 0 else f.2)

/-- The fields of custody status in order (11.7). -/
def State.shownFields (s : State) (dark : Bool) : List (Nat × List Byte) :=
  s.statusFields.take 9 ++ (s.runningFields.take 2).map (darkened dark) ++ s.statusFields.drop 9 ++
    (s.runningFields.drop 2).map (darkened dark)

theorem stampBytes_length (x : Option Stamp) : (stampBytes x).length = 6 := by cases x <;> rfl
theorem testBytes_length (t : TestRecord) : t.bytes.length = 11 := by
  simp [TestRecord.bytes, be16, stampBytes_length]
theorem execBytes_length (x : Option ExecOp) : (execBytes x).length = 2 := by
  cases x with
  | none => rfl
  | some op => cases op <;> rfl

theorem shownFields_laid (s : State) (dark : Bool) : Laid 0 (s.shownFields dark) := by
  have zeros (f : Nat × List Byte) : (darkened dark f).2.length = f.2.length := by
    unfold darkened
    cases dark <;> simp
  have offsets (f : Nat × List Byte) : (darkened dark f).1 = f.1 := rfl
  unfold State.shownFields State.statusFields State.runningFields
  cases s.monitor.windowTimer <;> cases s.ceremony.current <;>
  simp [Laid, zeros, offsets, four, stampBytes_length, testBytes_length, execBytes_length, calendarBytes_length, be16,
    Handle.bytes]

theorem custodyStatus_eq (s : State) : s.custodyStatus =
    (s.shownFields (s.custody.present == .halted || s.custody.present == .uncommissioned)).flatMap (·.2) := by
  generalize dark : (s.custody.present == .halted || s.custody.present == .uncommissioned) = d
  unfold State.custodyStatus State.shownFields State.statusFields State.runningFields State.controlBytes Ceremony.statusBytes
  simp only [dark, toList_four, four, List.map_cons, List.map_nil]
  cases s.control.suspended <;> cases s.ceremony.undelivered <;> cases s.monitor.windowTimer <;> cases d
  all_goals
    cases s.ceremony.current with
    | none => simp [darkened, be16, seconds, cyclesPerSecond, boolByte, testBytes_length, execBytes_length]
    | some o =>
      cases next : o.next <;>
      simp [darkened, be16, seconds, cyclesPerSecond, boolByte, Handle.bytes, testBytes_length, execBytes_length, next]

theorem shownFields_mem_status (s : State) (dark : Bool) {f : Nat × List Byte} (h : f ∈ s.statusFields) :
    f ∈ s.shownFields dark := by
  rw [← List.take_append_drop 9 s.statusFields, List.mem_append] at h
  simp only [State.shownFields, List.mem_append]
  obtain first | second := h
  · exact .inl (.inl (.inl first))
  · exact .inl (.inr second)

theorem shownFields_mem_running (s : State) (dark : Bool) {f : Nat × List Byte} (h : f ∈ s.runningFields) :
    darkened dark f ∈ s.shownFields dark := by
  rw [← List.take_append_drop 2 s.runningFields, List.mem_append] at h
  simp only [State.shownFields, List.mem_append]
  obtain first | second := h
  · exact .inl (.inl (.inr (List.mem_map_of_mem first)))
  · exact .inr (List.mem_map_of_mem second)

theorem custodyStatus_field (s : State) {f : Nat × List Byte}
    (h : f ∈ s.shownFields (s.custody.present == .halted || s.custody.present == .uncommissioned)) :
    fieldAt s.custodyStatus f.1 f.2.length = f.2 := by
  rw [custodyStatus_eq]
  exact fieldAt_of_laid _ [] (shownFields_laid s _) f h

/-- A field of the running blocks is shown, or 00 in HALTED and UNCOMMISSIONED. -/
theorem custodyStatus_running (s : State) {f : Nat × List Byte} (h : f ∈ s.runningFields) (dark : Bool)
    (mode : (s.custody.present == .halted || s.custody.present == .uncommissioned) = dark) :
    fieldAt s.custodyStatus f.1 f.2.length = (darkened dark f).2 := by
  have length : (darkened dark f).2.length = f.2.length := by
    unfold darkened
    cases dark <;> simp
  rw [← length]
  exact custodyStatus_field s (mode ▸ shownFields_mem_running s dark h)

theorem custodyStatus_length (s : State) : s.custodyStatus.length = 115 := by
  have zeros (dark : Bool) (f : Nat × List Byte) : (darkened dark f).2.length = f.2.length := by
    unfold darkened
    cases dark <;> simp
  rw [custodyStatus_eq]
  unfold State.shownFields State.statusFields State.runningFields
  cases s.monitor.windowTimer <;> cases s.ceremony.current <;>
  simp [zeros, four, stampBytes_length, testBytes_length, execBytes_length, calendarBytes_length, be16, Handle.bytes]

/-! ## The shapes of the records (11.7) -/

theorem bankByte_toNat (b : BankDir) : b.byte.toNat =
    b.condition.code + 4 * b.degraded.toNat + 8 * b.lost.toNat + 16 * b.reserved.toNat := by
  have code : b.condition.code ≤ 2 := by cases b.condition <;> decide
  have degraded := Bool.toNat_le b.degraded
  have lost := Bool.toNat_le b.lost
  have reserved := Bool.toNat_le b.reserved
  rw [BankDir.byte, BitVec.toNat_ofNat]
  omega

/-- Settles O13: attention lines, directory records, status, identity and custody status, each by its lemmas. -/
theorem windowRecordsHaveTheirShape : Obligations.WindowRecordsHaveTheirShape := by
  refine ⟨fun s => ⟨attention_line_iff s, attention_cust_iff s⟩, ?_, calendarBytes_eq, fun s l => ?_, fun s => ?_,
    fun s p => ?_, fun s => ⟨fun f field => custodyStatus_field s (shownFields_mem_status s _ field),
    fun halted uncommissioned f field => ?_, fun dark f field => ?_⟩, ?_, fun s => ⟨fun p time n => directoryRecord_length s p n time,
    portStatus_line_length s, rfl, identityRecord_length s, custodyStatus_length s, fun c short => ?_⟩,
    fun s l time n other => directoryRecord_hidden s (.line l) n time (visible_other s l n other)⟩
  · rintro s p n d b c rfl rfl hc domain
    have code : c = s.directory.banks[bankOf n].condition.code := by rw [hc]; rfl
    rw [code]
    have visible := visible_of_domain s p n domain
    refine ⟨fun empty time => directoryRecord_empty s p n time visible empty,
      fun taken => directoryRecord_time s p n visible taken, fun taken => ⟨_, _, _, directoryRecord_entry s p n visible taken, ?_⟩⟩
    obtain ⟨retire, hold, metered, dated, notYet, expired, small⟩ := slotFlags_bits s n
    refine ⟨retire, hold, metered, dated, notYet, expired, small, keyByte_toNat _, fun kc kRow nc nRow length count parity =>
      shapeByte_of_fields _ _ kc kRow nc nRow length count parity, fun cleared => ?_⟩
    rw [cleared]
    exact ⟨keyByte_cleared, shapeByte_cleared _⟩
  · simp only [State.portStatus, bitsByte_two, toList_four, List.flatMap_map]
    congr 1
    refine List.flatMap_congr fun p _ => ?_
    rw [position_bytes]
    rfl
  · simp only [State.portStatus, bitsByte_two]
  · cases p <;> cases mode : s.custody.record <;> simp [State.identityRecord, mode, RecordState.byte]
  · exact custodyStatus_running s field false (by simp [halted, uncommissioned])
  · exact custodyStatus_running s field true (by simpa using dark)
  · refine ⟨rfl, rfl, rfl, rfl, rfl, rfl, rfl, fun l n b r custody => ⟨rfl, rfl, rfl, rfl, rfl, rfl⟩, fun t => rfl, fun b => ?_⟩
    rw [bankByte_toNat]
    rfl
  · have length : c.bytes.length = 4 + c.data.length := by simp [Completion.bytes]; omega
    exact ⟨length, by rw [length]; rfl⟩

end Sys2Proof.Machine
end

section
/-! PROOF. What every request meets first: the take, its gate, its form and its switches (O14, O15, O16). -/

namespace Sys2Proof.Machine

/-! ## When a port takes a message (R35, R57) -/

theorem takeable_line_iff (s : State) (l : Line) (m : Message) : s.takeable (.line l) = some m ↔
    (s.custody.present = .service ∨ s.custody.present = .zeroizing ∨ s.custody.present = .recovery) ∧
    s.lineProgress[l] = none ∧ s.lineLinks[l].completions.length < 4 ∧ s.lineLinks[l].requests.head? = some m := by
  rw [← lineServed_iff]
  unfold State.takeable
  rw [Option.ite_none_right_eq_some, and_assoc, and_assoc]
  rfl

theorem takeable_cust_iff (s : State) (m : Message) : s.takeable .cust = some m ↔
    (s.custody.present = .service ∨ s.custody.present = .zeroizing ∨ s.custody.present = .recovery ∨
      s.custody.present = .uncommissioned) ∧
    s.custProgress = none ∧ s.custLink.completions.length < 2 ∧ s.custLink.requests.head? = some m := by
  rw [← custServed_iff]
  unfold State.takeable
  rw [Option.ite_none_right_eq_some, and_assoc, and_assoc]
  rfl

/-! ## A code that names no request (R188) -/

theorem exec_unknownRequestCode (s : State) (p : Port) (m : Message) (h : s.takeable p = some m)
    (unknown : m.code ∉ portCodes p) : exec (.unknownRequestCode p) s = .next ((s.popRequest p).pushCompletion p
      { tag := m.tag, code := m.code, outcome := .badRequest, data := [] }) := by
  simp only [exec, execUnknownRequestCode, h, if_neg unknown]

/-- The custodian codes lie in two ranges (R188). -/
theorem portCodes_cust_range {b : Byte} (h : b ∈ portCodes .cust) :
    (0x20 ≤ b.toNat ∧ b.toNat ≤ 0x23) ∨ (0x30 ≤ b.toNat ∧ b.toNat ≤ 0x3E) := by
  revert b
  decide

/-- Settles O14: the message is popped and answered, with no gate before it. -/
theorem unknownRequestCodeAnswersBadRequest : Obligations.UnknownRequestCodeAnswersBadRequest := by
  intro s m
  refine ⟨fun l taken unknown => ?_, fun taken range => ?_⟩
  · rw [exec_unknownRequestCode s (.line l) m taken unknown]
    simp [State.popRequest, State.pushCompletion, State.withLink, State.lineAnswered]
  · have unknown : m.code ∉ portCodes .cust := fun known => by
      have known' := portCodes_cust_range known
      omega
    rw [exec_unknownRequestCode s .cust m taken unknown]
    rfl

/-! ## Line requests (R58) -/

/-- A line request outside SERVICE, and a malformed one in it. -/
theorem takeLine_refuses {α : Type} (s : State) (l : Line) (code : Byte) (parse : Message → Option α)
    (act : Byte → α → State → State) (m : Message) (taken : s.takeable (.line l) = some m) (hc : m.code = code) :
    (s.custody.present ≠ .service →
      s.takeLine l code parse act = s.lineAnswered l m.tag code .zeroized []) ∧
    (s.custody.present = .service → (parse m).isSome = false →
      s.takeLine l code parse act = s.lineAnswered l m.tag code .badRequest []) := by
  refine ⟨fun other => ?_, fun service malformed => ?_⟩
  · rw [takeLine_zeroized s l code parse act m taken hc other]
    exact finishLine_popRequest s l m taken _ _ _ _
  · rw [takeLine_malformed s l code parse act m taken hc service (by simpa using malformed)]
    exact finishLine_popRequest s l m taken _ _ _ _

/-- Settles O15: the take, the forms of R58, and the two answers that come before a request's own checks. -/
theorem lineRequestsMeetTheGateAndTheForm : Obligations.LineRequestsMeetTheGateAndTheForm := by
  refine ⟨takeable_line_iff, rfl, fun m => ⟨by cases m with | mk bytes _ => cases bytes <;> rfl, rfl, parseBind_iff m,
    parseExtend_iff m, parseRelease_iff m, parseReleaseAll_iff m, parseNone_iff m⟩, fun s l m taken row mem hc => ?_⟩
  have answered {α : Type} (parse : Message → Option α) (act : Byte → α → State → State)
      (code : m.code = row.1) (runs : exec row.2.1 s = .next (s.takeLine l row.1 parse act))
      (form : row.2.2 = (parse m).isSome) :
      (s.custody.present ≠ .service → exec row.2.1 s = .next (s.lineAnswered l m.tag row.1 .zeroized [])) ∧
      (s.custody.present = .service → row.2.2 = false →
        exec row.2.1 s = .next (s.lineAnswered l m.tag row.1 .badRequest [])) := by
    obtain ⟨zeroized, malformed⟩ := takeLine_refuses s l row.1 parse act m taken code
    rw [runs]
    exact ⟨fun other => by rw [zeroized other], fun service bad => by rw [malformed service (form ▸ bad)]⟩
  simp only [List.mem_cons, List.not_mem_nil, or_false] at mem
  obtain rfl | rfl | rfl | rfl | rfl := mem
  · exact answered parseBind (takeBind l) hc rfl rfl
  · exact answered parseExtend (takeExtend l) hc rfl rfl
  · exact answered parseRelease (takeRelease l) hc rfl rfl
  · exact answered parseReleaseAll (takeReleaseAll l) hc rfl rfl
  · exact answered parseNone (takeClearBlocked l) hc rfl rfl

/-! ## Custodian requests (R36) -/

/-- A row's command is the take with its code, gate, switch requirement and form. -/
def CustRequest.Takes (r : CustRequest) : Prop :=
  ∃ (α : Type) (parse : State → Message → Option α) (act : Byte → α → State → State),
    (∀ s, exec r.command s = .next (s.takeCust r.code r.gate r.need (parse s) act)) ∧
    ∀ s m, r.form s m = (parse s m).isSome

theorem custRequests_take : ∀ r ∈ custRequests, r.Takes := by
  simp only [custRequests, List.cons_append, List.nil_append, List.forall_mem_cons]
  refine ⟨⟨_, fun _ => parseOpen, takeOpen, ?_⟩, ⟨_, fun _ => parseComponent, takeComponent, ?_⟩,
    ⟨_, fun _ => parseCommit, takeCommit, ?_⟩, ⟨_, fun _ => parseNone, takeAbandon, ?_⟩,
    ⟨_, fun _ => parseAllocate, takeAllocate, ?_⟩, ⟨_, fun _ => parseHandle, takeHold codeHold true, ?_⟩,
    ⟨_, fun _ => parseHandle, takeHold codeUnhold false, ?_⟩, ⟨_, fun _ => parseRetire, takeRetire, ?_⟩,
    ⟨_, fun _ => parseReclaim, takeReclaim, ?_⟩, ⟨_, fun _ => parseNone, takeOpenWindow, ?_⟩,
    ⟨_, fun _ => parseNone, takeCloseWindow, ?_⟩, ⟨_, fun _ => parseFlags, takeSetMask, ?_⟩,
    ⟨_, fun _ => parseFlags, takeClearAlarms, ?_⟩, ⟨_, fun _ => parseNone, takeClearFault, ?_⟩,
    ⟨_, fun _ => parseNone, takeClearReset, ?_⟩, ⟨_, fun _ => parseNone, takeZeroize, ?_⟩,
    ⟨_, fun _ => parseNone, takeRearm, ?_⟩, ⟨_, fun _ => parseSetTime, takeSetTime, ?_⟩,
    ⟨_, fun s => parseCommission s.fuses, takeCommission, ?_⟩, nofun⟩ <;>
  exact ⟨fun _ => rfl, fun _ _ => rfl⟩

/-- A custodian request that its gate, its form or its switch requirement stops. -/
theorem takeCust_refuses {α : Type} (s : State) (code : Byte) (gate : Mode → Option OutcomeCode) (need : SwitchNeed)
    (parse : Message → Option α) (act : Byte → α → State → State) (m : Message) (taken : s.takeable .cust = some m)
    (hc : m.code = code) :
    (∀ oc, gate s.custody.present = some oc →
      s.takeCust code gate need parse act = s.custAnswered m.tag code oc []) ∧
    (gate s.custody.present = none → (parse m).isSome = false →
      s.takeCust code gate need parse act = s.custAnswered m.tag code .badRequest []) ∧
    (gate s.custody.present = none → (parse m).isSome = true → s.switchesMeet need = false →
      s.takeCust code gate need parse act = s.custAnswered m.tag code .switches []) := by
  refine ⟨fun oc gated => ?_, fun passed malformed => ?_, fun passed formed switches => ?_⟩
  · rw [takeCust_gated s code gate need parse act m oc taken hc gated]
    exact finishCust_custTaking s m taken _ _ _ _ _
  · rw [takeCust_malformed s code gate need parse act m taken hc passed (by simpa using malformed)]
    exact finishCust_custTaking s m taken _ _ _ _ _
  · obtain ⟨q, parsed⟩ := Option.isSome_iff_exists.mp formed
    rw [takeCust_switches s code gate need parse act m q taken hc passed parsed switches]
    exact finishCust_custTaking s m taken _ _ _ _ _

/-- Each gate passes, or answers ZEROIZED in ZEROIZING and MODE elsewhere. -/
theorem custRequests_gates : ∀ r ∈ custRequests, ∀ mode : Mode,
    r.gate mode = none ∨ r.gate mode = some (if mode = .zeroizing then .zeroized else .mode) := by
  have gates : ∀ r ∈ custRequests, r.gate = gateService ∨ r.gate = gateRecovery ∨ r.gate = gateClears ∨
      r.gate = gateRearm ∨ r.gate = gateCommission := by
    simp [custRequests]
  intro r row mode
  obtain e | e | e | e | e := gates r row <;> rw [e] <;> cases mode <;> simp [gateService, gateRecovery, gateClears, gateRearm,
    gateCommission]

/-- Settles O16: the take, the table of requests, the forms, and the three answers that come before a request's own
checks. -/
theorem custodianRequestsMeetGateFormAndSwitches : Obligations.CustodianRequestsMeetGateFormAndSwitches := by
  refine ⟨takeable_cust_iff, rfl, custRequests_gates, fun s => ⟨by simp [State.switchesMeet], by simp [State.switchesMeet], rfl⟩,
    fun m => ⟨by cases m with | mk bytes _ => cases bytes <;> rfl, rfl, parseOpen_iff m, parseComponent_iff m, parseCommit_iff m,
      parseAllocate_iff m, parseHandle_iff m, parseRetire_iff m, parseReclaim_iff m, parseFlags_iff m, parseSetTime_iff m,
      parseNone_iff m⟩, parseCommission_iff, fun r row s m taken hc => ?_⟩
  obtain ⟨α, parse, act, runs, form⟩ := custRequests_take r row
  obtain ⟨gated, malformed, switches⟩ := takeCust_refuses s r.code r.gate r.need (parse s) act m taken hc
  rw [runs, form]
  exact ⟨fun oc stops => by rw [gated oc stops], fun passed bad => by rw [malformed passed bad],
    fun passed formed dropped => by rw [switches passed formed dropped]⟩

end Sys2Proof.Machine
end

section
/-! PROOF. OPEN and COMPONENT (O17, O18). -/

namespace Sys2Proof.Machine

/-! ## A custodian request that changes the ceremony and completes -/

section
variable {s : State} {m : Message} (taken : s.takeable .cust = some m) (g t k : Byte) (oc : OutcomeCode) (d : List Byte)
include taken

theorem answered_withCeremony (f : Ceremony → Ceremony) : ((s.custTaking g).withCeremony f).finishCust t k oc d =
    { s.custAnswered t k oc d with ceremony := f s.ceremony } :=
  congrArg (fun u : State => { u with ceremony := f s.ceremony }) (finishCust_custTaking s m taken g t k oc d)

/-- A request that restarts the inactivity timer of a COLLECTING ceremony (R51). -/
theorem answered_restarted {o : OpenRecord} (current : s.ceremony.current = some o) (collecting : o.programming = false) :
    (s.custTaking g).restartInactivity.finishCust t k oc d = { s.custAnswered t k oc d with
      ceremony := { s.ceremony with current := some { o with timer := s.ceremonyTimeout * cyclesPerSecond } } } := by
  rw [State.restartInactivity, answered_withCeremony taken]
  simp only [current, Option.map_some, collecting, Bool.false_eq_true, if_false]
  rfl

/-- A PROGRAMMING ceremony's timer is stopped (R51). -/
theorem answered_not_restarted {o : OpenRecord} (current : s.ceremony.current = some o) (programming : o.programming = true) :
    (s.custTaking g).restartInactivity.finishCust t k oc d = s.custAnswered t k oc d := by
  rw [State.restartInactivity, answered_withCeremony taken]
  simp only [current, Option.map_some, programming, if_true]
  rw [← current]
  rfl

/-- A request that ends the ceremony (R48). -/
theorem answered_ended {o : OpenRecord} (current : s.ceremony.current = some o) :
    (s.custTaking g).endCeremony.finishCust t k oc d = { s.custAnswered t k oc d with
      ceremony := { s.ceremony with current := none, buffer := Vector.replicate 32 0 }
      directory := s.unreserved o.slot } := by
  unfold State.endCeremony
  rw [custTaking_ceremony, current]
  exact congrArg (fun u : State => { u with
    ceremony := { s.ceremony with current := none, buffer := Vector.replicate 32 0 }, directory := s.unreserved o.slot })
    (finishCust_custTaking s m taken g t k oc d)

end

/-! ## OPEN (R38, R39) -/

/-- The request runs in the state in which it is judged. -/
theorem exec_openCeremony {s : State} {m : Message} {q : OpenRequest}
    (passes : s.custPasses codeOpen gateService .both parseOpen m q) :
    exec .openCeremony s = .next (takeOpen m.tag q (s.custTaking m.tag)) :=
  congrArg Host.Outcome.next (takeCust_passes _ _ _ _ _ _ m q passes)

theorem available_iff (b : BankDir) : b.available = true ↔ b.condition = .ready ∧ b.degraded = false ∧ b.lost = false := by
  simp [BankDir.available, and_assoc]

theorem open_refused {s : State} {m : Message} {q : OpenRequest} (passes : s.custPasses codeOpen gateService .both parseOpen m q)
    (idle : s.ceremony.current = none) :
    (s.resolve q.handle = none → exec .openCeremony s = .next (s.custAnswered m.tag codeOpen .staleHandle [])) ∧
    ∀ n, s.resolve q.handle = some n →
      (s.directory.slots[n].state ≠ .empty →
        exec .openCeremony s = .next (s.custAnswered m.tag codeOpen .slotOccupied [])) ∧
      (s.directory.slots[n].state = .empty → s.directory.banks[bankOf n].available = false →
        exec .openCeremony s = .next (s.custAnswered m.tag codeOpen .bankUnavailable [])) := by
  rw [exec_openCeremony passes]
  simp only [takeOpen, custTaking_ceremony, idle, Option.isSome_none, Bool.false_eq_true, if_false, custTaking_resolve]
  refine ⟨fun stale => ?_, fun n resolved => ⟨fun occupied => ?_, fun empty unavailable => ?_⟩⟩
  · simp only [stale, finishCust_custTaking s m passes.1]
  · simp only [resolved, custTaking_directory, if_pos occupied, finishCust_custTaking s m passes.1]
  · simp only [resolved, custTaking_directory, empty, ne_eq, not_true_eq_false, if_false, unavailable, if_true,
      finishCust_custTaking s m passes.1]

theorem open_begins {s : State} {m : Message} {q : OpenRequest} {n : SlotNo}
    (passes : s.custPasses codeOpen gateService .both parseOpen m q) (idle : s.ceremony.current = none)
    (resolved : s.resolve q.handle = some n) (empty : s.directory.slots[n].state = .empty)
    (available : s.directory.banks[bankOf n].available = true) :
    exec .openCeremony s = .next ((((s.custTaking m.tag).openOn m.tag q n)).finishCust m.tag codeOpen .ok q.handle.bytes) := by
  rw [exec_openCeremony passes]
  simp only [takeOpen, custTaking_ceremony, idle, Option.isSome_none, Bool.false_eq_true, if_false, custTaking_resolve,
    resolved, custTaking_directory, empty, ne_eq, not_true_eq_false, available, Bool.true_eq_false]

/-- Settles O17: with a ceremony open the timer is restarted; otherwise the checks of R38 in their order. -/
theorem openBeginsACeremony : Obligations.OpenBeginsACeremony := by
  refine ⟨fun s m q passes => ⟨fun o current => ⟨fun collecting => ?_, fun programming => ?_⟩, fun idle => ?_⟩, ?_⟩
  · rw [exec_openCeremony passes, takeOpen, if_pos (by simp [current]),
      answered_restarted passes.1 _ _ _ _ _ current collecting]
  · rw [exec_openCeremony passes, takeOpen, if_pos (by simp [current]),
      answered_not_restarted passes.1 _ _ _ _ _ current programming]
  · obtain ⟨stale, resolved⟩ := open_refused passes idle
    refine ⟨stale, fun n found => ⟨(resolved n found).1, fun empty unavailable => (resolved n found).2 empty ?_⟩⟩
    rw [← Bool.not_eq_true, available_iff]
    rintro ⟨ready, undegraded, kept⟩
    obtain h | h | h := unavailable
    · exact h ready
    · exact absurd (h.symm.trans undegraded) (by decide)
    · exact absurd (h.symm.trans kept) (by decide)
  · intro s m q n passes idle resolved empty ready degraded lost
    rw [open_begins passes idle resolved empty ((available_iff _).mpr ⟨ready, degraded, lost⟩)]
    exact congrArg (fun u : State => Host.Outcome.next (u.openOn m.tag q n))
      (finishCust_custTaking s m passes.1 m.tag m.tag codeOpen .ok q.handle.bytes)

/-! ## COMPONENT (R24, R25, R40, R41) -/

theorem exec_component {s : State} {m : Message} {q : ComponentRequest}
    (passes : s.custPasses codeComponent gateService .both parseComponent m q) :
    exec .component s = .next (takeComponent m.tag q (s.custTaking m.tag)) :=
  congrArg Host.Outcome.next (takeCust_passes _ _ _ _ _ _ m q passes)

/-- With no COLLECTING ceremony. -/
theorem component_noCeremony {s : State} {m : Message} {q : ComponentRequest}
    (passes : s.custPasses codeComponent gateService .both parseComponent m q)
    (none : ∀ o, s.ceremony.current = some o → o.programming = true) :
    exec .component s = .next (s.custAnswered m.tag codeComponent .ceremonyState []) := by
  rw [exec_component passes]
  unfold takeComponent
  rw [custTaking_ceremony]
  cases current : s.ceremony.current with
  | none => simp only [finishCust_custTaking s m passes.1]
  | some o => simp only [none o current, if_true, finishCust_custTaking s m passes.1]

/-- The checks of R40 on a COLLECTING ceremony, as one equation. -/
theorem component_collecting {s : State} {m : Message} {q : ComponentRequest} {o : OpenRecord}
    (passes : s.custPasses codeComponent gateService .both parseComponent m q) (current : s.ceremony.current = some o)
    (collecting : o.programming = false) : exec .component s = .next (
      if q.bytes.length ≠ o.len then (s.custTaking m.tag).restartInactivity.finishCust m.tag codeComponent .badRequest []
      else if o.next ≠ .at q.index then
        (s.custTaking m.tag).restartInactivity.finishCust m.tag codeComponent .componentOrder []
      else if checkWord q.bytes = q.word then
        ((s.custTaking m.tag).restartInactivity.acceptComponent o q).finishCust m.tag codeComponent .ok
          [BitVec.ofNat 8 q.index, BitVec.ofNat 8 (o.count - q.index)]
      else if o.mismatches + 1 < 3 then
        ((s.custTaking m.tag).restartInactivity.withOpen fun o' => { o' with mismatches := o.mismatches + 1 }).finishCust m.tag
          codeComponent .componentCheck [BitVec.ofNat 8 (o.mismatches + 1)]
      else (s.custTaking m.tag).restartInactivity.endCeremony.finishCust m.tag codeComponent .abandoned
        [Cause.mismatches.byte]) := by
  rw [exec_component passes]
  simp only [takeComponent, custTaking_ceremony, current, collecting, Bool.false_eq_true, if_false]

@[simp] theorem custTaking_ceremonyTimeout (s : State) (t : Byte) : (s.custTaking t).ceremonyTimeout = s.ceremonyTimeout := rfl

theorem withCeremony_withCeremony (s : State) (f g : Ceremony → Ceremony) :
    (s.withCeremony f).withCeremony g = s.withCeremony fun c => g (f c) := rfl

/-- A restarted ceremony that is then changed is changed once. -/
theorem restarted_withCeremony (s : State) (f : Ceremony → Ceremony) : s.restartInactivity.withCeremony f =
    s.withCeremony fun c => f { c with current := c.current.map fun o =>
      if o.programming then o else { o with timer := s.ceremonyTimeout * cyclesPerSecond } } := rfl

/-- A mismatched component is counted, and the third abandons the ceremony. -/
theorem component_mismatched {s : State} {m : Message} {q : ComponentRequest} {o : OpenRecord}
    (passes : s.custPasses codeComponent gateService .both parseComponent m q) (current : s.ceremony.current = some o)
    (collecting : o.programming = false) (length : q.bytes.length = o.len) (order : o.next = .at q.index)
    (word : checkWord q.bytes ≠ q.word) :
    (o.mismatches < 2 → exec .component s = .next
      { s.custAnswered m.tag codeComponent .componentCheck [BitVec.ofNat 8 (o.mismatches + 1)] with
        ceremony := { s.ceremony with current := some { o with
          mismatches := o.mismatches + 1, timer := s.ceremonyTimeout * cyclesPerSecond } } }) ∧
    (2 ≤ o.mismatches → exec .component s = .next
      { s.custAnswered m.tag codeComponent .abandoned [2] with
        ceremony := { s.ceremony with current := none, buffer := Vector.replicate 32 0 }
        directory := s.unreserved o.slot }) := by
  rw [component_collecting passes current collecting, if_neg (by simp [length]), if_neg (by simp [order]), if_neg word]
  refine ⟨fun counted => ?_, fun third => ?_⟩
  · rw [if_pos (by omega), State.withOpen, restarted_withCeremony, answered_withCeremony passes.1]
    simp [current, collecting]
  · rw [if_neg (by omega)]
    have restarted : (s.custTaking m.tag).restartInactivity.ceremony.current =
        some { o with timer := s.ceremonyTimeout * cyclesPerSecond } := by
      simp only [State.restartInactivity, withCeremony_ceremony, custTaking_ceremony, current, Option.map_some, collecting,
        Bool.false_eq_true, if_false]
      rfl
    unfold State.endCeremony
    rw [restarted]
    exact congrArg (fun u : State => Host.Outcome.next { u with
      ceremony := { s.ceremony with current := none, buffer := Vector.replicate 32 0 }, directory := s.unreserved o.slot })
      (finishCust_custTaking s m passes.1 m.tag _ _ _ _)

/-- Settles O18: the checks of R40 in their order, the combination of R25, and the count of the mismatches. -/
theorem componentIsCombinedOrCounted : Obligations.ComponentIsCombinedOrCounted := by
  refine ⟨fun s m q passes => ⟨component_noCeremony passes, fun o current collecting => ⟨fun length => ?_,
    fun length order => ?_⟩⟩, fun s m q o passes current collecting length order word => ?_,
    fun s m q o passes current collecting length order word => component_mismatched passes current collecting length order word⟩
  · rw [component_collecting passes current collecting, if_pos length,
      answered_restarted passes.1 _ _ _ _ _ current collecting]
  · rw [component_collecting passes current collecting, if_neg (by simp [length]), if_pos order,
      answered_restarted passes.1 _ _ _ _ _ current collecting]
  · refine ⟨combine o.len q.bytes s.ceremony.buffer, fun i => by simp [combine, mapFirst], ?_⟩
    rw [component_collecting passes current collecting, if_neg (by simp [length]), if_neg (by simp [order]), if_pos word,
      State.acceptComponent, State.withOpen, restarted_withCeremony, withCeremony_withCeremony,
      answered_withCeremony passes.1]
    simp [current, collecting]

end Sys2Proof.Machine
end

section
/-! PROOF. COMMIT (O19). -/

namespace Sys2Proof.Machine

/-! ## Dates, weak keys and parity (R26, R27, R42, R145) -/

theorem commitDates_unset (q : CommitRequest) (dated : q.activation ≠ none ∨ q.expiry ≠ none) :
    commitDates false q = some .clockUnset := by
  have dates : q.activation.toList ++ q.expiry.toList ≠ [] := by
    intro empty
    rw [List.append_eq_nil_iff, Option.toList_eq_nil_iff, Option.toList_eq_nil_iff] at empty
    exact dated.elim (· empty.1) (· empty.2)
  exact if_pos ⟨dates, rfl⟩

/-- Steps 3 and 4 of R42 where the calendar lets dates be judged. -/
theorem commitDates_judged (set : Bool) (q : CommitRequest)
    (judged : set = true ∨ (q.activation = none ∧ q.expiry = none)) :
    (commitDates set q = some .badTime ∨ commitDates set q = none) ∧
    (commitDates set q = none ↔
      (∀ d, q.activation = some d ∨ q.expiry = some d → validDate d = true) ∧
      (∀ a x, q.activation = some a → q.expiry = some x → dateBefore x a = false)) := by
  obtain ⟨kcw, activation, expiry, allowance⟩ := q
  have passes : ¬ (activation.toList ++ expiry.toList ≠ [] ∧ set = false) := by
    rintro ⟨dates, unset⟩
    obtain h | ⟨noActivation, noExpiry⟩ := judged
    · rw [unset] at h; cases h
    · simp at noActivation noExpiry; simp [noActivation, noExpiry] at dates
  simp only [commitDates, if_neg passes]
  cases activation with
  | none =>
    cases expiry with
    | none => simp
    | some x => cases valid : validDate x <;> simp [valid]
  | some a =>
    cases expiry with
    | none => cases valid : validDate a <;> simp [valid]
    | some x =>
      cases validA : validDate a <;> cases validX : validDate x <;> cases order : dateBefore x a <;>
        simp [validA, validX, order, or_imp, forall_and]

theorem weak_iff (key : List Byte) : weak key = true ↔ ∀ a ∈ key, ∀ b ∈ key, a = b := by
  cases key with
  | nil => simp [weak]
  | cons k key =>
    simp only [weak, List.headD_cons, List.all_eq_true, beq_iff_eq]
    exact ⟨fun h a ha b hb => (h a ha).trans (h b hb).symm, fun h a ha => h a ha k List.mem_cons_self⟩

/-- After the parity adjustment a byte has an odd number of ones. -/
theorem ones_oddParity : ∀ b : Byte, ones (oddParity b) % 2 = 1 := by decide

theorem oddParity_oddParity (b : Byte) : oddParity (oddParity b) = oddParity b := by
  rw [oddParity.eq_1 (oddParity b), ones_oddParity b, if_neg (by decide)]

theorem adjust_adjust (k : Nat) (odd : Bool) (v : Vector Byte 32) : adjust k odd (adjust k odd v) = adjust k odd v := by
  cases odd with
  | false => rfl
  | true =>
    simp only [adjust, if_true]
    apply Vector.ext
    intro i hi
    simp only [mapFirst, Vector.getElem_ofFn, Fin.getElem_fin]
    split
    · exact oddParity_oddParity _
    · rfl

/-! ## COMMIT (R42, R43) -/

/-- The key is masked on its K bytes, and the rest of the value area stays 00 (R7, R29). -/
theorem commitRecord_value (o : OpenRecord) (q : CommitRequest) (time : Option Stamp) (key cover : Vector Byte 32)
    (i : Fin 32) : (commitRecord o q time key cover).value[i] = if i.val < o.len then key[i] ^^^ cover[i] else 0 := by
  simp [commitRecord, maskValue]

theorem exec_commit {s : State} {m : Message} {q : CommitRequest}
    (passes : s.custPasses codeCommit gateService .both parseCommit m q) :
    exec .commit s = .next (takeCommit m.tag q (s.custTaking m.tag)) :=
  congrArg Host.Outcome.next (takeCust_passes _ _ _ _ _ _ m q passes)

/-- With no COLLECTING ceremony. -/
theorem commit_noCeremony {s : State} {m : Message} {q : CommitRequest}
    (passes : s.custPasses codeCommit gateService .both parseCommit m q)
    (none : ∀ o, s.ceremony.current = some o → o.programming = true) :
    exec .commit s = .next (s.custAnswered m.tag codeCommit .ceremonyState []) := by
  rw [exec_commit passes]
  unfold takeCommit
  rw [custTaking_ceremony]
  cases current : s.ceremony.current with
  | none => simp only [finishCust_custTaking s m passes.1]
  | some o => simp only [none o current, if_true, finishCust_custTaking s m passes.1]

section
variable {s : State} {m : Message} {q : CommitRequest} {o : OpenRecord}
  (passes : s.custPasses codeCommit gateService .both parseCommit m q) (current : s.ceremony.current = some o)
  (collecting : o.programming = false)
include passes current collecting

/-- The checks of R42 on a COLLECTING ceremony, as one equation. -/
theorem commit_collecting : exec .commit s = .next (
    if o.next ≠ .complete then (s.custTaking m.tag).restartInactivity.finishCust m.tag codeCommit .componentOrder []
    else (commitDates s.retention.calendar.set q).elim
      (if s.control.fault then (s.custTaking m.tag).restartInactivity.finishCust m.tag codeCommit .nvFault []
        else (s.custTaking m.tag).commitKey m.tag o q)
      fun oc => (s.custTaking m.tag).restartInactivity.finishCust m.tag codeCommit oc []) := by
  rw [exec_commit passes]
  simp only [takeCommit, custTaking_ceremony, current, collecting, Bool.false_eq_true, if_false, custTaking_retention,
    custTaking_control]
  cases commitDates s.retention.calendar.set q <;> rfl

/-- A COMMIT that a check of R42 refuses restarts the timer. -/
theorem commit_refused (oc : OutcomeCode) :
    (s.custTaking m.tag).restartInactivity.finishCust m.tag codeCommit oc [] = { s.custAnswered m.tag codeCommit oc [] with
      ceremony := { s.ceremony with current := some { o with timer := s.ceremonyTimeout * cyclesPerSecond } } } :=
  answered_restarted passes.1 _ _ _ _ _ current collecting

variable (complete : o.next = .complete) (dates : commitDates s.retention.calendar.set q = none)
  (unfaulted : s.control.fault = false)
include complete dates unfaulted

/-- A COMMIT that passes R42. -/
theorem commit_key : exec .commit s = .next ((s.custTaking m.tag).commitKey m.tag o q) := by
  rw [commit_collecting passes current collecting, if_neg (by simp [complete]), dates, Option.elim_none, if_neg (by simp [unfaulted])]

theorem commit_submitted (strong : weak ((adjust o.len o.odd s.ceremony.buffer).toList.take o.len) = false)
    (kcw : checkWord ((adjust o.len o.odd s.ceremony.buffer).toList.take o.len) = q.kcw) :
    exec .commit s = .next { s.custTaken with
      custProgress := some (.commit m.tag)
      ceremony := { s.ceremony with
        current := some { o with programming := true, timer := 0 }
        buffer := adjust o.len o.odd s.ceremony.buffer }
      control := { s.control with ceremonyWait := some { slot := o.slot, record := (commitRecord o q s.stamp
        (adjust o.len o.odd s.ceremony.buffer) s.retention.covers[bankOf o.slot].value) } } } := by
  rw [commit_key passes current collecting complete dates unfaulted]
  simp only [State.commitKey, custTaking_ceremony, strong, Bool.false_eq_true, if_false, kcw, ne_eq, not_true_eq_false]
  rw [State.withOpen, withCeremony_withCeremony]
  simp only [State.withCeremony, custTaking_ceremony, current, Option.map_some]
  rfl

theorem commit_weak (weakKey : weak ((adjust o.len o.odd s.ceremony.buffer).toList.take o.len) = true) :
    exec .commit s = .next { s.custAnswered m.tag codeCommit .weakKey [] with
      ceremony := { s.ceremony with
        current := some { o with timer := s.ceremonyTimeout * cyclesPerSecond }
        buffer := adjust o.len o.odd s.ceremony.buffer } } := by
  rw [commit_key passes current collecting complete dates unfaulted]
  simp only [State.commitKey, custTaking_ceremony, weakKey, if_true]
  rw [State.restartInactivity, withCeremony_withCeremony, answered_withCeremony passes.1]
  simp only [current, Option.map_some, collecting, Bool.false_eq_true, if_false]
  rfl

theorem commit_wrong (strong : weak ((adjust o.len o.odd s.ceremony.buffer).toList.take o.len) = false)
    (kcw : checkWord ((adjust o.len o.odd s.ceremony.buffer).toList.take o.len) ≠ q.kcw) :
    exec .commit s = .next { s.custAnswered m.tag codeCommit .keyCheck [] with
      ceremony := { s.ceremony with current := none, buffer := Vector.replicate 32 0 }
      directory := s.unreserved o.slot } := by
  rw [commit_key passes current collecting complete dates unfaulted]
  simp only [State.commitKey, custTaking_ceremony, strong, Bool.false_eq_true, if_false, kcw, ne_eq, not_false_eq_true, if_true]
  unfold State.endCeremony
  rw [withCeremony_ceremony, custTaking_ceremony]
  simp only [current]
  exact congrArg (fun u : State => Host.Outcome.next { u with
    ceremony := { s.ceremony with current := none, buffer := Vector.replicate 32 0 }, directory := s.unreserved o.slot })
    (finishCust_custTaking s m passes.1 m.tag _ _ _ _)

end

/-- Settles O19: the checks of R42 in their order, the key's parity and weakness, and the record of R43. -/
theorem commitJudgesAndMasksTheKey : Obligations.CommitJudgesAndMasksTheKey := by
  refine ⟨fun set q => ⟨fun unset dated => ?_, commitDates_judged set q⟩, fun s m q passes => ⟨commit_noCeremony passes,
    fun o current collecting => ⟨fun order => ?_, fun complete oc dates => ?_, fun complete dates fault => ?_⟩⟩, weak_iff,
    adjust_adjust, fun s m q o passes current collecting complete dates unfaulted strong kcw =>
      ⟨commitRecord o q s.stamp (adjust o.len o.odd s.ceremony.buffer) s.retention.covers[bankOf o.slot].value, rfl, rfl,
        rfl, fun i => commitRecord_value o q _ _ _ i, rfl,
        commit_submitted passes current collecting complete dates unfaulted strong kcw⟩,
    fun s m q o passes current collecting complete dates unfaulted =>
      ⟨commit_weak passes current collecting complete dates unfaulted,
        commit_wrong passes current collecting complete dates unfaulted⟩⟩
  · rw [unset]; exact commitDates_unset q dated
  · rw [commit_collecting passes current collecting, if_pos order, commit_refused passes current collecting]
  · rw [commit_collecting passes current collecting, if_neg (by simp [complete]), dates, Option.elim_some,
      commit_refused passes current collecting]
  · rw [commit_collecting passes current collecting, if_neg (by simp [complete]), dates, Option.elim_none, if_pos fault,
      commit_refused passes current collecting]

end Sys2Proof.Machine
end

section
/-! PROOF. ABANDON, the switches and the inactivity timer (O20). -/

namespace Sys2Proof.Machine

/-! ## Samples (R33) -/

theorem allAt_iff (samples : Samples) (high : Bool) : allAt samples high = true ↔ ∀ i : Fin 4, samples[i] = high := by
  simp [allAt, Vector.all_eq_true, Fin.forall_iff]

theorem not_allAt {samples : Samples} {high : Bool} (h : ∃ i : Fin 4, samples[i] = !high) : allAt samples high = false := by
  rw [← Bool.not_eq_true, allAt_iff]
  obtain ⟨i, other⟩ := h
  intro all
  rw [all i] at other
  cases high <;> cases other

theorem activeHigh_eq (s : State) :
    s.activeHigh .csa = (if s.custody.record = .verified then s.fuses[2].getLsbD 0 else true) ∧
    s.activeHigh .csb = (if s.custody.record = .verified then s.fuses[2].getLsbD 1 else true) := by
  simp only [State.activeHigh, State.param]
  split
  · simp
  · exact ⟨rfl, rfl⟩

/-! ## The end of a COLLECTING ceremony without a request (R48, R49) -/

section
variable (s : State) (cause : Cause) {o : OpenRecord} (current : s.ceremony.current = some o)
include current

theorem endCeremony_open : s.endCeremony = { s with
    ceremony := { s.ceremony with current := none, buffer := Vector.replicate 32 0 }, directory := s.unreserved o.slot } := by
  unfold State.endCeremony
  rw [current]
  rfl

theorem abandonFor_programming (programming : o.programming = true) : s.abandonFor cause = s := by
  unfold State.abandonFor
  simp only [current, programming, if_true]

variable (collecting : o.programming = false)
include collecting

/-- The abandonment is reported in a free entry. -/
theorem abandonFor_reported (free : s.custEntryFree = true) : s.abandonFor cause = { s with
    ceremony := { s.ceremony with current := none, buffer := Vector.replicate 32 0 }
    directory := s.unreserved o.slot
    custLink := { s.custLink with completions := s.custLink.completions ++
      [{ tag := o.tag, code := 0x00, outcome := .abandoned, data := cause.byte :: o.handle.bytes }] } } := by
  unfold State.abandonFor
  simp only [current, collecting, Bool.false_eq_true, if_false]
  rw [endCeremony_open s current]
  exact if_pos free

/-- Without a free entry the cause is kept. -/
theorem abandonFor_kept (full : s.custEntryFree = false) : s.abandonFor cause = { s with
    ceremony := { current := none, buffer := Vector.replicate 32 0, undelivered := some cause }
    directory := s.unreserved o.slot } := by
  unfold State.abandonFor
  simp only [current, collecting, Bool.false_eq_true, if_false]
  rw [endCeremony_open s current]
  refine if_neg ?_
  intro free
  exact absurd (full.symm.trans free) (by decide)

end

/-! ## ABANDON (R47) -/

theorem exec_abandon {s : State} {m : Message} (passes : s.custPasses codeAbandon gateService .neither parseNone m ()) :
    exec .abandon s = .next (takeAbandon m.tag () (s.custTaking m.tag)) :=
  congrArg Host.Outcome.next (takeCust_passes _ _ _ _ _ _ m () passes)

/-- With a request in progress no other is taken (R35). -/
theorem takeable_cust_busy {s : State} {x : CustProgress} (busy : s.custProgress = some x) : s.takeable .cust = none := by
  cases taken : s.takeable .cust with
  | none => rfl
  | some m => rw [takeable_cust_idle s m taken] at busy; cases busy

/-! ## The switches (R33, R50) and the timer (R51) -/

/-- What a switch's samples must read for it to change. -/
theorem exec_switchPresent (s : State) (w : Switch) (samples : Samples) : exec (.switchPresent w samples) s =
    .next (if s.sampling = true ∧ s.switchState w = false ∧ ∀ i : Fin 4, samples[i] = s.activeHigh w
      then s.setSwitch w true else s) := by
  simp only [exec, execSwitchPresent, Bool.and_eq_true, Bool.not_eq_true', allAt_iff, and_assoc]
  split <;> rfl

theorem exec_switchDrop (s : State) (w : Switch) (samples : Samples) : exec (.switchDrop w samples) s =
    .next (if s.sampling = true ∧ s.switchState w = true ∧ ∀ i : Fin 4, samples[i] = !s.activeHigh w
      then (s.setSwitch w false).abandonFor .switchDrop else s) := by
  simp only [exec, execSwitchDrop, Bool.and_eq_true, allAt_iff, and_assoc]
  split <;> rfl

/-- Without a COLLECTING ceremony a drop changes the switch alone. -/
theorem abandonFor_notCollecting (s : State) (cause : Cause)
    (none : ∀ o, s.ceremony.current = some o → o.programming = true) : s.abandonFor cause = s := by
  cases current : s.ceremony.current with
  | none => exact abandonFor_idle s cause current
  | some o => exact abandonFor_programming s cause current (none o current)

/-- Samples that do not all read what a change needs change nothing. -/
theorem switch_unread (s : State) (w : Switch) (samples : Samples) :
    ((∃ i : Fin 4, samples[i] ≠ s.activeHigh w) → exec (.switchPresent w samples) s = .next s) ∧
      ((∃ i : Fin 4, samples[i] = s.activeHigh w) → exec (.switchDrop w samples) s = .next s) := by
  refine ⟨fun ⟨i, other⟩ => ?_, fun ⟨i, same⟩ => ?_⟩
  · rw [exec_switchPresent, if_neg fun ⟨_, _, all⟩ => other (all i)]
  · rw [exec_switchDrop, if_neg fun ⟨_, _, all⟩ => by
      rw [all i] at same
      exact absurd same (by cases s.activeHigh w <;> decide)]

theorem exec_ceremonyTimeout (s : State) :
    exec .ceremonyTimeout s = .next (if s.ceremonyDue then s.abandonFor .timeout else s) := by
  simp only [exec, execCeremonyTimeout]
  split <;> rfl

/-- What an event that abandons leaves of a COLLECTING ceremony, in a state that differs in Custody Control alone. -/
theorem abandonment (s : State) (c : Custody) (i : Instr) (cause : Cause) {o : OpenRecord}
    (current : s.ceremony.current = some o) (collecting : o.programming = false)
    (runs : exec i s = .next (({ s with custody := c } : State).abandonFor cause)) :
    (s.custEntryFree = true → exec i s = .next { s with
      custody := c
      ceremony := { s.ceremony with current := none, buffer := Vector.replicate 32 0 }
      directory := s.unreserved o.slot
      custLink := { s.custLink with completions := s.custLink.completions ++
        [{ tag := o.tag, code := 0x00, outcome := .abandoned, data := cause.byte :: o.handle.bytes }] } }) ∧
    (s.custEntryFree = false → exec i s = .next { s with
      custody := c
      ceremony := { current := none, buffer := Vector.replicate 32 0, undelivered := some cause }
      directory := s.unreserved o.slot }) := by
  rw [runs]
  refine ⟨fun free => ?_, fun full => ?_⟩
  · exact congrArg Host.Outcome.next
      (abandonFor_reported { s with custody := c } cause (o := o) current collecting free)
  · exact congrArg Host.Outcome.next (abandonFor_kept { s with custody := c } cause (o := o) current collecting full)

/-- Settles O20: the request by its lemmas, each switch by its samples, and every abandonment by one lemma. -/
theorem abandonSwitchesAndTimeoutEndCeremonies : Obligations.AbandonSwitchesAndTimeoutEndCeremonies := by
  refine ⟨fun s m passes => ⟨fun o current collecting => ?_, fun idle => ?_⟩, fun s x busy => ?_, activeHigh_eq,
    fun s samples sampling => ⟨fun absent all => ?_, fun absent all => ?_, fun none => ⟨fun present all => ?_,
      fun present all => ?_⟩, fun w => switch_unread s w samples⟩,
    fun s o samples current collecting => ⟨?_, fun running => ?_⟩, fun s none => ?_⟩
  · rw [exec_abandon passes]
    simp only [takeAbandon, custTaking_ceremony, current, collecting, Bool.false_eq_true, if_false]
    rw [answered_ended passes.1 _ _ _ _ _ current]
  · rw [exec_abandon passes]
    simp only [takeAbandon, custTaking_ceremony, idle, finishCust_custTaking s m passes.1]
  · exact congrArg Host.Outcome.next (takeCust_idle s _ _ _ _ _ (takeable_cust_busy busy))
  · rw [exec_switchPresent, if_pos ⟨sampling, absent, all⟩]; rfl
  · rw [exec_switchPresent, if_pos ⟨sampling, absent, all⟩]; rfl
  · rw [exec_switchDrop, if_pos ⟨sampling, present, all⟩, abandonFor_notCollecting (s.setSwitch .csa false) _ none]; rfl
  · rw [exec_switchDrop, if_pos ⟨sampling, present, all⟩, abandonFor_notCollecting (s.setSwitch .csb false) _ none]; rfl
  · intro row mem
    simp only [List.mem_cons, List.not_mem_nil, or_false] at mem
    obtain rfl | rfl | rfl := mem
    · intro (due : o.timer = 0)
      refine abandonment s s.custody _ .timeout current collecting ?_
      rw [exec_ceremonyTimeout, if_pos (by simp [State.ceremonyDue, current, collecting, due])]
    · rintro ⟨sampling, present, all⟩
      refine abandonment s { s.custody with csa := false } _ .switchDrop current collecting ?_
      rw [exec_switchDrop, if_pos ⟨sampling, present, all⟩]
      rfl
    · rintro ⟨sampling, present, all⟩
      refine abandonment s { s.custody with csb := false } _ .switchDrop current collecting ?_
      rw [exec_switchDrop, if_pos ⟨sampling, present, all⟩]
      rfl
  · have notDue : s.ceremonyDue = false := by simp [State.ceremonyDue, current, running]
    rw [exec_ceremonyTimeout, notDue]
    rfl
  · rw [exec_ceremonyTimeout, abandonFor_notCollecting s _ none, ite_self]

end Sys2Proof.Machine
end

section
/-! PROOF. The end of a PROGRAM RECORD (O21). -/

namespace Sys2Proof.Machine

/-! ## The end of a ceremony with its COMMIT (R44 to R46) -/

theorem endCeremony_finishCommit (s : State) {o : OpenRecord} {tag : Byte} (current : s.ceremony.current = some o)
    (commits : s.custProgress = some (.commit tag)) (oc : OutcomeCode) (data : List Byte) :
    s.endCeremony.finishCommit oc data = { s with
      ceremony := { s.ceremony with current := none, buffer := Vector.replicate 32 0 }
      directory := s.unreserved o.slot
      custLink := (s.custCompletes tag codeCommit oc data).custLink
      custProgress := none } := by
  rw [endCeremony_open s current]
  simp only [State.finishCommit, commits]
  rfl

/-! ## The fault flag where no program waits (R113, R114) -/

theorem refuseProgram_none (s : State) (idle : s.control.ceremonyWait = none) : s.refuseProgram = s := by
  unfold State.refuseProgram
  rw [idle]

theorem refuseAdmin_none (s : State) (idle : s.control.adminWait = none) : s.refuseAdmin = s := by
  unfold State.refuseAdmin
  rw [idle]

/-- With nothing waiting a failed write sets the flag and latches its alarm, no more. -/
theorem setFault_alone (s : State) (live : s.retention.marker = true) (noProgram : s.control.ceremonyWait = none)
    (noAdmin : s.control.adminWait = none) : s.setFault = { s with
      control := { s.control with fault := true }
      retention := { s.retention with alarmFlags := s.retention.alarmFlags ||| 0x40 } } := by
  unfold State.setFault
  rw [latch_live _ _ (by exact live), refuseProgram_none _ (by exact noProgram),
    refuseAdmin_none _ (by exact noAdmin)]
  rfl

theorem adminEmptied_idle (s : State) (idle : s.custProgress = none) : s.adminEmptied = s := by
  unfold State.adminEmptied
  simp only [idle]

/-- The end of a mark changes no header copy, and no state but ACTIVE. -/
theorem markEnd_keeps_slot (s : State) (m n : SlotNo) (other : s.directory.slots[n].state ≠ .active) :
    (s.markEnd m).directory.slots[n].state = s.directory.slots[n].state ∧
    (s.markEnd m).directory.slots[n].header = s.directory.slots[n].header := by
  have slots : (s.markEnd m).directory.slots = put s.directory.slots m { s.directory.slots[m] with
      retirePending := false
      state := if s.directory.slots[m].state = .active then .retired else s.directory.slots[m].state } := by
    unfold State.markEnd
    by_cases active : s.directory.slots[m].state = .active
    · exact congrArg (fun t : State => t.directory.slots) (if_pos active)
    · exact congrArg (fun t : State => t.directory.slots) (if_neg active)
  rw [slots, put_get]
  split
  · next same => subst same; exact ⟨if_neg other, rfl⟩
  · exact ⟨rfl, rfl⟩

theorem markEnd_custProgress (s : State) (n : SlotNo) : (s.markEnd n).custProgress = s.custProgress := by
  obtain ⟨slots, kept, ended, -⟩ := markEnd_eq s n
  rw [ended]

/-- With no request in progress a refused administration operation leaves every slot that is not ACTIVE its state and its
header copy. -/
theorem refuseAdmin_keeps_slot (s : State) (n : SlotNo) (idle : s.custProgress = none)
    (other : s.directory.slots[n].state ≠ .active) :
    s.refuseAdmin.directory.slots[n].state = s.directory.slots[n].state ∧
    s.refuseAdmin.directory.slots[n].header = s.directory.slots[n].header := by
  unfold State.refuseAdmin
  cases waits : s.control.adminWait with
  | none => exact ⟨rfl, rfl⟩
  | some op =>
    cases op with
    | mark m =>
      simp only
      rw [adminEmptied_idle _ (by exact (markEnd_custProgress _ _).trans idle)]
      exact markEnd_keeps_slot _ m n other
    | erase b prior =>
      simp only
      rw [adminEmptied_idle _ (by exact idle)]
      exact ⟨rfl, rfl⟩

/-- So does the fault flag where no program waits. -/
theorem setFault_keeps_slot (s : State) (n : SlotNo) (noProgram : s.control.ceremonyWait = none)
    (idle : s.custProgress = none) (other : s.directory.slots[n].state ≠ .active) :
    s.setFault.directory.slots[n].state = s.directory.slots[n].state ∧
    s.setFault.directory.slots[n].header = s.directory.slots[n].header := by
  obtain ⟨r, latched⟩ := latch_eq (s.withControl fun c => { c with fault := true }) .nvFault
  unfold State.setFault
  rw [latched, refuseProgram_none _ (by exact noProgram)]
  exact refuseAdmin_keeps_slot _ n idle other

/-! ## The two ends of a program -/

section
variable (s : State) {r : ProgramRequest} {o : OpenRecord} {tag : Byte}
  (runs : s.control.exec = some (.programRecord r)) (current : s.ceremony.current = some o)
  (commits : s.custProgress = some (.commit tag))

/-- What a failed program leaves before the fault flag is set (R45). -/
def State.programLeft (s : State) (r : ProgramRequest) (o : OpenRecord) (tag : Byte) : State :=
  { s with
    array := { s.array with records := put s.array.records r.slot (partProgrammed s.draws (hLength r.record.header)) }
    draws := s.draws + 1
    control := { s.control with exec := none }
    directory := { s.unreserved o.slot with
      slots := put s.directory.slots r.slot { s.directory.slots[r.slot] with
        state := s.programmedState r.slot .damaged, header := r.record.header } }
    ceremony := { s.ceremony with current := none, buffer := Vector.replicate 32 0 }
    custLink := (s.custCompletes tag codeCommit .programFailed o.handle.bytes).custLink
    custProgress := none }

include runs current commits

theorem exec_programFailed : exec .programFailed s = .next (s.programLeft r o tag).setFault := by
  have handle : s.ceremonyHandle = o.handle.bytes := by simp only [State.ceremonyHandle, current]
  simp only [exec, execProgramFailed, runs, handle]
  exact congrArg (fun t : State => Host.Outcome.next t.setFault) (endCeremony_finishCommit
    ((s.execEnded.leaveFailedProgram r).withSlot r.slot fun d =>
      { d with state := s.programmedState r.slot .damaged, header := r.record.header }) (o := o) (tag := tag)
    current commits .programFailed o.handle.bytes)

theorem exec_programRecordDone : exec .programRecordDone s = .next { s with
    array := { s.array with records := put s.array.records r.slot r.record }
    control := { s.control with exec := none }
    directory := { s.unreserved o.slot with
      slots := (put s.directory.slots r.slot (({ s.directory.slots[r.slot] with
        state := s.programmedState r.slot .active, header := r.record.header } : SlotDir).evaluate s.retention.calendar)) }
    retention := { s.retention with slots := (put s.retention.slots r.slot
      { remaining := (hAllowance r.record.header).getD 0, issued := 0, hold := false, latch := false }) }
    ceremony := { s.ceremony with current := none, buffer := Vector.replicate 32 0 }
    custLink := (s.custCompletes tag codeCommit .ok (o.handle.bytes ++ cwBytes (hKcw r.record.header))).custLink
    custProgress := none } := by
  have handle : s.ceremonyHandle = o.handle.bytes := by simp only [State.ceremonyHandle, current]
  simp only [exec, execProgramRecordDone, runs, handle]
  exact congrArg Host.Outcome.next (endCeremony_finishCommit
    ((s.execEnded.withRecord r.slot fun _ => r.record).fillSlot r.slot r.record.header) (o := o) (tag := tag)
    current commits .ok _)

end

/-- The slot a program ends on, as it stands before the fault flag is set. -/
theorem programLeft_slot (s : State) (r : ProgramRequest) (o : OpenRecord) (tag : Byte) :
    (s.programLeft r o tag).directory.slots[r.slot] = { s.directory.slots[r.slot] with
      state := s.programmedState r.slot .damaged, header := r.record.header } :=
  put_get_same _ _ _

/-- The writes that wait beside a program on an EMPTY slot are refused as they stood before its end. -/
theorem programLeft_waitingRefused (s t : State) (r : ProgramRequest) (o : OpenRecord) (tag : Byte)
    (noProgram : s.control.ceremonyWait = none) (commits : s.custProgress = some (.commit tag))
    (empty : s.directory.slots[r.slot].state = .empty) (refused : WaitingRefused (s.programLeft r o tag) t) :
    WaitingRefused s t := by
  obtain ⟨fault, flags, ceremony, admin, -, mark, erase, -, -⟩ := refused
  refine ⟨fault, flags, ceremony, admin, fun _ _ _ waits => ?_, fun n waits => ⟨(mark n waits).1, fun active => ?_⟩, erase,
    fun _ _ _ _ _ retires => ?_, fun _ _ _ _ reclaims => ?_⟩
  · rw [noProgram] at waits; cases waits
  · have other : r.slot ≠ n := by rintro rfl; rw [empty] at active; cases active
    refine (mark n waits).2 ?_
    change (put s.directory.slots r.slot _)[n].state = .active
    rw [put_get_other _ _ _ _ other, active]
  · rw [commits] at retires; cases retires
  · rw [commits] at reclaims; cases reclaims

/-- Settles O21: both ends are the same end of a ceremony, and a failed one then sets the fault flag. -/
theorem programRecordEndsFillTheSlot : Obligations.ProgramRecordEndsFillTheSlot := by
  refine ⟨fun s r o tag runs current commits => ?_, fun s r o tag runs current commits noProgram => ?_⟩
  · refine ⟨_, exec_programRecordDone s runs current commits, rfl, rfl, put_get_same _ _ _,
      fun n other => put_get_other _ _ _ _ (Ne.symm other), rfl, fun n => ?_, rfl, rfl, rfl, rfl, rfl, rfl, rfl, rfl, rfl,
      rfl, rfl, rfl⟩
    refine (put_get _ _ _ _).trans ?_
    simp only [eq_comm]
  · rw [exec_programFailed s runs current commits]
    refine ⟨fun noAdmin live valid => ?_, fun live empty => ?_, fun invalid => ?_⟩
    · rw [setFault_alone (s.programLeft r o tag) live noProgram noAdmin]
      have damaged : s.programmedState r.slot .damaged = .damaged := if_pos valid
      refine ⟨_, rfl, rfl, rfl, ?_, ?_, fun n other => put_get_other _ _ _ _ (Ne.symm other), rfl, rfl, rfl, rfl, rfl, rfl,
        rfl, rfl, rfl, rfl, rfl, rfl, rfl⟩
      · rw [← damaged]; rfl
      · exact congrArg SlotRecord.written (put_get_same _ _ _)
    · exact ⟨_, rfl, programLeft_waitingRefused s _ r o tag noProgram commits empty (setFault_refuses _ live)⟩
    · have lost : s.programmedState r.slot .damaged = .lost := if_neg (by rw [invalid]; decide)
      have slot := programLeft_slot s r o tag
      rw [lost] at slot
      obtain ⟨state, header⟩ := setFault_keeps_slot (s.programLeft r o tag) r.slot noProgram rfl
        (by rw [slot]; exact SlotState.noConfusion)
      exact ⟨_, rfl, state.trans (congrArg SlotDir.state slot), header.trans (congrArg SlotDir.header slot)⟩

end Sys2Proof.Machine
end

section
/-! PROOF. HOLD and UNHOLD (O23), and the requests that write one field (O27). -/

namespace Sys2Proof.Machine

/-! ## HOLD and UNHOLD (R124) -/

section
variable {s : State} {m : Message} {h : Handle} {code : Byte} (on : Bool) (taken : s.takeable .cust = some m)
include taken

theorem takeHold_stale (stale : s.resolve h = none) :
    takeHold code on m.tag h (s.custTaking m.tag) = s.custAnswered m.tag code .staleHandle [] := by
  simp only [takeHold, custTaking_resolve, stale, finishCust_custTaking s m taken]

variable {n : SlotNo} (found : s.resolve h = some n)
include found

theorem takeHold_empty (empty : s.directory.slots[n].state = .empty) :
    takeHold code on m.tag h (s.custTaking m.tag) = s.custAnswered m.tag code .slotEmpty [] := by
  simp only [takeHold, custTaking_resolve, found, custTaking_directory, empty, finishCust_custTaking s m taken]

theorem takeHold_lost (lost : s.directory.slots[n].state = .lost) :
    takeHold code on m.tag h (s.custTaking m.tag) = s.custAnswered m.tag code .keyLost [] := by
  simp only [takeHold, custTaking_resolve, found, custTaking_directory, lost, finishCust_custTaking s m taken]

theorem takeHold_writes (filled : s.directory.slots[n].state ≠ .empty) (kept : s.directory.slots[n].state ≠ .lost) :
    takeHold code on m.tag h (s.custTaking m.tag) =
      { s.custAnswered m.tag code .ok (h.bytes ++ [boolByte s.retention.slots[n].hold]) with
        retention := { s.retention with
          slots := put s.retention.slots n { s.retention.slots[n] with hold := on } } } := by
  simp only [takeHold, custTaking_resolve, found, custTaking_directory, custTaking_retention]
  have written := congrArg (fun u : State => { u with retention := { s.retention with
      slots := put s.retention.slots n { s.retention.slots[n] with hold := on } } })
    (finishCust_custTaking s m taken m.tag m.tag code .ok (h.bytes ++ [boolByte s.retention.slots[n].hold]))
  cases state : s.directory.slots[n].state with
  | empty => exact absurd state filled
  | lost => exact absurd state kept
  | active => exact written
  | retired => exact written
  | damaged => exact written

end

theorem exec_hold {s : State} {m : Message} {h : Handle} (passes : s.custPasses codeHold gateService .either parseHandle m h) :
    exec .hold s = .next (takeHold codeHold true m.tag h (s.custTaking m.tag)) :=
  congrArg Host.Outcome.next (takeCust_passes _ _ _ _ _ _ m h passes)

theorem exec_unhold {s : State} {m : Message} {h : Handle}
    (passes : s.custPasses codeUnhold gateService .either parseHandle m h) :
    exec .unhold s = .next (takeHold codeUnhold false m.tag h (s.custTaking m.tag)) :=
  congrArg Host.Outcome.next (takeCust_passes _ _ _ _ _ _ m h passes)

/-- Settles O23: both requests run one handling, which refuses by the handle and the slot's state. -/
theorem holdAndUnholdSetTheHoldFlag : Obligations.HoldAndUnholdSetTheHoldFlag := by
  refine ⟨fun row mem s m h passes => ?_, fun s m h n found filled kept => ⟨fun passes => ?_, fun passes => ?_⟩⟩
  · have runs : ∃ on, exec row.1 s = .next (takeHold row.2 on m.tag h (s.custTaking m.tag)) := by
      simp only [List.mem_cons, List.not_mem_nil, or_false] at mem
      obtain rfl | rfl := mem
      · exact ⟨true, exec_hold passes⟩
      · exact ⟨false, exec_unhold passes⟩
    obtain ⟨on, runs⟩ := runs
    rw [runs]
    exact ⟨fun stale => congrArg _ (takeHold_stale on passes.1 stale), fun n found =>
      ⟨fun empty => congrArg _ (takeHold_empty on passes.1 found empty),
        fun lost => congrArg _ (takeHold_lost on passes.1 found lost)⟩⟩
  · rw [exec_hold passes, takeHold_writes true passes.1 found filled kept]
  · rw [exec_unhold passes, takeHold_writes false passes.1 found filled kept]

/-! ## The requests that write one field (R133, R135, R136) -/

theorem exec_setAlarmMask {s : State} {m : Message} {mask : Byte}
    (passes : s.custPasses codeSetMask gateService .either parseFlags m mask) : exec .setAlarmMask s = .next
      { s.custAnswered m.tag codeSetMask .ok [s.retention.alarmMask, mask] with
        retention := { s.retention with alarmMask := mask } } := by
  have runs : exec .setAlarmMask s = .next (takeSetMask m.tag mask (s.custTaking m.tag)) :=
    congrArg Host.Outcome.next (takeCust_passes _ _ _ _ _ _ m mask passes)
  rw [runs]
  exact congrArg (fun u : State => Host.Outcome.next { u with retention := { s.retention with alarmMask := mask } })
    (finishCust_custTaking s m passes.1 m.tag _ _ _ _)

theorem exec_clearNvFault {s : State} {m : Message}
    (passes : s.custPasses codeClearFault gateRecovery .either parseNone m ()) : exec .clearNvFault s = .next
      { s.custAnswered m.tag codeClearFault .ok [boolByte s.control.fault] with
        control := { s.control with fault := false } } := by
  have runs : exec .clearNvFault s = .next (takeClearFault m.tag () (s.custTaking m.tag)) :=
    congrArg Host.Outcome.next (takeCust_passes _ _ _ _ _ _ m () passes)
  rw [runs]
  exact congrArg (fun u : State => Host.Outcome.next { u with control := { s.control with fault := false } })
    (finishCust_custTaking s m passes.1 m.tag _ _ _ _)

theorem exec_clearResetFlags {s : State} {m : Message}
    (passes : s.custPasses codeClearReset gateClears .either parseNone m ()) : exec .clearResetFlags s = .next
      { s.custAnswered m.tag codeClearReset .ok [s.retention.resetFlags] with
        retention := { s.retention with resetFlags := 0 } } := by
  have runs : exec .clearResetFlags s = .next (takeClearReset m.tag () (s.custTaking m.tag)) :=
    congrArg Host.Outcome.next (takeCust_passes _ _ _ _ _ _ m () passes)
  rw [runs]
  exact congrArg (fun u : State => Host.Outcome.next { u with retention := { s.retention with resetFlags := 0 } })
    (finishCust_custTaking s m passes.1 m.tag _ _ _ _)

/-- Settles O27, each request by its equation. -/
theorem maskFaultAndResetRequestsWrite : Obligations.MaskFaultAndResetRequestsWrite :=
  ⟨fun _ _ _ passes => exec_setAlarmMask passes,
    fun _ _ => ⟨fun passes => exec_clearNvFault passes, fun passes => exec_clearResetFlags passes⟩⟩

end Sys2Proof.Machine
end

section
/-! PROOF. RETIRE and its recall (O24). -/

namespace Sys2Proof.Machine

/-! ## The recall (R76) -/

theorem loadQueued_iff (s : State) (e : Line) (p : Pos) : s.loadQueued e p = true ↔
    ∃ cls len kcw, { kind := FrameKind.load p cls len kcw, stale := false } ∈ s.buses[e].queue := by
  simp only [State.loadQueued, List.any_eq_true, Bool.and_eq_true, Bool.not_eq_true']
  constructor
  · rintro ⟨⟨kind, stale⟩, mem, fresh, load⟩
    cases kind with
    | load q cls len kcw =>
      cases (show q = p from eq_of_beq load)
      cases (show stale = false from fresh)
      exact ⟨cls, len, kcw, mem⟩
    | clear q => cases load
    | clearAll => cases load
  · rintro ⟨cls, len, kcw, mem⟩
    exact ⟨_, mem, rfl, beq_self_eq_true p⟩

theorem recallActs_iff (s : State) (n : SlotNo) (e : Line) (p : Pos) : s.recallActs n e p = true ↔
    (∃ b, s.pos e p = .bound b ∧ b.slot = n) ∨
    ∃ b rp cls len kcw, s.pos e p = .loading b rp ∧ b.slot = n ∧
      { kind := FrameKind.load p cls len kcw, stale := false } ∈ s.buses[e].queue := by
  unfold State.recallActs
  cases place : s.pos e p with
  | bound b => simp
  | loading b rp => simp [loadQueued_iff]
  | free => simp
  | blocked => simp
  | clearing b k => simp
  | ended b r u => simp

/-- What a recall makes of a position it acts on. -/
def Position.recalled : Position → Position
  | .bound b => .clearing b .recall
  | .loading b _ => .loading b true
  | x => x

/-- A recall at a place it acts on. -/
theorem recallAt_acts (s : State) (n : SlotNo) (e : Line) (p : Pos) (acts : s.recallActs n e p = true) :
    State.recallAt n s (e, p) = (s.queueFrame e (.clear p)).setPos e p (s.pos e p).recalled := by
  simp only [State.recallAt, if_pos acts]
  unfold State.recallActs at acts
  cases place : s.pos e p with
  | bound b => rfl
  | loading b rp => rfl
  | free => rw [place] at acts; cases acts
  | blocked => rw [place] at acts; cases acts
  | clearing b k => rw [place] at acts; cases acts
  | ended b r u => rw [place] at acts; cases acts

/-- What the recall leaves after a list of places: each it acts on has its position recalled, and a CLEAR queued. -/
structure Recalled (n : SlotNo) (s : State) (l : List (Line × Pos)) (t : State) : Prop where
  frame : t = { s with positions := t.positions, buses := t.buses }
  pos : ∀ e p, t.pos e p = if (e, p) ∈ l ∧ s.recallActs n e p = true then (s.pos e p).recalled else s.pos e p
  bus : ∀ e : Line, t.buses[e] = { s.buses[e] with queue := s.buses[e].queue ++
    (l.filter fun ep => decide (ep.1 = e) && s.recallActs n ep.1 ep.2).map fun ep => { kind := .clear ep.2, stale := false } }

/-- A CLEAR queued changes no judgement of a LOAD. -/
theorem loadQueued_congr {s t : State} {e : Line} {clears : List Pos}
    (queue : t.buses[e].queue = s.buses[e].queue ++ clears.map fun p => { kind := .clear p, stale := false }) (p : Pos) :
    t.loadQueued e p = s.loadQueued e p := by
  simp only [State.loadQueued]
  rw [queue, List.any_append, List.any_map]
  simp

/-- The recall at one place changes no judgement at another. -/
theorem recallActs_congr {s t : State} {e : Line} {p : Pos} (pos : t.pos e p = s.pos e p)
    (load : t.loadQueued e p = s.loadQueued e p) (n : SlotNo) : t.recallActs n e p = s.recallActs n e p := by
  simp only [State.recallActs, pos, load]

theorem Recalled.acts {n : SlotNo} {s t : State} {l : List (Line × Pos)} (h : Recalled n s l t) {e : Line} {p : Pos}
    (fresh : (e, p) ∉ l) : t.recallActs n e p = s.recallActs n e p := by
  refine recallActs_congr ?_ (loadQueued_congr (clears := (l.filter fun ep => decide (ep.1 = e) &&
    s.recallActs n ep.1 ep.2).map Prod.snd) ?_ p) n
  · rw [h.pos, if_neg fun both => fresh both.1]
  · rw [h.bus, List.map_map]
    rfl

theorem queueFrame_bus (s : State) (e e' : Line) (k : FrameKind) : (s.queueFrame e k).buses[e'] =
    { s.buses[e'] with queue := s.buses[e'].queue ++ if e = e' then [{ kind := k, stale := false }] else [] } := by
  change (put s.buses e { s.buses[e] with queue := s.buses[e].queue ++ [{ kind := k, stale := false }] })[e'] = _
  rw [put_get]
  split
  · next same => subst same; rfl
  · simp

/-- The recall at one place more. -/
theorem Recalled.step {n : SlotNo} {s t : State} {l : List (Line × Pos)} (h : Recalled n s l t) {e : Line} {p : Pos}
    (fresh : (e, p) ∉ l) : Recalled n s (l ++ [(e, p)]) (State.recallAt n t (e, p)) := by
  cases acts : s.recallActs n e p with
  | true =>
    rw [recallAt_acts t n e p ((h.acts fresh).trans acts)]
    refine ⟨?_, fun e' p' => ?_, fun e' => ?_⟩
    · rw [h.frame]; rfl
    · rw [pos_setPos, show t.pos e p = s.pos e p from by rw [h.pos, if_neg fun both => fresh both.1]]
      change (if _ then _ else t.pos e' p') = _
      rw [h.pos]
      by_cases same : e = e' ∧ p = p'
      · obtain ⟨rfl, rfl⟩ := same
        simp [acts]
      · have other : ¬ (e', p') = (e, p) := fun eq => same ⟨(congrArg Prod.fst eq).symm, (congrArg Prod.snd eq).symm⟩
        simp [same, other]
    · refine (queueFrame_bus t e e' (.clear p)).trans ?_
      rw [h.bus]
      by_cases same : e = e'
      · subst same; simp [acts]
      · simp [same]
  | false =>
    rw [show State.recallAt n t (e, p) = t from if_neg (by rw [h.acts fresh, acts]; decide)]
    refine ⟨h.frame, fun e' p' => ?_, fun e' => ?_⟩
    · rw [h.pos]
      by_cases same : (e', p') = (e, p)
      · cases same; simp [acts]
      · simp [same]
    · rw [h.bus]; simp [acts]

theorem Recalled.fold {n : SlotNo} {s : State} (l : List (Line × Pos)) : ∀ {past : List (Line × Pos)} {t : State},
    Recalled n s past t → (past ++ l).Nodup → Recalled n s (past ++ l) (l.foldl (State.recallAt n) t) := by
  induction l with
  | nil => intro past t h _; simpa using h
  | cons ep l ih =>
    intro past t h nodup
    have fresh : ep ∉ past := fun mem => by
      have := List.disjoint_of_nodup_append nodup mem
      simp at this
    have := ih (h.step fresh) (by simpa using nodup)
    simpa using this

theorem mem_places (e : Line) (p : Pos) : (e, p) ∈ places := by
  revert e p; decide

/-- The recall of a slot, place by place. -/
theorem recall_recalled (s : State) (n : SlotNo) : Recalled n s places (s.recall n) := by
  have start : Recalled n s [] s := ⟨rfl, fun e p => by simp, fun e => by simp⟩
  exact Recalled.fold places start (by decide)

/-- The places of one engine among those that pass a test. -/
theorem places_filter {α : Type} (f : Line → Pos → Bool) (g : Pos → α) (e : Line) :
    ((places.filter fun ep => decide (ep.1 = e) && f ep.1 ep.2).map fun ep => g ep.2) = (four.filter (f e)).map g := by
  have engine (e' : Line) : (((four.map fun p => (e', p)).filter fun ep => decide (ep.1 = e) && f ep.1 ep.2).map
      fun ep => g ep.2) = if e' = e then (four.filter (f e)).map g else [] := by
    rw [List.filter_map, List.map_map]
    split
    · next same => subst same; simp [Function.comp_def]
    · next other => simp [Function.comp_def, other]
  rw [places, List.filter_flatMap, List.map_flatMap]
  simp only [engine]
  fin_cases e <;> simp [four]

theorem recallCount_eq (s : State) (n : SlotNo) :
    s.recallCount n = (four.map fun e => (four.filter fun p => s.recallActs n e p).length).sum := by
  have engine (e : Line) : (four.map fun p => (e, p)).countP (fun ep => s.recallActs n ep.1 ep.2) =
      (four.filter fun p => s.recallActs n e p).length := by
    rw [List.countP_map, List.countP_eq_length_filter]
    rfl
  rw [State.recallCount, places, List.countP_flatMap]
  simp only [Function.comp_def, engine]

/-! ## RETIRE (R125, R126) -/

theorem refusal_none {d : SlotDir} (active : d.state = .active) (clear : d.retirePending = false) : d.refusal = none := by
  simp [SlotDir.refusal, active, clear]

theorem exec_retire {s : State} {m : Message} {h : Handle} {withRecall : Bool}
    (passes : s.custPasses codeRetire gateService .both parseRetire m (h, withRecall)) :
    exec .retire s = .next (takeRetire m.tag (h, withRecall) (s.custTaking m.tag)) :=
  congrArg Host.Outcome.next (takeCust_passes _ _ _ _ _ _ m (h, withRecall) passes)

/-- The state a RETIRE's mark is submitted in: the slot is retire-pending, and the recall has replaced the table and the
queues. -/
def State.retiring (s : State) (tag : Byte) (n : SlotNo) (positions : Vector (Vector Position 4) 4)
    (buses : Vector Transmitter 4) : State :=
  { s.custTaking tag with
    positions := positions, buses := buses
    directory := { s.directory with
      slots := put s.directory.slots n { s.directory.slots[n] with retirePending := true } } }

section
variable {s : State} {m : Message} {h : Handle}
variable (taken : s.takeable .cust = some m)
include taken

theorem takeRetire_refused {withRecall : Bool} : (s.resolve h = none →
      takeRetire m.tag (h, withRecall) (s.custTaking m.tag) = s.custAnswered m.tag codeRetire .staleHandle []) ∧
    ∀ n oc, s.resolve h = some n → s.directory.slots[n].refusal = some oc →
      takeRetire m.tag (h, withRecall) (s.custTaking m.tag) = s.custAnswered m.tag codeRetire oc [] := by
  refine ⟨fun stale => ?_, fun n oc found refused => ?_⟩
  · simp only [takeRetire, custTaking_resolve, stale, finishCust_custTaking s m taken]
  · simp only [takeRetire, custTaking_resolve, found, custTaking_directory, refused, finishCust_custTaking s m taken]

omit taken in
/-- An accepted RETIRE submits its mark, or waits for the administration slot. -/
theorem takeRetire_accepted (m : Message) (withRecall : Bool) {n : SlotNo} (found : s.resolve h = some n)
    (active : s.directory.slots[n].state = .active) (clear : s.directory.slots[n].retirePending = false)
    (positions : Vector (Vector Position 4) 4) (buses : Vector Transmitter 4) (k : Nat)
    (recalled : (if withRecall then ((s.custTaking m.tag).withSlot n fun d => { d with retirePending := true }).recall n
      else (s.custTaking m.tag).withSlot n fun d => { d with retirePending := true }) = s.retiring m.tag n positions buses)
    (count : (if withRecall then s.recallCount n else 0) = k) :
    takeRetire m.tag (h, withRecall) (s.custTaking m.tag) =
      if s.control.adminWait = none then (s.retiring m.tag n positions buses).submitMark m.tag h n k
      else { s.retiring m.tag n positions buses with custProgress := some (.retire m.tag h n k) } := by
  have count' : (if withRecall then (s.custTaking m.tag).recallCount n else 0) = k := count
  simp only [takeRetire, custTaking_resolve, found, custTaking_directory, refusal_none active clear, recalled, count']
  rfl

theorem retiring_submits (n : SlotNo) (positions : Vector (Vector Position 4) 4) (buses : Vector Transmitter 4) (k : Nat)
    (clear : s.control.fault = false) : (s.retiring m.tag n positions buses).submitMark m.tag h n k =
      { s.custAnswered m.tag codeRetire .ok (h.bytes ++ [BitVec.ofNat 8 k, 1]) with
        positions := positions, buses := buses
        directory := { s.directory with
          slots := put s.directory.slots n { s.directory.slots[n] with retirePending := true } }
        control := { s.control with adminWait := some (.mark n) } } := by
  unfold State.submitMark
  refine (if_neg (ne_true_of_eq_false clear)).trans ?_
  exact congrArg (fun u : State => { u with
      positions := positions, buses := buses
      directory := { s.directory with
        slots := put s.directory.slots n { s.directory.slots[n] with retirePending := true } }
      control := { s.control with adminWait := some (.mark n) } })
    (finishCust_custTaking s m taken m.tag m.tag codeRetire .ok (h.bytes ++ [BitVec.ofNat 8 k, 1]))

theorem retiring_marks (n : SlotNo) (positions : Vector (Vector Position 4) 4) (buses : Vector Transmitter 4) (k : Nat)
    (active : s.directory.slots[n].state = .active) (clear : s.directory.slots[n].retirePending = false)
    (fault : s.control.fault = true) : (s.retiring m.tag n positions buses).submitMark m.tag h n k =
      { s.custAnswered m.tag codeRetire .ok (h.bytes ++ [BitVec.ofNat 8 k, 2]) with
        positions := positions, buses := buses
        directory := { s.directory with
          slots := put s.directory.slots n { s.directory.slots[n] with state := .retired } }
        retention := { s.retention with
          slots := put s.retention.slots n { s.retention.slots[n] with latch := true } } } := by
  have slot : (s.retiring m.tag n positions buses).directory.slots[n] =
      { s.directory.slots[n] with retirePending := true } := put_get_same _ _ _
  have pending : (s.retiring m.tag n positions buses).directory.slots[n].state = .active :=
    (congrArg SlotDir.state slot).trans active
  have marked : (s.retiring m.tag n positions buses).markEnd n = { s.custTaking m.tag with
      positions := positions, buses := buses
      directory := { s.directory with
        slots := put s.directory.slots n { s.directory.slots[n] with state := .retired } }
      retention := { s.retention with
        slots := put s.retention.slots n { s.retention.slots[n] with latch := true } } } := by
    unfold State.markEnd
    refine (if_pos pending).trans ?_
    simp only [State.withSlot, slot, active, if_true]
    rw [← clear]
    simp only [State.retiring, put_put]
    rfl
  unfold State.submitMark
  refine (if_pos fault).trans ?_
  rw [marked]
  exact congrArg (fun u : State => { u with
      positions := positions, buses := buses
      directory := { s.directory with
        slots := put s.directory.slots n { s.directory.slots[n] with state := .retired } }
      retention := { s.retention with
        slots := put s.retention.slots n { s.retention.slots[n] with latch := true } } })
    (finishCust_custTaking s m taken m.tag m.tag codeRetire .ok (h.bytes ++ [BitVec.ofNat 8 k, 2]))

end

/-- The table a recall leaves, as the statement tells it. -/
theorem Recalled.position {n : SlotNo} {s t : State} (h : Recalled n s places t) (e : Line) (p : Pos) :
    (s.recallActs n e p = false → t.positions[e][p] = s.pos e p) ∧
    (s.recallActs n e p = true →
      (∀ b, s.pos e p = .bound b → t.positions[e][p] = .clearing b .recall) ∧
      (∀ b rp, s.pos e p = .loading b rp → t.positions[e][p] = .loading b true)) := by
  have place : t.positions[e][p] = _ := h.pos e p
  rw [place]
  refine ⟨fun stays => if_neg fun both => ?_, fun acts => ?_⟩
  · rw [stays] at both; cases both.2
  · rw [if_pos ⟨mem_places e p, acts⟩]
    exact ⟨fun b bound => by rw [bound]; rfl, fun b rp loading => by rw [loading]; rfl⟩

/-- Settles O24: an accepted RETIRE is submitted with the table and queues its recall leaves, which without recall are the
state's own. -/
theorem retireSubmitsItsMarkAndRecalls : Obligations.RetireSubmitsItsMarkAndRecalls := by
  refine ⟨fun s m h withRecall passes => ?_, fun s m h n passes found active clear => ?_, recallActs_iff,
    fun s m h n k passes found active clear count => ?_⟩
  · rw [exec_retire passes]
    obtain ⟨stale, refused⟩ := takeRetire_refused (h := h) (withRecall := withRecall) passes.1
    refine ⟨fun none => congrArg _ (stale none), fun n found => ⟨fun state => congrArg _ (refused n _ found ?_),
      fun state => congrArg _ (refused n _ found ?_), fun state => congrArg _ (refused n _ found ?_),
      fun state => congrArg _ (refused n _ found ?_)⟩⟩
    · simp only [SlotDir.refusal, state]
    · simp only [SlotDir.refusal, state]
    · simp only [SlotDir.refusal, state]
    · obtain retired | ⟨active, pending⟩ := state
      · simp only [SlotDir.refusal, retired]
      · simp only [SlotDir.refusal, active, pending, if_true]
  · rw [exec_retire passes, takeRetire_accepted m false found active clear s.positions s.buses 0 rfl rfl]
    refine ⟨fun empty fault => ?_, fun empty fault => ?_, fun full => ?_⟩
    · rw [if_pos empty, retiring_submits passes.1 n _ _ 0 fault]; rfl
    · rw [if_pos empty, retiring_marks passes.1 n _ _ 0 active clear fault]; rfl
    · rw [if_neg full]; rfl
  · obtain ⟨t, left, recalled⟩ : ∃ t, ((s.custTaking m.tag).withSlot n fun d => { d with retirePending := true }).recall n = t ∧
        Recalled n ((s.custTaking m.tag).withSlot n fun d => { d with retirePending := true }) places t :=
      ⟨_, rfl, recall_recalled _ n⟩
    refine ⟨t.positions, t.buses, recalled.position, fun e => ?_, ?_⟩
    · refine (recalled.bus e).trans ?_
      rw [places_filter (fun e p => State.recallActs _ n e p) (fun p => ({ kind := .clear p, stale := false } : Frame)) e]
      rfl
    · rw [exec_retire passes, takeRetire_accepted m true found active clear _ _ k (left.trans recalled.frame)
        (by rw [if_pos rfl, recallCount_eq, count])]
      refine ⟨fun empty fault => ?_, fun empty fault => ?_, fun full => ?_⟩
      · rw [if_pos empty, retiring_submits passes.1 n _ _ k fault]
      · rw [if_pos empty, retiring_marks passes.1 n _ _ k active clear fault]
      · rw [if_neg full]; rfl

end Sys2Proof.Machine
end

section
/-! PROOF. RECLAIM (O25). -/

namespace Sys2Proof.Machine

/-! ## The slots of a bank -/

theorem mem_slotsOf (b : Bank) (n : SlotNo) : n ∈ slotsOf b ↔ bankOf n = b := by
  simp only [slotsOf, List.mem_map, List.mem_finRange, true_and]
  constructor
  · rintro ⟨i, rfl⟩
    apply Fin.ext
    simp only [bankOf, slotNo]
    omega
  · rintro rfl
    refine ⟨⟨n.val % 32, by omega⟩, Fin.ext ?_⟩
    simp only [bankOf, slotNo]
    omega

theorem slotsOf_any (b : Bank) (f : SlotNo → Bool) : (slotsOf b).any f = true ↔ ∃ n : SlotNo, bankOf n = b ∧ f n = true := by
  simp only [List.any_eq_true, mem_slotsOf]

/-! ## RECLAIM (R128, R129) -/

section
variable {s : State} {b : Bank}

theorem reclaimRefusal_erasing (erasing : s.directory.banks[b].condition = .erasing) :
    s.reclaimRefusal b = some .bankUnavailable := if_pos erasing

variable (rests : s.directory.banks[b].condition ≠ .erasing)
include rests

theorem reclaimRefusal_used (used : (∃ n : SlotNo, bankOf n = b ∧ (s.directory.slots[n].state = .active ∨ 0 < s.liveCount n)) ∨
    s.directory.banks[b].reserved = true) : s.reclaimRefusal b = some .bankInUse := by
  unfold State.reclaimRefusal
  rw [if_neg rests]
  split
  · rfl
  next noActive =>
  split
  · rfl
  next noLive =>
  obtain ⟨n, within, active | live⟩ | reserved := used
  · exact absurd ((slotsOf_any b _).mpr ⟨n, within, by rw [active]; rfl⟩) noActive
  · exact absurd ((slotsOf_any b _).mpr ⟨n, within, decide_eq_true live⟩) noLive
  · rw [if_pos reserved]

theorem reclaimRefusal_unused (unused : ∀ n : SlotNo, bankOf n = b → s.directory.slots[n].state ≠ .active ∧ s.liveCount n = 0)
    (unreserved : s.directory.banks[b].reserved = false) :
    s.reclaimRefusal b = if s.control.fault then some .nvFault else none := by
  have noActive : ¬ ((slotsOf b).any fun n => s.directory.slots[n].state == .active) = true := by
    rw [slotsOf_any]
    rintro ⟨n, within, active⟩
    exact (unused n within).1 (eq_of_beq active)
  have noLive : ¬ ((slotsOf b).any fun n => 0 < s.liveCount n) = true := by
    rw [slotsOf_any]
    rintro ⟨n, within, live⟩
    exact absurd (unused n within).2 (Nat.pos_iff_ne_zero.mp (of_decide_eq_true live))
  unfold State.reclaimRefusal
  rw [if_neg rests, if_neg noActive, if_neg noLive, unreserved]
  rfl

end

theorem exec_reclaim {s : State} {m : Message} {b : Bank}
    (passes : s.custPasses codeReclaim gateRecovery .both parseReclaim m b) :
    exec .reclaim s = .next (takeReclaim m.tag b (s.custTaking m.tag)) :=
  congrArg Host.Outcome.next (takeCust_passes _ _ _ _ _ _ m b passes)

theorem reclaimRefusal_custTaking (s : State) (t : Byte) (b : Bank) : (s.custTaking t).reclaimRefusal b = s.reclaimRefusal b :=
  rfl

theorem exec_reclaim_refused {s : State} {m : Message} {b : Bank}
    (passes : s.custPasses codeReclaim gateRecovery .both parseReclaim m b) {oc : OutcomeCode}
    (refused : s.reclaimRefusal b = some oc) : exec .reclaim s = .next (s.custAnswered m.tag codeReclaim oc []) := by
  rw [exec_reclaim passes]
  simp only [takeReclaim, reclaimRefusal_custTaking, refused, finishCust_custTaking s m passes.1]

/-- Settles O25: the checks in their order, then the submission or the wait. -/
theorem reclaimSubmitsItsErase : Obligations.ReclaimSubmitsItsErase := by
  refine ⟨fun s m b passes => ⟨fun erasing => ?_, fun rests => ⟨fun used => ?_, fun unused unreserved fault => ?_⟩⟩,
    fun s m b passes rests unused unreserved clear => ?_⟩
  · exact exec_reclaim_refused passes (reclaimRefusal_erasing erasing)
  · exact exec_reclaim_refused passes (reclaimRefusal_used rests used)
  · exact exec_reclaim_refused passes (by rw [reclaimRefusal_unused rests unused unreserved, fault]; rfl)
  · have accepted : s.reclaimRefusal b = none := by
      rw [reclaimRefusal_unused rests unused unreserved, clear]
      rfl
    rw [exec_reclaim passes]
    simp only [takeReclaim, reclaimRefusal_custTaking, accepted, custTaking_control, custTaking_directory]
    refine ⟨fun empty => ?_, fun full => ?_⟩
    · refine (congrArg Host.Outcome.next (if_pos empty)).trans ?_
      exact congrArg (fun u : State => Host.Outcome.next { u with
          control := { s.control with adminWait := some (.erase b s.directory.banks[b].condition) }
          directory := { s.directory with
            banks := put s.directory.banks b { s.directory.banks[b] with condition := .erasing } } })
        (finishCust_custTaking s m passes.1 m.tag _ _ _ _)
    · exact congrArg Host.Outcome.next (if_neg full)

end Sys2Proof.Machine
end

section
/-! SUPPORT. What a running zeroization writes on the custodian port (R49, R52, R106), and what it leaves of retention and the
monitors. -/

namespace Sys2Proof.Machine

theorem custEntryFree_iff (s : State) : s.custEntryFree = true ↔
    s.custLink.completions = [] ∨ (s.custLink.completions.length = 1 ∧ s.custProgress = none) := by
  unfold State.custEntryFree
  rw [decide_eq_true_eq]
  cases progress : s.custProgress with
  | none => simp [capacity, ← List.length_eq_zero_iff]; omega
  | some x => simp [capacity, ← List.length_eq_zero_iff]

/-- The completion of a COMMIT in progress (R52). -/
def commitReport : Option CustProgress → List Completion
  | some (.commit tag) => [⟨tag, codeCommit, .zeroized, []⟩]
  | _ => []

/-- The report of the Ceremony Unit's part (R49, R52). -/
def State.ceremonyReport (s : State) (free : Bool) : List Completion :=
  match s.ceremony.current, s.custProgress with
  | none, _ => []
  | some o, x =>
    if o.programming then
      match x with
      | some (.commit tag) => [⟨tag, codeCommit, .zeroized, []⟩]
      | _ => []
    else if free then [⟨o.tag, 0x00, .abandoned, 0x06 :: o.handle.bytes⟩] else []

/-- The completion of a RETIRE or RECLAIM that waits (R106). -/
def waitingReport : Option CustProgress → List Completion
  | some (.retire tag _ _ _) => [⟨tag, codeRetire, .zeroized, []⟩]
  | some (.reclaim tag _ _) => [⟨tag, codeReclaim, .zeroized, []⟩]
  | _ => []

theorem zeroizationReports_eq (s : State) (free : Bool) :
    s.zeroizationReports free = s.ceremonyReport free ++ waitingReport s.custProgress := rfl

/-- A completion list added to a link. -/
def Link.reported (l : Link) (cs : List Completion) : Link := { l with completions := l.completions ++ cs }

theorem reported_nil (l : Link) : l.reported [] = l := by simp [Link.reported]

theorem reported_reported (l : Link) (a b : List Completion) : (l.reported a).reported b = l.reported (a ++ b) := by
  simp [Link.reported]

/-- What the custodian port shows after the Ceremony Unit's part: only a COMMIT in progress is over. -/
structure CeremonySeen (s t : State) : Prop where
  link : t.custLink = s.custLink.reported (s.ceremonyReport s.custEntryFree)
  undelivered : t.ceremony.undelivered = s.zeroizationUndelivered s.custEntryFree
  waiting : waitingReport t.custProgress = waitingReport s.custProgress

theorem finishCommit_seen (s : State) : (s.finishCommit .zeroized []).custLink = s.custLink.reported
      (commitReport s.custProgress) ∧
    waitingReport (s.finishCommit .zeroized []).custProgress = waitingReport s.custProgress ∧
    (s.finishCommit .zeroized []).ceremony = s.ceremony := by
  unfold State.finishCommit
  split
  · next tag commits =>
    rw [commits]
    exact ⟨rfl, rfl, rfl⟩
  · next other =>
    have silent : commitReport s.custProgress = [] := by
      unfold commitReport
      split
      · next tag commits => exact absurd commits (other tag)
      · rfl
    exact ⟨by rw [silent, reported_nil], rfl, rfl⟩

theorem zeroizeCeremony_seen (s : State) : CeremonySeen s s.zeroizeCeremony := by
  unfold State.zeroizeCeremony
  cases current : s.ceremony.current with
  | none =>
    refine ⟨?_, ?_, rfl⟩
    · simp only [State.ceremonyReport, current]
      exact (reported_nil _).symm
    · simp only [State.zeroizationUndelivered, current]
  | some o =>
    cases programming : o.programming with
    | true =>
      obtain ⟨link, waiting, ceremony⟩ := finishCommit_seen s.endCeremony
      simp only [programming, if_true]
      rw [endCeremony_open s current] at link waiting ceremony ⊢
      refine ⟨?_, ?_, waiting⟩
      · simp only [State.ceremonyReport, current, programming, if_true]
        exact link
      · rw [ceremony]
        simp only [State.zeroizationUndelivered, current, programming, Bool.true_eq_false, false_and, if_false]
    | false =>
      simp only [programming, Bool.false_eq_true, if_false]
      cases free : s.custEntryFree with
      | true =>
        rw [abandonFor_reported s .zeroization current programming free]
        refine ⟨?_, ?_, rfl⟩
        · simp only [State.ceremonyReport, current, programming, free, Bool.false_eq_true, if_false, if_true]
          rfl
        · simp [State.zeroizationUndelivered, current, free]
      | false =>
        rw [abandonFor_kept s .zeroization current programming free]
        refine ⟨?_, ?_, rfl⟩
        · simp only [State.ceremonyReport, current, programming, free, Bool.false_eq_true, if_false]
          exact (reported_nil _).symm
        · simp [State.zeroizationUndelivered, current, programming, free]

/-- The custodian port's part reports a request that waits. -/
theorem zeroizeCust_seen (s : State) : s.zeroizeCust.custLink = s.custLink.reported (waitingReport s.custProgress) := by
  unfold State.zeroizeCust
  split
  · next tag h n k waits => rw [waits]; rfl
  · next tag b epoch waits => rw [waits]; rfl
  · next noRetire noReclaim =>
    have quiet : waitingReport s.custProgress = [] := by
      unfold waitingReport
      split
      · next tag h n k waits => exact absurd waits (noRetire tag h n k)
      · next tag b epoch waits => exact absurd waits (noReclaim tag b epoch)
      · rfl
    rw [quiet, reported_nil]

theorem nextOwed_eq (s : State) : ∃ c d, s.nextOwed = { s with control := c, directory := d } := by
  unfold State.nextOwed
  split
  · split
    · exact ⟨_, _, rfl⟩
    · exact ⟨s.control, s.directory, rfl⟩
  · exact ⟨s.control, s.directory, rfl⟩

/-- The blocks between the Ceremony Unit and the custodian port: they touch none of what it shows. -/
structure PortKept (s t : State) : Prop where
  link : t.custLink = s.custLink
  progress : t.custProgress = s.custProgress
  ceremony : t.ceremony = s.ceremony
  monitor : t.monitor = s.monitor
  retention : t.retention = { s.retention with slots := t.retention.slots }

theorem PortKept.trans {s t u : State} (h : PortKept s t) (k : PortKept t u) : PortKept s u :=
  ⟨k.link.trans h.link, k.progress.trans h.progress, k.ceremony.trans h.ceremony, k.monitor.trans h.monitor, by
    rw [k.retention, h.retention]⟩

theorem endTable_portKept (s : State) : PortKept s s.endTable := by
  obtain ⟨v, ended, -⟩ := endTable_eq s
  rw [ended]
  exact ⟨rfl, rfl, rfl, rfl, rfl⟩

theorem zeroizeLines_portKept (s : State) : PortKept s (four.foldl State.zeroizeLine s) := by
  obtain ⟨_, ended, -⟩ := zeroizeLines_eq s
  rw [ended]
  exact ⟨rfl, rfl, rfl, rfl, rfl⟩

theorem abortArray_portKept (s : State) : PortKept s s.abortArray := by
  obtain ⟨_, _, _, aborted, -⟩ := abortArray_eq s
  rw [aborted]
  exact ⟨rfl, rfl, rfl, rfl, rfl⟩

theorem withBuses_portKept (s : State) (x : Vector Transmitter 4) : PortKept s { s with buses := x } :=
  ⟨rfl, rfl, rfl, rfl, rfl⟩

theorem nextOwed_portKept (s : State) : PortKept s s.nextOwed := by
  obtain ⟨_, _, submitted⟩ := nextOwed_eq s
  rw [submitted]
  exact ⟨rfl, rfl, rfl, rfl, rfl⟩

theorem zeroizeDirectory_portKept (s : State) : PortKept s s.zeroizeDirectory := by
  unfold State.zeroizeDirectory
  refine ⟨?_, ?_, ?_, ?_, ?_⟩
  · rw [withDirectory_custLink]
  · rw [withDirectory_custProgress]
  · rw [withDirectory_ceremony]
  · rw [withDirectory_monitor]
  · rw [withDirectory_retention]

/-- The Ceremony Unit's part in a state that shows the same at the custodian port. -/
theorem CeremonySeen.congr {s u t : State} (link : u.custLink = s.custLink) (progress : u.custProgress = s.custProgress)
    (ceremony : u.ceremony = s.ceremony) (h : CeremonySeen u t) : CeremonySeen s t := by
  obtain ⟨hl, hu, hw⟩ := h
  have free : u.custEntryFree = s.custEntryFree := by simp only [State.custEntryFree, link, progress]
  refine ⟨?_, ?_, ?_⟩
  · rw [hl, free, link]; simp only [State.ceremonyReport, ceremony, progress]
  · rw [hu, free]; simp only [State.zeroizationUndelivered, ceremony]
  · rw [hw, progress]

/-- What a running zeroization leaves beside what Zeroized tells. -/
structure ZeroizationSeen (s t : State) (src : Source) : Prop where
  link : t.custLink = s.custLink.reported (s.zeroizationReports s.custEntryFree)
  undelivered : t.ceremony.undelivered = s.zeroizationUndelivered s.custEntryFree
  monitor : t.monitor = { s.monitor with intervalTimer := none }
  retention : t.retention = { (s.destroyCovers src .running).retention with slots := t.retention.slots }

theorem beginRunning_seen (s : State) (src : Source) (live : s.retention.marker = true) :
    ZeroizationSeen s (s.beginRunning src) src := by
  obtain ⟨r, covers⟩ : ∃ r, s.destroyCovers src .running = { s with retention := r } := ⟨_, destroyCovers_eq s src .running live⟩
  unfold State.beginRunning
  extract_lets s1 s2 s3 s4 s5
  have front : s1.custLink = s.custLink ∧ s1.custProgress = s.custProgress ∧ s1.ceremony = s.ceremony ∧
      s1.monitor = s.monitor ∧ s1.retention = r := by
    simp only [s1, covers, State.withCustody, and_self]
  obtain ⟨frontLink, frontProgress, frontCeremony, frontMonitor, frontRetention⟩ := front
  have directory := zeroizeDirectory_portKept s1
  have ceremony : CeremonySeen s s2 := (zeroizeCeremony_seen s1.zeroizeDirectory).congr
    (directory.link.trans frontLink) (directory.progress.trans frontProgress)
    (directory.ceremony.trans frontCeremony)
  obtain ⟨_, _, _, _, left, -⟩ := zeroizeCeremony_eq s1.zeroizeDirectory
  have other : s2.monitor = s.monitor ∧ s2.retention = r := by
    simp only [s2, left]
    exact ⟨directory.monitor.trans frontMonitor,
      (zeroizeDirectory_retention s1).trans frontRetention⟩
  have buses : PortKept s3 s4 := withBuses_portKept s3 _
  obtain ⟨middleLink, middleProgress, middleCeremony, middleMonitor, middleRetention⟩ : PortKept s2 s4.abortArray :=
    (((endTable_portKept s2).trans (zeroizeLines_portKept _)).trans buses).trans (abortArray_portKept s4)
  have cust := zeroizeCust_seen s4.abortArray
  obtain ⟨_, _, custody, -⟩ := zeroizeCust_eq s4.abortArray
  have after : s5.ceremony = s4.abortArray.ceremony ∧ s5.monitor = s4.abortArray.monitor ∧
      s5.retention = s4.abortArray.retention := by
    simp only [s5, custody, and_self]
  obtain ⟨afterCeremony, afterMonitor, afterRetention⟩ := after
  have last := nextOwed_portKept (s5.withMonitor fun m => { m with intervalTimer := none })
  rw [other.1] at middleMonitor
  rw [other.2] at middleRetention
  have reported : s5.custLink = s.custLink.reported (s.zeroizationReports s.custEntryFree) := by
    rw [zeroizationReports_eq, ← reported_reported, ← ceremony.link, ← ceremony.waiting, ← middleLink, ← middleProgress]
    exact cust
  have undelivered : s5.ceremony.undelivered = s.zeroizationUndelivered s.custEntryFree := by
    rw [afterCeremony, middleCeremony, ceremony.undelivered]
  clear_value s5
  exact ⟨last.link.trans reported, (congrArg Ceremony.undelivered last.ceremony).trans undelivered,
    last.monitor.trans (by simp only [State.withMonitor, afterMonitor, middleMonitor]),
    last.retention.trans (by rw [withMonitor_retention, afterRetention, middleRetention, covers])⟩

end Sys2Proof.Machine
end

section
/-! PROOF. Tamper events by the mode they find (O32), and those that begin a running zeroization (O31). -/

namespace Sys2Proof.Machine

/-! ## Tamper events (R163) -/

theorem enteredEvent (s : State) (src : Source) (oc : EventOutcome) (live : s.retention.marker = true) :
    (s.latchSource src).recordEvent src oc = s.eventEntered src oc := by
  cases src with
  | command => simp [State.latchSource, Source.alarm, State.recordEvent, State.eventEntered, Source.flag, State.withRetention]
  | retentionLoss =>
    simp [State.latchSource, Source.alarm, State.recordEvent, State.eventEntered, Source.flag, State.withRetention]
  | door => simp only [State.latchSource, Source.alarm, latch_live _ _ live]; rfl
  | mesh => simp only [State.latchSource, Source.alarm, latch_live _ _ live]; rfl
  | supplyHigh => simp only [State.latchSource, Source.alarm, latch_live _ _ live]; rfl
  | clock => simp only [State.latchSource, Source.alarm, latch_live _ _ live]; rfl

theorem zeroizeDirectory_slot (s : State) (n : SlotNo) : s.zeroizeDirectory.directory.slots[n] =
    if s.directory.slots[n].state = .empty then s.directory.slots[n]
    else { s.directory.slots[n] with state := .lost, retirePending := false } := by
  simp only [State.zeroizeDirectory, withDirectory_directory]
  exact mapTable_get _ _ _

theorem zeroizeDirectory_bank (s : State) (b : Bank) :
    s.zeroizeDirectory.directory.banks[b] = { s.directory.banks[b] with lost := true } := by
  simp only [State.zeroizeDirectory, withDirectory_directory]
  exact mapTable_get _ _ _

theorem destroyCovers_flag (s : State) (src : Source) (place : Place) (live : s.retention.marker = true) :
    s.destroyCovers src place = { s with retention := { s.retention with
      covers := Vector.replicate 4 { value := Vector.replicate 32 0, valid := false }
      resume := .zeroizing
      owed := Vector.replicate 4 true
      alarmFlags := s.retention.alarmFlags ||| 0x80 ||| src.flag
      tamper :=
        { zCount := min 255 (s.retention.tamper.zCount + 1), zCause := some src, zTime := s.stamp
          zPlace := some place, eCount := min 255 (s.retention.tamper.eCount + 1)
          eSource := some src, eOutcome := some .zeroized, eTime := s.stamp } } } := by
  rw [destroyCovers_eq s src place live]
  cases src <;> rfl

theorem beginUnpowered_zeroized (s : State) (src : Source) (live : s.retention.marker = true) :
    ZeroizedUnpowered s (s.beginUnpowered src) src := by
  unfold State.beginUnpowered
  rw [destroyCovers_flag s src .unpowered live]
  cases inUse : s.directory.inUse with
  | false =>
    simp only [inUse, Bool.false_eq_true, if_false]
    exact ⟨rfl, fun _ => rfl, fun used => by rw [inUse] at used; cases used⟩
  | true =>
    simp only [inUse, if_true]
    refine ⟨?_, fun unused => absurd (unused.symm.trans inUse) (by decide), fun _ => ⟨?_, fun n => ?_, fun b => ?_⟩⟩
    · rw [State.zeroizeDirectory, State.withDirectory]
    · rw [State.zeroizeDirectory, State.withDirectory]; exact inUse
    · exact zeroizeDirectory_slot _ n
    · exact zeroizeDirectory_bank _ b

/-- A running zeroization, seen from outside. -/
theorem beginRunning_byEvent (s : State) (src : Source) (live : s.retention.marker = true) :
    ZeroizedByEvent s (s.beginRunning src) src :=
  have seen := beginRunning_seen s src live
  ⟨beginRunning_zeroized s src live, by rw [seen.link]; rfl, by rw [seen.link]; rfl, seen.undelivered⟩

/-- A tamper event by the mode it finds (R163). -/
theorem raiseTamper_judged (s : State) (src : Source) (act : Action) (live : s.retention.marker = true) :
    JudgedByMode s (s.raiseTamper src act) src act := by
  refine ⟨fun service => ⟨fun alarm => ?_, fun zeroize => ?_⟩, fun mode => ?_,
    fun mode => ⟨fun resume => ⟨fun alarm => ?_, fun zeroize => ?_⟩, fun resume => ?_⟩, fun mode => ?_⟩
  · rw [alarm, raiseTamper_service_alarm s src live service, enteredEvent s src _ live]
  · rw [zeroize, raiseTamper_service_zeroize s src live service]
    exact beginRunning_byEvent s src live
  · rw [raiseTamper_zeroizing s src act live mode, enteredEvent s src _ live]
  · have alarmed : s.raiseTamper src .alarm = (s.latchSource src).recordEvent src .alarmed := by
      obtain mode | mode | mode := mode <;> simp [State.raiseTamper, live, mode, resume]
    rw [alarm, alarmed, enteredEvent s src _ live]
  · rw [zeroize, raiseTamper_unpowered s src live mode resume]
    exact beginUnpowered_zeroized s src live
  · have recorded : s.raiseTamper src act = (s.latchSource src).recordEvent src .recorded := by
      obtain mode | mode | mode := mode <;> simp [State.raiseTamper, live, mode, resume]
    rw [recorded, enteredEvent s src _ live]
  · simp [State.raiseTamper, live, mode]

/-! ## The enclosure inputs and the supply (R149 to R152) -/

theorem enclosure_live {s : State} {c : EnclosureSettings} (live : s.retention.marker = true)
    (copy : s.retention.enclosure = some c) : s.enclosure = some c := by
  rw [State.enclosure, if_pos live, copy]

/-- The level at which an input reads tamper. -/
def EnclosureSettings.high (c : EnclosureSettings) : Enclosure → Bool
  | .door => c.doorHigh
  | .mesh => c.meshHigh

theorem samplesRead_eq {s : State} {c : EnclosureSettings} (copy : s.enclosure = some c) (input : Enclosure) (samples : Samples)
    (tamper : Bool) : s.samplesRead input samples tamper = allAt samples (c.high input == tamper) := by
  simp only [State.samplesRead, copy]
  cases input <;> rfl

/-- Samples that all read the tamper level, and such that do not. -/
theorem samplesRead_tamper {s : State} {c : EnclosureSettings} (copy : s.enclosure = some c) (input : Enclosure)
    (samples : Samples) : s.samplesRead input samples true = true ↔ ∀ i : Fin 4, samples[i] = c.high input := by
  rw [samplesRead_eq copy, allAt_iff]
  simp

section
variable {s : State} {c : EnclosureSettings} {samples : Samples} (live : s.retention.marker = true)
  (copy : s.retention.enclosure = some c)
include live copy

theorem exec_doorEvent (normal : s.retention.doorTamper = false) (all : ∀ i : Fin 4, samples[i] = c.doorHigh) :
    exec (.doorEvent samples) s = .next (State.raiseTamper { s with retention := { s.retention with doorTamper := true } } .door
      (if s.monitor.windowTimer.isSome then .alarm else c.doorAction)) := by
  have enclosure := enclosure_live live copy
  have read : s.samplesRead .door samples true = true := (samplesRead_tamper enclosure .door samples).mpr all
  have action : s.doorActionNow = if s.monitor.windowTimer.isSome then .alarm else c.doorAction := by
    simp only [State.doorActionNow, State.doorAction, enclosure]
  simp only [exec, execDoorEvent, read, State.doorOpen, enclosure, normal, action]
  rfl

theorem exec_meshEvent (normal : s.retention.meshTamper = false) (all : ∀ i : Fin 4, samples[i] = c.meshHigh) :
    exec (.meshEvent samples) s =
      .next (State.raiseTamper { s with retention := { s.retention with meshTamper := true } } .mesh .zeroize) := by
  have enclosure := enclosure_live live copy
  have read : s.samplesRead .mesh samples true = true := (samplesRead_tamper enclosure .mesh samples).mpr all
  simp only [exec, execMeshEvent, read, State.meshBroken, enclosure, normal]
  rfl

theorem enclosureEvents_unread :
    ((∃ i : Fin 4, samples[i] ≠ c.doorHigh) → exec (.doorEvent samples) s = .next s) ∧
    ((∃ i : Fin 4, samples[i] ≠ c.meshHigh) → exec (.meshEvent samples) s = .next s) := by
  have unread (input : Enclosure) (differs : ∃ i : Fin 4, samples[i] ≠ c.high input) :
      s.samplesRead input samples true = false := by
    rw [← Bool.not_eq_true, samplesRead_tamper (enclosure_live live copy)]
    exact fun all => differs.elim fun i other => other (all i)
  refine ⟨fun differs => ?_, fun differs => ?_⟩
  · simp only [exec, execDoorEvent, unread .door differs]
    rfl
  · simp only [exec, execMeshEvent, unread .mesh differs]
    rfl

end

theorem supplyWatched_iff (s : State) : s.supplyWatched = true ↔
    s.custody.record = .verified ∧ s.custody.present ≠ .backup ∧ s.custody.present ≠ .halted := by
  simp [State.supplyWatched, and_assoc]

theorem exec_supplyHighEvent {s : State} {samples : Samples} (watched : s.supplyWatched = true)
    (normal : s.monitor.supplyHigh = false) (all : ∀ i : Fin 4, samples[i] = true) : exec (.supplyHighEvent samples) s =
      .next (State.raiseTamper { s with monitor := { s.monitor with supplyHigh := true } } .supplyHigh s.supplyAction) := by
  simp only [exec, execSupplyHighEvent, watched, normal, (allAt_iff samples true).mpr all]
  rfl

theorem actionOf_byte (b : Byte) : actionOf b.toNat = if b = 2 then .alarm else .zeroize := by
  have same : b.toNat = 2 ↔ b = 2 := by rw [← BitVec.toNat_inj]; rfl
  simp only [actionOf, same]

theorem supplyAction_verified {s : State} (verified : s.custody.record = .verified) :
    s.supplyAction = if s.fuses[4] = 2 then .alarm else .zeroize := by
  rw [State.supplyAction, State.param, if_pos verified]
  exact actionOf_byte _

theorem clockAction_verified {s : State} (verified : s.custody.record = .verified) :
    s.clockAction = if s.fuses[5] = 2 then .alarm else .zeroize := by
  rw [State.clockAction, State.param, if_pos verified]
  exact actionOf_byte _

/-! ## The clock monitor (R154 to R156) -/

theorem clockWatched_iff (s : State) : s.clockWatched = true ↔
    s.custServed = true ∨ (s.custody.present = .starting ∧ s.custody.phase = .clearAllWait) := by
  simp [State.clockWatched]

/-- The measurement that ends with further cycles. -/
def State.measurementWith (s : State) (cycles : Nat) : Measurement := s.monitor.current.counting cycles

/-- A measurement of some cycle that completes an evaluation is judged with it. -/
theorem exec_clockMeasurement_fourth {s : State} {cycles : Nat} {x y z : Measurement} (watched : s.clockWatched = true)
    (evaluation : s.monitor.evaluation = [x, y, z]) (counts : 0 < (s.monitor.current.counting cycles).count) :
    exec (.clockMeasurement cycles true) s = .next (State.judgeClock { s with monitor := { s.monitor with
      current := ⟨0, false⟩ } } [x, y, z, s.monitor.current.counting cycles]) := by
  have counted : ((s.monitor.current.counting cycles).count != 0) = true := by
    rw [bne_iff_ne]; omega
  simp only [exec, execClockMeasurement, watched, if_true, evaluation, counted, Bool.and_true]
  rfl

theorem deviation_four (x y z w : Measurement) (baseline : Nat) : deviation [x, y, z, w] baseline =
    ((x.count + y.count + z.count + w.count + 2) / 4 : Nat) - (baseline : Int) := by
  have sum : ([x, y, z, w].map (·.count)).sum + 2 = x.count + y.count + z.count + w.count + 2 := by
    simp; omega
  rw [deviation, average, sum]

/-- An evaluation passes exactly when no measurement is saturated and the deviation lies in the band. -/
theorem passes_four_iff (x y z w : Measurement) (baseline band : Nat) : passes [x, y, z, w] baseline band = true ↔
    (x.saturated = false ∧ y.saturated = false ∧ z.saturated = false ∧ w.saturated = false) ∧
    -(band : Int) ≤ ((x.count + y.count + z.count + w.count + 2) / 4 : Nat) - (baseline : Int) ∧
    ((x.count + y.count + z.count + w.count + 2) / 4 : Nat) - (baseline : Int) ≤ band := by
  simp only [passes, deviation_four, Bool.and_eq_true, decide_eq_true_eq]
  simp [and_assoc]

theorem passes_four_false {x y z w : Measurement} {baseline band : Nat} (fails : x.saturated = true ∨ y.saturated = true ∨
    z.saturated = true ∨ w.saturated = true ∨
    ((x.count + y.count + z.count + w.count + 2) / 4 : Nat) - (baseline : Int) < -(band : Int) ∨
    (band : Int) < ((x.count + y.count + z.count + w.count + 2) / 4 : Nat) - (baseline : Int)) :
    passes [x, y, z, w] baseline band = false := by
  rw [← Bool.not_eq_true, passes_four_iff]
  rintro ⟨⟨noX, noY, noZ, noW⟩, low, high⟩
  simp only [noX, noY, noZ, noW, Bool.false_eq_true, false_or] at fails
  omega

/-- A failed evaluation raises the fail count, and at F an event where the record is not blank (R156). -/
theorem judgeClock_fails (s : State) (e : List Measurement) (fails : passes e s.retention.baseline s.passBand = false) :
    s.judgeClock e = if s.custody.record ≠ .blank ∧ s.monitor.failCount < 255 ∧ min 255 (s.monitor.failCount + 1) = s.failLimit
      then State.raiseTamper { s with monitor := { s.monitor with
        evaluation := [], failCount := min 255 (s.monitor.failCount + 1) } } .clock s.clockAction
      else { s with monitor := { s.monitor with evaluation := [], failCount := min 255 (s.monitor.failCount + 1) } } := by
  simp only [State.judgeClock, fails, Bool.false_eq_true, if_false]
  rfl

/-- An evaluation whose fail brings the count to F raises a CLOCK event. -/
theorem exec_clockMeasurement_raises {s : State} {cycles : Nat} {x y z : Measurement} (watched : s.clockWatched = true)
    (evaluation : s.monitor.evaluation = [x, y, z]) (counts : 0 < (s.monitor.current.counting cycles).count)
    (fails : passes [x, y, z, s.monitor.current.counting cycles] s.retention.baseline s.passBand = false)
    (record : s.custody.record ≠ .blank) (below : s.monitor.failCount < 255) (limit : s.monitor.failCount + 1 = s.failLimit) :
    exec (.clockMeasurement cycles true) s = .next (State.raiseTamper { s with monitor := { s.monitor with
      current := ⟨0, false⟩, evaluation := [], failCount := s.monitor.failCount + 1 } } .clock s.clockAction) := by
  have count : min 255 (s.monitor.failCount + 1) = s.monitor.failCount + 1 := by omega
  rw [exec_clockMeasurement_fourth watched evaluation counts]
  refine congrArg Host.Outcome.next ((judgeClock_fails _ _ (by exact fails)).trans ?_)
  refine (if_pos ⟨record, below, count.trans limit⟩).trans ?_
  simp only [count]
  rfl

/-- Settles O32: each event is raised on its judgement taken up, with its source's action, and judged by the mode. -/
theorem tamperEventsElsewhereAreJudgedByMode : Obligations.TamperEventsElsewhereAreJudgedByMode := by
  refine ⟨fun s c samples live copy => ⟨fun normal all act action => ?_, fun normal all => ?_, ?_⟩,
    fun s samples live verified notBackup notHalted normal all act action => ?_,
    fun s cycles x y z w d live verified watched evaluation measured counts deviation fails below limit act action => ?_⟩
  · exact ⟨_, exec_doorEvent live copy normal all, by rw [← action]; exact raiseTamper_judged _ _ _ live⟩
  · exact ⟨_, exec_meshEvent live copy normal all, raiseTamper_judged _ _ _ live⟩
  · exact enclosureEvents_unread live copy
  · refine ⟨_, exec_supplyHighEvent ((supplyWatched_iff s).mpr ⟨verified, notBackup, notHalted⟩) normal all, ?_⟩
    rw [action, ← supplyAction_verified verified]
    exact raiseTamper_judged _ _ _ live
  · obtain rfl : w = s.monitor.current.counting cycles := measured
    have failed : passes [x, y, z, s.monitor.current.counting cycles] s.retention.baseline s.passBand = false :=
      passes_four_false (deviation ▸ fails)
    refine ⟨_, exec_clockMeasurement_raises ((clockWatched_iff s).mpr watched) evaluation
      counts failed (by rw [verified]; decide) below limit, ?_⟩
    rw [action, ← clockAction_verified verified]
    exact raiseTamper_judged _ _ _ live

/-! ## Events in SERVICE that zeroize (R137, R163, R164) -/

/-- Retention beside what a zeroization writes is kept. -/
theorem beginRunning_keeps_tamper (s : State) (src : Source) (live : s.retention.marker = true) :
    (s.beginRunning src).retention.doorTamper = s.retention.doorTamper ∧
    (s.beginRunning src).retention.meshTamper = s.retention.meshTamper ∧
    (s.beginRunning src).retention.baseline = s.retention.baseline := by
  have retention := (beginRunning_seen s src live).retention
  rw [destroyCovers_flag s src .running live] at retention
  rw [retention]
  exact ⟨rfl, rfl, rfl⟩

/-- A request that is being taken while a zeroization begins, and then completes: u is the zeroized state. -/
theorem Zeroized.answered {s u : State} {m : Message} {src : Source} (taken : s.takeable .cust = some m)
    (zeroized : Zeroized (s.custTaking m.tag) u src) (seen : ZeroizationSeen (s.custTaking m.tag) u src) (code : Byte)
    (oc : OutcomeCode) (data : List Byte) : Zeroized s (u.finishCust m.tag code oc data) src ∧
      (u.finishCust m.tag code oc data).custProgress = none ∧
      (u.finishCust m.tag code oc data).custLink.requests = s.custLink.requests.tail ∧
      (u.finishCust m.tag code oc data).custLink.completions = s.custLink.completions ++
        s.zeroizationReports (decide (s.custLink.completions = [])) ++ [⟨m.tag, code, oc, data⟩] ∧
      (u.finishCust m.tag code oc data).ceremony.undelivered =
        s.zeroizationUndelivered (decide (s.custLink.completions = [])) := by
  have idle := takeable_cust_idle s m taken
  have free : (s.custTaking m.tag).custEntryFree = decide (s.custLink.completions = []) := by
    rw [Bool.eq_iff_iff, custEntryFree_iff, decide_eq_true_eq]
    exact ⟨fun h => h.elim id fun both => absurd both.2 (by simp), .inl⟩
  have reports (free : Bool) : (s.custTaking m.tag).zeroizationReports free = s.zeroizationReports free := by
    simp only [State.zeroizationReports, custTaking_ceremony, custTaking_custProgress, idle]
    cases s.ceremony.current <;> rfl
  have link : (u.finishCust m.tag code oc data).custLink = { s.custLink with
      requests := s.custLink.requests.tail
      completions := s.custLink.completions ++ s.zeroizationReports (decide (s.custLink.completions = [])) ++
        [⟨m.tag, code, oc, data⟩] } := by
    rw [finishCust_eq, State.custCompletes, seen.link, free, reports]
    rfl
  refine ⟨?_, rfl, by rw [link], by rw [link], ?_⟩
  · obtain ⟨covers, custody, resume, owed, tamper, flags, slots, issued, lost, erasing, conditions, wait, exec, suspended, fault,
      positions, progress, links, -, -, -, -, report, buses, current, buffer, allocations, fuses, calendar, mask, window,
      interval⟩ := zeroized
    refine ⟨covers, custody, resume, owed, tamper, flags, slots, issued, lost, erasing, conditions, wait, exec, suspended, fault,
      positions, progress, links, by rw [link], fun _ _ _ _ retires => ?_, fun _ _ _ reclaims => ?_, fun _ _ commits => ?_,
      fun o open' collecting => ?_, buses, current, buffer, allocations, fuses, calendar, mask, window, interval⟩
    · rw [idle] at retires; cases retires
    · rw [idle] at reclaims; cases reclaims
    · rw [idle] at commits; cases commits
    · exact (report o open' collecting).imp (List.mem_append_left _) id
  · rw [← free]
    exact seen.undelivered

theorem exec_zeroize {s : State} {m : Message} (passes : s.custPasses codeZeroize gateService .both parseNone m ()) :
    exec .zeroize s = .next (takeZeroize m.tag () (s.custTaking m.tag)) :=
  congrArg Host.Outcome.next (takeCust_passes _ _ _ _ _ _ m () passes)

/-- ZEROIZE begins a COMMAND zeroization and completes with the count after it. -/
theorem zeroize_zeroizes {s : State} {m : Message} (passes : s.custPasses codeZeroize gateService .both parseNone m ())
    (live : s.retention.marker = true) : ∃ t, exec .zeroize s = .next t ∧ Zeroized s t .command ∧ t.custProgress = none ∧
      t.custLink.requests = s.custLink.requests.tail ∧
      t.custLink.completions = s.custLink.completions ++
        s.zeroizationReports (decide (s.custLink.completions = [])) ++
        [⟨m.tag, codeZeroize, .ok, [BitVec.ofNat 8 (min 255 (s.retention.tamper.zCount + 1))]⟩] ∧
      t.ceremony.undelivered = s.zeroizationUndelivered (decide (s.custLink.completions = [])) := by
  obtain ⟨taken, -, gate, -⟩ := id passes
  have raised : (s.custTaking m.tag).raiseTamper .command .zeroize = (s.custTaking m.tag).beginRunning .command :=
    raiseTamper_service_zeroize _ _ live (service_of_gateService gate)
  have zeroized := beginRunning_zeroized (s.custTaking m.tag) .command live
  have seen := beginRunning_seen (s.custTaking m.tag) .command live
  have runs := exec_zeroize passes
  simp only [takeZeroize, raised] at runs
  generalize (s.custTaking m.tag).beginRunning .command = u at runs zeroized seen
  obtain ⟨-, -, -, -, tamper, -⟩ := id zeroized
  rw [tamper] at runs
  exact ⟨_, runs, zeroized.answered taken seen codeZeroize .ok _⟩

/-- Zeroized, and with it what an event leaves, tells nothing of the judgements the event has taken up. -/
theorem ZeroizedByEvent.of_doorTamper {s t : State} {src : Source} {x : Bool}
    (h : ZeroizedByEvent { s with retention := { s.retention with doorTamper := x } } t src) : ZeroizedByEvent s t src := h

theorem ZeroizedByEvent.of_meshTamper {s t : State} {src : Source} {x : Bool}
    (h : ZeroizedByEvent { s with retention := { s.retention with meshTamper := x } } t src) : ZeroizedByEvent s t src := h

theorem ZeroizedByEvent.of_supplyHigh {s t : State} {src : Source} {x : Bool}
    (h : ZeroizedByEvent { s with monitor := { s.monitor with supplyHigh := x } } t src) : ZeroizedByEvent s t src := h

/-- An event in SERVICE with the ZEROIZE action, raised in the state u. -/
theorem raised_zeroizes {s u : State} {i : Instr} {src : Source} (runs : exec i s = .next (u.raiseTamper src .zeroize))
    (live : u.retention.marker = true) (service : u.custody.present = .service) : ∃ t, exec i s = .next t ∧
      ZeroizedByEvent u t src ∧ t.retention.doorTamper = u.retention.doorTamper ∧
      t.retention.meshTamper = u.retention.meshTamper ∧ t.retention.baseline = u.retention.baseline ∧
      t.monitor = { u.monitor with intervalTimer := none } := by
  rw [raiseTamper_service_zeroize u src live service] at runs
  obtain ⟨door, mesh, baseline⟩ := beginRunning_keeps_tamper u src live
  exact ⟨_, runs, beginRunning_byEvent u src live, door, mesh, baseline, (beginRunning_seen u src live).monitor⟩

/-- Settles O31: a running zeroization of the state with the event's judgement taken up, which is one of the state before it, as
ZeroizedByEvent tells nothing of the judgement. -/
theorem eventsInServiceBeginAZeroization : Obligations.EventsInServiceBeginAZeroization := by
  refine ⟨custEntryFree_iff, fun s m passes live => zeroize_zeroizes passes live,
    fun s c samples service live copy => ⟨fun normal closed action all => ?_, fun normal all => ?_,
      fun verified normal action all => ?_⟩⟩
  · have raised := exec_doorEvent live copy normal all
    rw [closed, action] at raised
    obtain ⟨t, runs, zeroized, door, -⟩ := raised_zeroizes raised live service
    exact ⟨t, runs, zeroized.of_doorTamper, door⟩
  · obtain ⟨t, runs, zeroized, -, mesh, -⟩ := raised_zeroizes (exec_meshEvent live copy normal all) live service
    exact ⟨t, runs, zeroized.of_meshTamper, mesh⟩
  · have watched : s.supplyWatched = true := (supplyWatched_iff s).mpr ⟨verified, by rw [service]; decide, by rw [service]; decide⟩
    have raised := exec_supplyHighEvent watched normal all
    rw [action] at raised
    obtain ⟨t, runs, zeroized, -, -, -, monitor⟩ := raised_zeroizes raised live service
    exact ⟨t, runs, zeroized.of_supplyHigh, congrArg Monitor.supplyHigh monitor⟩

end Sys2Proof.Machine
end

section
/-! PROOF. The service window (O26) and the monitors that raise nothing (O33). -/

namespace Sys2Proof.Machine

/-! ## The service window (R131, R132, R151) -/

/-- The state with the window closed, before the door is judged again. -/
def State.windowShut (s : State) : State := { s with monitor := { s.monitor with windowTimer := none } }

theorem closeWindow_eq (s : State) :
    s.closeWindow = if s.doorOpen then s.windowShut.raiseTamper .door s.doorAction else s.windowShut := rfl

/-- A door that reads open has a settings copy, so the validity marker stands. -/
theorem live_of_doorOpen {s : State} (door : s.doorOpen = true) : s.retention.marker = true := by
  cases live : s.retention.marker with
  | true => rfl
  | false => simp [State.doorOpen, State.enclosure, live] at door

section
variable {s : State}

theorem closeWindow_shut (door : s.doorOpen = false) : s.closeWindow = s.windowShut := by
  rw [closeWindow_eq, door]
  rfl

variable (door : s.doorOpen = true)
include door

theorem closeWindow_alarms (service : s.custody.present = .service) (action : s.doorAction = .alarm) :
    s.closeWindow = s.windowShut.eventEntered .door .alarmed := by
  have live := live_of_doorOpen door
  rw [closeWindow_eq, if_pos door, action, raiseTamper_service_alarm s.windowShut .door live service,
    enteredEvent s.windowShut .door _ live]

theorem closeWindow_zeroizes (service : s.custody.present = .service) (action : s.doorAction = .zeroize) :
    s.closeWindow = s.windowShut.beginRunning .door := by
  rw [closeWindow_eq, if_pos door, action, raiseTamper_service_zeroize s.windowShut .door (live_of_doorOpen door) service]

theorem closeWindow_records (mode : s.custody.present = .zeroizing ∨ s.custody.present = .recovery) :
    s.closeWindow = s.windowShut.eventEntered .door .recorded := by
  have live := live_of_doorOpen door
  rw [closeWindow_eq, if_pos door, raiseTamper_zeroizing s.windowShut .door _ live mode, enteredEvent s.windowShut .door _ live]

end

theorem exec_openServiceWindow {s : State} {m : Message}
    (passes : s.custPasses codeOpenWindow gateService .both parseNone m ()) : exec .openServiceWindow s = .next
      { s.custAnswered m.tag codeOpenWindow .ok (be16 s.windowMaximum) with
        monitor := { s.monitor with windowTimer := some (s.windowMaximum * cyclesPerSecond) } } := by
  have runs : exec .openServiceWindow s = .next (takeOpenWindow m.tag () (s.custTaking m.tag)) :=
    congrArg Host.Outcome.next (takeCust_passes _ _ _ _ _ _ m () passes)
  rw [runs]
  exact congrArg (fun u : State => Host.Outcome.next { u with
      monitor := { s.monitor with windowTimer := some (s.windowMaximum * cyclesPerSecond) } })
    (finishCust_custTaking s m passes.1 m.tag _ _ _ (be16 s.windowMaximum))

section
variable {s : State} {m : Message} (passes : s.custPasses codeCloseWindow gateService .either parseNone m ())
include passes

theorem exec_closeServiceWindow : exec .closeServiceWindow s = .next (takeCloseWindow m.tag () (s.custTaking m.tag)) :=
  congrArg Host.Outcome.next (takeCust_passes _ _ _ _ _ _ m () passes)

theorem exec_closeServiceWindow_closed (closed : s.monitor.windowTimer = none) :
    exec .closeServiceWindow s = .next (s.custAnswered m.tag codeCloseWindow .ok [0]) := by
  rw [exec_closeServiceWindow passes]
  simp only [takeCloseWindow, custTaking_monitor, closed]
  exact congrArg Host.Outcome.next (finishCust_custTaking s m passes.1 m.tag _ _ _ _)

theorem exec_closeServiceWindow_open (opened : s.monitor.windowTimer ≠ none) : exec .closeServiceWindow s =
    .next ((s.custTaking m.tag).closeWindow.finishCust m.tag codeCloseWindow .ok [1]) := by
  rw [exec_closeServiceWindow passes]
  have isSome : s.monitor.windowTimer.isSome = true := Option.isSome_iff_ne_none.mpr opened
  simp only [takeCloseWindow, custTaking_monitor, isSome, if_true]
  rfl

variable (opened : s.monitor.windowTimer ≠ none)
include opened

theorem exec_closeServiceWindow_shut (door : s.doorOpen = false) : exec .closeServiceWindow s = .next
    { s.custAnswered m.tag codeCloseWindow .ok [1] with monitor := { s.monitor with windowTimer := none } } := by
  rw [exec_closeServiceWindow_open passes opened, closeWindow_shut (s := s.custTaking m.tag) door]
  exact congrArg (fun u : State => Host.Outcome.next { u with monitor := { s.monitor with windowTimer := none } })
    (finishCust_custTaking s m passes.1 m.tag m.tag codeCloseWindow .ok [1])

variable (door : s.doorOpen = true)
include door

theorem exec_closeServiceWindow_alarms (action : s.doorAction = .alarm) : exec .closeServiceWindow s = .next
    { s.custAnswered m.tag codeCloseWindow .ok [1] with
      monitor := { s.monitor with windowTimer := none }
      retention := (s.eventEntered .door .alarmed).retention } := by
  obtain ⟨taken, -, gate, -⟩ := id passes
  rw [exec_closeServiceWindow_open passes opened,
    closeWindow_alarms (s := s.custTaking m.tag) door (service_of_gateService gate) action]
  exact congrArg (fun u : State => Host.Outcome.next { u with
      monitor := { s.monitor with windowTimer := none }, retention := (s.eventEntered .door .alarmed).retention })
    (finishCust_custTaking s m taken m.tag m.tag codeCloseWindow .ok [1])

theorem closeServiceWindow_zeroizes (action : s.doorAction = .zeroize) : ∃ t, exec .closeServiceWindow s = .next t ∧
    Zeroized s.windowShut t .door ∧ t.custProgress = none ∧ t.custLink.requests = s.custLink.requests.tail ∧
    t.custLink.completions = s.custLink.completions ++
      s.zeroizationReports (decide (s.custLink.completions = [])) ++ [⟨m.tag, codeCloseWindow, .ok, [1]⟩] ∧
    t.ceremony.undelivered = s.zeroizationUndelivered (decide (s.custLink.completions = [])) := by
  obtain ⟨taken, -, gate, -⟩ := id passes
  have live := live_of_doorOpen door
  have runs := exec_closeServiceWindow_open passes opened
  have shut : (s.custTaking m.tag).windowShut = s.windowShut.custTaking m.tag := rfl
  rw [closeWindow_zeroizes (s := s.custTaking m.tag) door (service_of_gateService gate) action, shut] at runs
  have zeroized := beginRunning_zeroized (s.windowShut.custTaking m.tag) .door live
  have seen := beginRunning_seen (s.windowShut.custTaking m.tag) .door live
  generalize (s.windowShut.custTaking m.tag).beginRunning .door = u at runs zeroized seen
  exact ⟨_, runs, Zeroized.answered (s := s.windowShut) taken zeroized seen codeCloseWindow .ok [1]⟩

end

theorem exec_serviceWindowExpiry (s : State) :
    exec .serviceWindowExpiry s = .next (if s.monitor.windowTimer = some 0 then s.closeWindow else s) := by
  simp only [exec, execServiceWindowExpiry, beq_iff_eq]
  split <;> rfl

/-- Settles O26: the CLOSE and the expiry close the window by the same rules. -/
theorem serviceWindowOpensAndCloses : Obligations.ServiceWindowOpensAndCloses := by
  refine ⟨fun s m => ⟨fun passes => exec_openServiceWindow passes, fun passes =>
      ⟨fun closed => exec_closeServiceWindow_closed passes closed,
        fun opened door => exec_closeServiceWindow_shut passes opened door,
        fun opened door action => exec_closeServiceWindow_alarms passes opened door action,
        fun opened door action => closeServiceWindow_zeroizes passes opened door action⟩⟩,
    fun s => ⟨fun runs => ?_, fun due door => ?_, fun due door => ⟨fun service action => ?_, fun service action => ?_,
      fun mode => ?_⟩⟩⟩
  · rw [exec_serviceWindowExpiry, if_neg runs]
  · rw [exec_serviceWindowExpiry, if_pos due, closeWindow_shut door]
    rfl
  · rw [exec_serviceWindowExpiry, if_pos due, closeWindow_alarms door service action]
    rfl
  · rw [exec_serviceWindowExpiry, if_pos due, closeWindow_zeroizes door service action]
    exact ⟨_, rfl, beginRunning_byEvent s.windowShut .door (live_of_doorOpen door)⟩
  · rw [exec_serviceWindowExpiry, if_pos due, closeWindow_records door mode]
    rfl

/-! ## What returns to normal (R150, R152) -/

theorem samplesRead_normal {s : State} {c : EnclosureSettings} (copy : s.enclosure = some c) (input : Enclosure)
    (samples : Samples) : s.samplesRead input samples false = true ↔ ∀ i : Fin 4, samples[i] = !c.high input := by
  rw [samplesRead_eq copy, allAt_iff]
  simp

theorem exec_enclosureNormal (s : State) (input : Enclosure) (samples : Samples) : exec (.enclosureNormal input samples) s =
    .next (if s.samplesRead input samples false then { s with retention := (match input with
      | .door => { s.retention with doorTamper := false }
      | .mesh => { s.retention with meshTamper := false }) } else s) := by
  simp only [exec, execEnclosureNormal]
  split
  · cases input <;> rfl
  · rfl

theorem enclosureNormal_read {s : State} {c : EnclosureSettings} (samples : Samples) (live : s.retention.marker = true)
    (copy : s.retention.enclosure = some c) :
    ((∀ i : Fin 4, samples[i] = !c.doorHigh) → exec (.enclosureNormal .door samples) s =
      .next { s with retention := { s.retention with doorTamper := false } }) ∧
    ((∀ i : Fin 4, samples[i] = !c.meshHigh) → exec (.enclosureNormal .mesh samples) s =
      .next { s with retention := { s.retention with meshTamper := false } }) ∧
    ((∃ i : Fin 4, samples[i] = c.doorHigh) → exec (.enclosureNormal .door samples) s = .next s) ∧
    ((∃ i : Fin 4, samples[i] = c.meshHigh) → exec (.enclosureNormal .mesh samples) s = .next s) := by
  have enclosure := enclosure_live live copy
  have unread (input : Enclosure) (differs : ∃ i : Fin 4, samples[i] = c.high input) :
      exec (.enclosureNormal input samples) s = .next s := by
    rw [exec_enclosureNormal, if_neg]
    rw [samplesRead_normal enclosure]
    obtain ⟨i, same⟩ := differs
    intro all
    rw [all i] at same
    cases high : c.high input <;> rw [high] at same <;> cases same
  refine ⟨fun all => ?_, fun all => ?_, unread .door, unread .mesh⟩
  · rw [exec_enclosureNormal, if_pos ((samplesRead_normal enclosure .door samples).mpr all)]
  · rw [exec_enclosureNormal, if_pos ((samplesRead_normal enclosure .mesh samples).mpr all)]

theorem enclosureNormal_absent {s : State} (absent : s.retention.marker = false ∨ s.retention.enclosure = none)
    (input : Enclosure) (samples : Samples) : exec (.enclosureNormal input samples) s = .next s := by
  have noCopy : s.enclosure = none := by
    unfold State.enclosure
    obtain lost | empty := absent
    · simp [lost]
    · simp [empty]
  have unread : s.samplesRead input samples false = false := by simp only [State.samplesRead, noCopy]
  rw [exec_enclosureNormal, unread]
  rfl

theorem exec_batteryLow (s : State) (samples : Samples) : exec (.batteryLow samples) s =
    .next (if s.retention.batteryLow = false ∧ ∀ i : Fin 4, samples[i] = true
      then (s.withRetention fun r => { r with batteryLow := true }).latch .batteryLow else s) := by
  simp only [exec, execBatteryLow, Bool.and_eq_true, Bool.not_eq_true', allAt_iff]
  split <;> rfl

theorem exec_batteryNotLow (s : State) (samples : Samples) : exec (.batteryNotLow samples) s =
    .next (if ∀ i : Fin 4, samples[i] = false then { s with retention := { s.retention with batteryLow := false } } else s) := by
  simp only [exec, execBatteryNotLow, allAt_iff]
  rfl

theorem exec_supplyNotHigh (s : State) (samples : Samples) : exec (.supplyNotHigh samples) s =
    .next (if s.supplyWatched = true ∧ ∀ i : Fin 4, samples[i] = false
      then { s with monitor := { s.monitor with supplyHigh := false } } else s) := by
  simp only [exec, execSupplyNotHigh, Bool.and_eq_true, allAt_iff]
  split <;> rfl

/-- Samples that differ change neither judgement. -/
theorem comparisons_unread (s : State) (samples : Samples) :
    ((∃ i : Fin 4, samples[i] = false) →
      exec (.supplyHighEvent samples) s = .next s ∧ exec (.batteryLow samples) s = .next s) ∧
    ((∃ i : Fin 4, samples[i] = true) →
      exec (.supplyNotHigh samples) s = .next s ∧ exec (.batteryNotLow samples) s = .next s) := by
  refine ⟨fun low => ⟨?_, ?_⟩, fun high => ⟨?_, ?_⟩⟩
  · simp only [exec, execSupplyHighEvent, not_allAt (high := true) low, Bool.and_false, Bool.false_eq_true, if_false]
  · simp only [exec, execBatteryLow, not_allAt (high := true) low, Bool.and_false, Bool.false_eq_true, if_false]
  · simp only [exec, execSupplyNotHigh, not_allAt (high := false) high, Bool.and_false, Bool.false_eq_true, if_false]
  · simp only [exec, execBatteryNotLow, not_allAt (high := false) high, Bool.false_eq_true, if_false]

/-- Settles O33, each monitor by its equation. -/
theorem monitorsJudgeWithoutEvents : Obligations.MonitorsJudgeWithoutEvents := by
  refine fun s => ⟨fun c samples live copy => enclosureNormal_read samples live copy,
    fun absent input samples => enclosureNormal_absent absent input samples,
    fun samples all verified notBackup notHalted => ?_, fun samples all normal live => ?_, fun samples all => ?_,
    comparisons_unread s⟩
  · rw [exec_supplyNotHigh, if_pos ⟨(supplyWatched_iff s).mpr ⟨verified, notBackup, notHalted⟩, all⟩]
  · rw [exec_batteryLow, if_pos ⟨normal, all⟩, latch_live _ _ (by exact live)]
    rfl
  · rw [exec_batteryNotLow, if_pos all]

end Sys2Proof.Machine
end

section
/-! PROOF. The clock monitor (O34). -/

namespace Sys2Proof.Machine

/-- A measurement that goes on counts its cycles. -/
theorem exec_clockMeasurement_counts {s : State} (cycles : Nat) (watched : s.clockWatched = true) :
    exec (.clockMeasurement cycles false) s = .next { s with monitor := { s.monitor with
      current := s.monitor.current.counting cycles } } := by
  simp only [exec, execClockMeasurement, watched, if_true, Bool.false_eq_true, if_false]
  rfl

/-- The first three measurements of some cycle only join the evaluation. -/
theorem exec_clockMeasurement_joins {s : State} {cycles : Nat} (watched : s.clockWatched = true)
    (counts : 0 < (s.monitor.current.counting cycles).count) (short : s.monitor.evaluation.length < 3) :
    exec (.clockMeasurement cycles true) s = .next { s with monitor := { s.monitor with
      current := ⟨0, false⟩, evaluation := s.monitor.evaluation ++ [s.monitor.current.counting cycles] } } := by
  have counted : ((s.monitor.current.counting cycles).count != 0) = true := by
    rw [bne_iff_ne]; omega
  have joins : (s.monitor.evaluation ++ [s.monitor.current.counting cycles]).length < 4 := by
    rw [List.length_append]
    exact Nat.add_lt_add_right short 1
  simp only [exec, execClockMeasurement, watched, if_true, counted, Bool.and_true, if_pos joins]
  rfl

/-- A pass moves the baseline by its step, and clears the fail count (R155). -/
theorem judgeClock_passes (s : State) (e : List Measurement) (good : passes e s.retention.baseline s.passBand = true) :
    s.judgeClock e = { s with
      retention := { s.retention with baseline := s.steppedBaseline e }
      monitor := { s.monitor with evaluation := [], failCount := 0 } } := by
  simp only [State.judgeClock, good, if_true]
  rfl

theorem limitBaseline_eq (limit : Nat) (b : Int) (within : limit ≤ 3906) : (limitBaseline limit b : Int) =
    max (3906 - (limit : Int)) (min (3906 + (limit : Int)) b) := by
  unfold limitBaseline nominalCount
  split
  · omega
  · split
    · omega
    · omega

/-- A failed evaluation without an event. -/
theorem exec_clockMeasurement_fails {s : State} {cycles : Nat} {x y z : Measurement} (watched : s.clockWatched = true)
    (evaluation : s.monitor.evaluation = [x, y, z]) (counts : 0 < (s.monitor.current.counting cycles).count)
    (fails : passes [x, y, z, s.monitor.current.counting cycles] s.retention.baseline s.passBand = false)
    (quiet : s.monitor.failCount = 255 ∨ s.monitor.failCount + 1 ≠ s.failLimit ∨ s.custody.record = .blank) :
    exec (.clockMeasurement cycles true) s = .next { s with monitor := { s.monitor with
      current := ⟨0, false⟩, evaluation := [], failCount := min 255 (s.monitor.failCount + 1) } } := by
  rw [exec_clockMeasurement_fourth watched evaluation counts]
  refine congrArg Host.Outcome.next ((judgeClock_fails _ _ (by exact fails)).trans (if_neg ?_))
  rintro ⟨record, below, limit⟩
  have count : min 255 (s.monitor.failCount + 1) = s.monitor.failCount + 1 := Nat.min_eq_right below
  rcases quiet with full | other | blank
  · exact absurd below (by simp only [full]; decide)
  · exact other (count.symm.trans limit)
  · exact record blank

/-- A fourth measurement of no cycle is judged with the evaluation too: the crystal has stopped (R174). -/
theorem exec_clockMeasurement_stopped {s : State} (watched : s.clockWatched = true)
    (evaluation : s.monitor.evaluation = [⟨0, false⟩, ⟨0, false⟩, ⟨0, false⟩]) (current : s.monitor.current = ⟨0, false⟩) :
    exec (.clockMeasurement 0 true) s = .next (State.judgeClock { s with
      custody := { s.custody with crystalOk := false }
      monitor := { s.monitor with current := ⟨0, false⟩ } } [⟨0, false⟩, ⟨0, false⟩, ⟨0, false⟩, ⟨0, false⟩]) := by
  have none : Measurement.counting ⟨0, false⟩ 0 = ⟨0, false⟩ := rfl
  simp only [exec, execClockMeasurement, watched, if_true, evaluation, current, none, bne_self_eq_false, Bool.and_false]
  rfl

/-- Zeroized tells nothing of the clock monitor's counts. -/
theorem Zeroized.of_clock {s t : State} {src : Source} {current : Measurement} {evaluation : List Measurement} {fails : Nat}
    (h : Zeroized { s with monitor := { s.monitor with
      current := current, evaluation := evaluation, failCount := fails } } t src) : Zeroized s t src := h

/-- Settles O34: an evaluation is judged by its deviation and its saturated measurements. -/
theorem clockEvaluationPassesOrFails : Obligations.ClockEvaluationPassesOrFails := by
  refine ⟨fun s cycles w mode measured => ?_, fun s served evaluation current band quiet => ?_,
    fun s cycles x y z w service live verified evaluation measured fails below limit action counts => ?_⟩
  · have watched := (clockWatched_iff s).mpr mode
    obtain rfl : w = s.monitor.current.counting cycles := measured
    refine ⟨exec_clockMeasurement_counts cycles watched, exec_clockMeasurement_joins watched,
      fun x y z counts evaluation d deviation => ⟨fun noX noY noZ noW limit low high => ?_, fun fails quiet => ?_⟩⟩
    · have good : passes [x, y, z, s.monitor.current.counting cycles] s.retention.baseline s.passBand = true :=
        (passes_four_iff x y z _ _ _).mpr ⟨⟨noX, noY, noZ, noW⟩, by rw [← deviation]; exact ⟨low, high⟩⟩
      refine ⟨_, ?_, (exec_clockMeasurement_fourth watched evaluation counts).trans
        (congrArg Host.Outcome.next (judgeClock_passes _ _ good))⟩
      have deviated : Machine.deviation [x, y, z, s.monitor.current.counting cycles] s.retention.baseline = d := by
        rw [deviation, deviation_four]
      refine (limitBaseline_eq _ _ (limit.trans (by decide))).trans ?_
      rw [← deviated]
      rfl
    · refine exec_clockMeasurement_fails watched evaluation counts ?_ quiet
      exact passes_four_false (deviation ▸ fails)
  · have watched := (clockWatched_iff s).mpr (.inl (by rw [State.custServed, served]; rfl))
    have fails : passes [⟨0, false⟩, ⟨0, false⟩, ⟨0, false⟩, ⟨0, false⟩] s.retention.baseline s.passBand = false := by
      refine passes_four_false (.inr (.inr (.inr (.inr (.inl ?_)))))
      simp only
      omega
    rw [exec_clockMeasurement_stopped watched evaluation current, judgeClock_fails _ _ (by exact fails), if_neg]
    · exact ⟨_, rfl, rfl, by rw [← current]⟩
    · rintro ⟨-, below, limit⟩
      have count : min 255 (s.monitor.failCount + 1) = s.monitor.failCount + 1 := Nat.min_eq_right below
      exact quiet.elim (fun full => absurd below (by simp only [full]; decide)) fun other => other (count.symm.trans limit)
  · obtain rfl : w = s.monitor.current.counting cycles := measured
    have watched := (clockWatched_iff s).mpr (.inl (by simp [State.custServed, State.lineServed, service]))
    have raised := exec_clockMeasurement_raises watched evaluation counts fails (by rw [verified]; decide) below limit
    rw [action] at raised
    obtain ⟨t, runs, ⟨zeroized, -⟩, -, -, baseline, monitor⟩ := raised_zeroizes raised live service
    exact ⟨t, runs, zeroized.of_clock, congrArg Monitor.failCount monitor, baseline⟩

end Sys2Proof.Machine
end

section
/-! SUPPORT. The arbiter's rotation (R108), and the pattern tests (O35). -/

namespace Sys2Proof.Machine

/-! ## The rotation (R108, R111) -/

theorem rotation_length (c : ArrayControl) : c.rotation.length = 5 := rfl

theorem rotation_get (c : ArrayControl) (i : Nat) (h : i < c.rotation.length) :
    c.rotation[i].val = (c.lastServed.val + 1 + i) % 5 := by
  have bound : i < 5 := h
  interval_cases i <;> simp [ArrayControl.rotation, Fin.val_add]
  omega

theorem rotation_mem (c : ArrayControl) (k : Fin 5) : k ∈ c.rotation := by
  rw [List.mem_iff_getElem]
  refine ⟨(k.val + 4 - c.lastServed.val) % 5, by rw [rotation_length]; omega, Fin.ext ?_⟩
  rw [rotation_get]
  omega

/-- The first client that passes, from the one after the last served on. -/
theorem rotation_find (c : ArrayControl) (p : Fin 5 → Bool) {k : Fin 5} (passes : p k = true)
    (turn : ∃ j < 5, k.val = (c.lastServed.val + 1 + j) % 5 ∧
      ∀ i < j, ∀ k' : Fin 5, k'.val = (c.lastServed.val + 1 + i) % 5 → p k' = false) : c.rotation.find? p = some k := by
  obtain ⟨j, bound, place, before⟩ := turn
  rw [List.find?_eq_some_iff_getElem]
  refine ⟨passes, j, bound, Fin.ext ((rotation_get c j bound).trans place.symm), fun i earlier => ?_⟩
  rw [Bool.not_eq_true', before i earlier]
  exact rotation_get c i (earlier.trans bound)

theorem nextRead_of_turn {c : ArrayControl} {k : Fin 5} (waits : c.readWaits k = true) (turn : c.turnOf k) :
    c.nextRead = some k := rotation_find c _ waits turn

theorem nextRead_none {c : ArrayControl} (unread : ∀ k, c.readWaits k = false) : c.nextRead = none := by
  simp [ArrayControl.nextRead, List.find?_eq_none, unread]

theorem nextLineRead_of_turn {c : ArrayControl} {k : Fin 5} (line : k.val < 4) (waits : c.readWaits k = true)
    (turn : c.lineTurnOf k) : c.nextLineRead = some k := by
  obtain ⟨j, bound, place, before⟩ := turn
  refine rotation_find c _ (by simp [line, waits]) ⟨j, bound, place, fun i earlier k' there => ?_⟩
  by_cases line' : k'.val < 4
  · simp [before i earlier k' line' there]
  · simp [line']

theorem readWaits_line (c : ArrayControl) (l : Line) : c.readWaits (l.castLT (by omega)) = (c.lineWait[l]).isSome := by
  have bound : (l.castLT (by omega) : Fin 5).val < 4 := l.isLt
  simp only [ArrayControl.readWaits, dif_pos bound]
  rfl

theorem readWaits_test (c : ArrayControl) : c.readWaits 4 = c.testWait.isSome := rfl

theorem lineReadWaits_iff (c : ArrayControl) : c.lineReadWaits = true ↔ ∃ l : Line, c.lineWait[l] ≠ none := by
  simp only [ArrayControl.lineReadWaits, ArrayControl.nextLineRead, List.find?_isSome, Bool.and_eq_true, decide_eq_true_eq]
  constructor
  · rintro ⟨k, -, line, waits⟩
    refine ⟨⟨k.val, line⟩, Option.isSome_iff_ne_none.mp ?_⟩
    rw [← readWaits_line c ⟨k.val, line⟩]
    exact waits
  · rintro ⟨l, waits⟩
    exact ⟨l.castLT (by omega), rotation_mem c _, l.isLt, (readWaits_line c l).trans (Option.isSome_iff_ne_none.mpr waits)⟩

theorem lineReadWaits_false_iff (c : ArrayControl) : c.lineReadWaits = false ↔ ∀ l : Line, c.lineWait[l] = none := by
  rw [← Bool.not_eq_true, lineReadWaits_iff]
  simp

/-! ## The pattern tests (R157 to R159) -/

theorem testOutstanding_iff (c : ArrayControl) : c.testOutstanding = true ↔
    c.testWait.isSome = true ∨ ∃ b : Bank, c.exec = some (.readReference b) := by
  simp only [ArrayControl.testOutstanding, Bool.or_eq_true]
  refine or_congr Iff.rfl ?_
  split
  · next b runs => simp [runs]
  · next other =>
    simp only [Bool.false_eq_true, false_iff]
    rintro ⟨b, runs⟩
    exact other b runs

theorem exec_patternTestInterval (s : State) : exec .patternTestInterval s = .next
    (if s.custody.present = .service ∧ s.monitor.intervalTimer = some 0 then
      { s with
        monitor := { s.monitor with intervalTimer := some (s.testInterval * cyclesPerSecond) }
        control := if s.control.testOutstanding then s.control else { s.control with testWait := some s.retention.nextTest } }
      else s) := by
  simp only [exec, execPatternTestInterval, Bool.and_eq_true, beq_iff_eq]
  split
  · split <;> rfl
  · rfl

/-- A test whose turn comes with its bank ERASING is skipped (R100). -/
theorem skipsTest_of_turn {s : State} {b : Bank} (idle : s.control.exec = none) (none : s.control.suspended = none)
    (waits : s.control.testWait = some b) (turn : s.control.turnOf 4) (erasing : s.directory.banks[b].condition = .erasing) :
    s.skipsTest = some b := by
  have next : s.control.nextRead = some 4 := nextRead_of_turn (by rw [readWaits_test, waits]; rfl) turn
  simp only [State.skipsTest, idle, none, next, waits, and_self, if_true, erasing]

theorem endSkipped_eq (s : State) (b : Bank) : s.endSkipped b = s.skipped b := rfl

/-- The judgement of a row leaves this beside the bank's record (R17, R158, R160). -/
theorem setDegraded_eq (s : State) (b : Bank) : s.setDegraded b = { s with
    directory := { s.directory with banks := put s.directory.banks b { s.directory.banks[b] with degraded := true } }
    retention := { s.retention with alarmFlags :=
      if s.directory.banks[b].degraded = false ∧ s.lineServed = true ∧ s.retention.marker = true
      then s.retention.alarmFlags ||| 0x20 else s.retention.alarmFlags } } := by
  unfold State.setDegraded
  extract_lets t
  by_cases latches : s.directory.banks[b].degraded = false ∧ s.lineServed = true
  · rw [if_pos latches]
    by_cases live : s.retention.marker = true
    · rw [latch_live _ _ (by exact live), if_pos ⟨latches.1, latches.2, live⟩]
      rfl
    · rw [latch_lost _ _ (by exact Bool.not_eq_true _ ▸ live), if_neg fun all => live all.2.2]
      rfl
  · rw [if_neg latches, if_neg fun both => latches ⟨both.1, both.2.1⟩]
    rfl

/-- The record of a test that has read its row (R158). -/
def State.testRecord (s : State) (b : Bank) (diff : List Byte) : TestRecord :=
  if s.deltaThreshold < mismatchCount diff then
    { last := some .fail, mismatches := mismatchCount diff, fails := min 255 (s.retention.tests[b].fails + 1)
      firstFail := some (firstDiffering diff), time := s.stamp }
  else { s.retention.tests[b] with last := some .pass, mismatches := mismatchCount diff, time := s.stamp }

/-- Whether a test's fail is the one that sets the degraded flag (R17, R159). -/
def State.testDegrades (s : State) (b : Bank) (diff : List Byte) : Prop :=
  s.deltaThreshold < mismatchCount diff ∧ s.retention.tests[b].fails < 255 ∧
    min 255 (s.retention.tests[b].fails + 1) = s.testFailThreshold

/-- The state with a test's record written. -/
def State.testWritten (s : State) (b : Bank) (diff : List Byte) : State :=
  { s with retention := { s.retention with
      tests := put s.retention.tests b (s.testRecord b diff), nextTest := s.retention.nextTest + 1 } }

theorem judgeRow_written (s : State) (b : Bank) (diff : List Byte) (sound : ¬ s.testDegrades b diff) :
    s.judgeRow b diff = s.testWritten b diff := by
  unfold State.judgeRow State.testWritten State.testRecord
  by_cases fails : s.deltaThreshold < mismatchCount diff
  · simp only [fails, if_true]
    exact if_neg fun both => sound ⟨fails, both⟩
  · simp only [fails, if_false]
    rfl

theorem judgeRow_degrades (s : State) (b : Bank) (diff : List Byte) (degrades : s.testDegrades b diff) :
    s.judgeRow b diff = (s.testWritten b diff).setDegraded b := by
  unfold State.judgeRow State.testWritten State.testRecord
  obtain ⟨fails, both⟩ := degrades
  simp only [fails, if_true]
  exact if_pos both

/-- What a result leaves: the bank's record written, and with a fail at the threshold the bank degraded. -/
theorem exec_patternTestResult (s : State) (b : Bank) (drift : List Byte) (runs : s.control.exec = some (.readReference b))
    (diff : List Byte) (read : diff = patternDiff s.array.rows[b] drift) : ∃ d a,
      exec (.patternTestResult drift) s = .next { s with
        control := { s.control with exec := none }, directory := d
        retention := { s.retention with
          tests := put s.retention.tests b (s.testRecord b diff), nextTest := s.retention.nextTest + 1, alarmFlags := a } } ∧
      (¬ s.testDegrades b diff → d = s.directory ∧ a = s.retention.alarmFlags) ∧
      (s.testDegrades b diff → d = { s.directory with
          banks := put s.directory.banks b { s.directory.banks[b] with degraded := true } } ∧
        a = if s.directory.banks[b].degraded = false ∧ s.lineServed = true ∧ s.retention.marker = true
          then s.retention.alarmFlags ||| 0x20 else s.retention.alarmFlags) := by
  simp only [exec, execPatternTestResult, runs, ← read]
  by_cases degrades : s.testDegrades b diff
  · rw [judgeRow_degrades s.execEnded b diff degrades, setDegraded_eq]
    exact ⟨_, _, rfl, fun sound => absurd degrades sound, fun _ => ⟨rfl, rfl⟩⟩
  · rw [judgeRow_written s.execEnded b diff degrades]
    exact ⟨_, _, rfl, fun _ => ⟨rfl, rfl⟩, fun other => absurd other degrades⟩

theorem testRecord_passed {s : State} {b : Bank} {diff : List Byte} (low : mismatchCount diff ≤ s.deltaThreshold) :
    s.testRecord b diff = { s.retention.tests[b] with
      last := some .pass, mismatches := mismatchCount diff, time := s.stamp } := if_neg (Nat.not_lt.mpr low)

theorem testRecord_failed {s : State} {b : Bank} {diff : List Byte} (high : s.deltaThreshold < mismatchCount diff) :
    s.testRecord b diff = { last := some .fail, mismatches := mismatchCount diff, fails := min 255 (s.retention.tests[b].fails + 1)
                            firstFail := some (firstDiffering diff), time := s.stamp } := if_pos high

/-- Settles O35: a result writes its bank's record, and the fail that reaches the threshold degrades the bank. -/
theorem patternTestsRunAndAreJudged : Obligations.PatternTestsRunAndAreJudged := by
  refine ⟨fun s => ⟨fun service due => ⟨fun idle other => ?_, fun outstanding => ?_⟩, fun rests => ?_⟩,
    fun s b drift runs => ?_, fun s b drift idle unsuspended waits turn erasing => ?_⟩
  · have free : s.control.testOutstanding = false := by
      rw [← Bool.not_eq_true, testOutstanding_iff, idle]
      rintro (waits | ⟨b, runs⟩)
      · cases waits
      · exact other b runs
    rw [exec_patternTestInterval, if_pos ⟨service, due⟩, free]
    rfl
  · rw [exec_patternTestInterval, if_pos ⟨service, due⟩, (testOutstanding_iff _).mpr outstanding]
    rfl
  · rw [exec_patternTestInterval, if_neg fun both => rests.elim (· both.1) (· both.2)]
  · obtain ⟨diff, read⟩ : ∃ diff, diff = patternDiff s.array.rows[b] drift := ⟨_, rfl⟩
    obtain ⟨d, a, left, sound, degraded⟩ := exec_patternTestResult s b drift runs diff read
    have record : (put s.retention.tests b (s.testRecord b diff))[b] = s.testRecord b diff := put_get_same _ _ _
    rw [left, ← read]
    refine ⟨_, rfl, rfl, rfl, rfl, fun b' other => put_get_other _ _ _ _ (Ne.symm other), ?_, ?_, fun low => ?_, fun high => ?_,
      fun high => ⟨fun rest => ?_, fun below limit => ?_⟩, rfl, rfl, rfl, rfl, rfl, rfl, rfl, rfl, rfl, rfl, rfl⟩
    · refine (congrArg TestRecord.mismatches record).trans ?_
      unfold State.testRecord
      split <;> rfl
    · refine (congrArg TestRecord.time record).trans ?_
      unfold State.testRecord
      split <;> rfl
    · obtain ⟨directory, flags⟩ := sound fun degrades => absurd degrades.1 (Nat.not_lt.mpr low)
      have passed := record.trans (testRecord_passed low)
      exact ⟨congrArg TestRecord.last passed, (congrArg TestRecord.fails passed :), (congrArg TestRecord.firstFail passed :),
        directory, flags⟩
    · have failed := record.trans (testRecord_failed high)
      exact ⟨congrArg TestRecord.last failed, congrArg TestRecord.fails failed, congrArg TestRecord.firstFail failed⟩
    · refine sound fun ⟨_, below, limit⟩ => rest.elim (fun full => absurd below (by rw [full]; decide)) fun other => other ?_
      rw [← limit, Nat.min_eq_right below]
    · exact degraded ⟨high, below, (Nat.min_eq_right below).trans limit⟩
  · have skips := skipsTest_of_turn idle unsuspended waits turn erasing
    refine ⟨?_, ?_⟩
    · simp only [exec, execPatternTestResult, idle, skips, endSkipped_eq]
    · simp only [exec, execArrayOperationStart, idle, unsuspended, skips, endSkipped_eq]
      rfl

end Sys2Proof.Machine
end

section
/-! PROOF. The calendar's second (O36). -/

namespace Sys2Proof.Machine

/-! ## Dates (R140) -/

theorem nextDay_cases (y m d : Nat) :
    (d < monthLength y m → nextDay ⟨y, m, d⟩ = ⟨y, m, d + 1⟩) ∧
    (monthLength y m ≤ d → m < 12 → nextDay ⟨y, m, d⟩ = ⟨y, m + 1, 1⟩) ∧
    (monthLength y m ≤ d → 12 ≤ m → nextDay ⟨y, m, d⟩ = ⟨y + 1, 1, 1⟩) :=
  ⟨fun within => if_pos within, fun last within => (if_neg (Nat.not_lt.mpr last)).trans (if_pos within),
    fun last december => (if_neg (Nat.not_lt.mpr last)).trans (if_neg (Nat.not_lt.mpr december))⟩

theorem leapYear_iff (y : Nat) : leapYear y = true ↔ y % 4 = 0 ∧ y ≠ 2100 := by simp [leapYear]

theorem monthLength_cases (y : Nat) : (monthLength y 2 = if y % 4 = 0 ∧ y ≠ 2100 then 29 else 28) ∧
    (∀ m ∈ [4, 6, 9, 11], monthLength y m = 30) ∧ (∀ m ∈ [1, 3, 5, 7, 8, 10, 12], monthLength y m = 31) := by
  refine ⟨?_, fun m mem => ?_, fun m mem => ?_⟩
  · simp only [monthLength, if_true, leapYear_iff]
  · simp only [List.mem_cons, List.not_mem_nil, or_false] at mem
    obtain rfl | rfl | rfl | rfl := mem <;> rfl
  · simp only [List.mem_cons, List.not_mem_nil, or_false] at mem
    obtain rfl | rfl | rfl | rfl | rfl | rfl | rfl := mem <;> rfl

/-! ## One second (R140) -/

/-- The second of the day. -/
def Time.seconds (t : Time) : Nat := 3600 * t.hour + 60 * t.minute + t.second

theorem validTime_iff (t : Time) : validTime t = true ↔ t.hour ≤ 23 ∧ t.minute ≤ 59 ∧ t.second ≤ 59 := by
  simp [validTime, and_assoc]

theorem lastMoment_iff (c : Calendar) : lastMoment c = true ↔ c.date = ⟨2199, 12, 31⟩ ∧ c.time = ⟨23, 59, 59⟩ := by
  simp [lastMoment]

/-- The last second of a day. -/
theorem last_second {t : Time} (valid : validTime t = true) (last : t.seconds + 1 = 86400) : t = ⟨23, 59, 59⟩ := by
  rw [validTime_iff] at valid
  obtain ⟨h, m, s⟩ := t
  simp only [Time.seconds, Time.mk.injEq] at *
  omega

theorem tick_last {c : Calendar} (date : c.date = ⟨2199, 12, 31⟩) (time : c.time = ⟨23, 59, 59⟩) :
    c.tick = ({ c with counting := false, sub := 0 }, false) := if_pos ((lastMoment_iff c).mpr ⟨date, time⟩)

theorem tick_midnight {c : Calendar} (date : c.date ≠ ⟨2199, 12, 31⟩) (time : c.time = ⟨23, 59, 59⟩) :
    c.tick = ({ c with date := nextDay c.date, time := ⟨0, 0, 0⟩, sub := 0 }, true) := by
  unfold Calendar.tick
  rw [if_neg fun last => date ((lastMoment_iff c).mp last).1, time]
  rfl

/-- Within a day the time advances by one second. -/
theorem tick_within {c : Calendar} (valid : validTime c.time = true) (within : c.time.seconds + 1 < 86400) :
    ∃ t : Time, validTime t = true ∧ t.seconds = c.time.seconds + 1 ∧ c.tick = ({ c with time := t, sub := 0 }, false) := by
  have notLast : ¬ lastMoment c = true := fun last => by
    rw [((lastMoment_iff c).mp last).2] at within
    exact absurd within (by decide)
  rw [validTime_iff] at valid
  unfold Calendar.tick
  rw [if_neg notLast]
  unfold Time.seconds at within ⊢
  split
  · exact ⟨{ c.time with second := c.time.second + 1 }, by rw [validTime_iff]; simp only; omega, rfl, rfl⟩
  split
  · exact ⟨{ c.time with minute := c.time.minute + 1, second := 0 }, by rw [validTime_iff]; simp only; omega,
      by simp only; omega, rfl⟩
  split
  · exact ⟨⟨c.time.hour + 1, 0, 0⟩, by rw [validTime_iff]; simp only; omega, by simp only; omega, rfl⟩
  · omega

theorem exec_calendarSecond {s : State} (counting : s.retention.calendar.counting = true)
    (sub : s.retention.calendar.sub = 32767) {c : Calendar} {midnight : Bool}
    (ticks : s.retention.calendar.tick = (c, midnight)) : exec .calendarSecond s = .next
      (if midnight && s.directory.inUse then State.sweep { s with retention := { s.retention with calendar := c } }
        else { s with retention := { s.retention with calendar := c } }) := by
  simp only [exec, execCalendarSecond, counting, sub, ticks, beq_self_eq_true, Bool.and_self, if_true]
  rfl

/-- Settles O36: the three steps of the calendar, and the sweep at midnight. -/
theorem calendarSecondAdvancesTheTime : Obligations.CalendarSecondAdvancesTheTime := by
  refine ⟨nextDay_cases, monthLength_cases, fun s h mi sec counting sub time valid =>
    ⟨fun within => ?_, fun last date => ?_, fun date hour minute second => ?_⟩, fun s rests => ?_⟩
  · rw [← time] at valid
    obtain ⟨⟨h', mi', sec'⟩, valid', seconds, ticks⟩ := tick_within valid (by rw [time]; exact within)
    rw [time] at seconds
    exact ⟨h', mi', sec', valid', seconds, exec_calendarSecond counting sub ticks⟩
  · rw [← time] at valid
    have ticks := tick_midnight date (last_second valid (by rw [time]; exact last))
    rw [exec_calendarSecond counting sub ticks]
    cases inUse : s.directory.inUse with
    | false => exact ⟨_, rfl, rfl, fun _ => rfl, nofun, rfl, rfl, rfl, rfl, rfl, rfl, rfl⟩
    | true =>
      simp only [Bool.and_self, if_true, sweep_eq]
      refine ⟨_, rfl, rfl, nofun, fun _ n => ?_, evaluated_banks _ _, rfl, rfl, rfl, rfl, rfl, rfl⟩
      split
      · next active => exact evaluated_slot_of_active _ _ n active
      · next other => exact evaluated_slot_of_not_active _ _ n other
  · have ticks := tick_last date (by rw [time, hour, minute, second])
    rw [exec_calendarSecond counting sub ticks]
    rfl
  · have still : (s.retention.calendar.counting && s.retention.calendar.sub == 32767) = false := by
      rw [Bool.and_eq_false_iff, beq_eq_false_iff_ne]
      exact rests
    simp only [exec, execCalendarSecond, still, Bool.false_eq_true, if_false]

end Sys2Proof.Machine
end

section
/-! PROOF. REARM (O30). -/

namespace Sys2Proof.Machine

/-! ## The free order (log 26) -/

theorem freeOrder_perm {α : Type} (d : Nat) : ∀ (k : Nat) (xs : List α), xs.length = k → (freeOrder d k xs).Perm xs
  | 0, xs, empty => by
    rw [List.length_eq_zero_iff.mp empty]
    exact .nil
  | k + 1, xs, length => by
    have bound : freeBelow d k xs.length < xs.length := Nat.mod_lt _ (by omega)
    simp only [freeOrder, List.getElem?_eq_getElem bound]
    have rest := freeOrder_perm d k (xs.eraseIdx (freeBelow d k xs.length)) (by
      rw [List.length_eraseIdx_of_lt bound, length]; rfl)
    exact (rest.cons _).trans (List.getElem_cons_eraseIdx_perm bound)

/-! ## The standing sources (R170) -/

theorem mem_standing (s : State) (src : Source) (act : Action) :
    (src, act) ∈ s.standing ↔ s.stands src ∧ act = s.standingAction src := by
  cases src <;> simp [State.standing, State.stands, State.standingAction]

theorem standing_nodup (s : State) : (s.standing.map Prod.fst).Nodup := by
  have entry (c : Prop) [Decidable c] (e : Source × Action) : ((if c then [e] else []).map Prod.fst).Sublist [e.1] := by
    split
    · exact .refl _
    · exact List.nil_sublist _
  have among : (s.standing.map Prod.fst).Sublist [Source.door, .mesh, .supplyHigh, .clock] := by
    simp only [State.standing, List.map_append]
    exact (((entry _ (.door, s.doorAction)).append (entry _ (.mesh, .zeroize))).append
      (entry _ (.supplyHigh, s.supplyAction))).append
      (entry _ (.clock, s.clockAction))
  exact among.nodup (by decide)

/-- A source that stands alone is the whole list. -/
theorem standing_alone {s : State} {src : Source} (stands : s.stands src) (alone : ∀ other, s.stands other → other = src) :
    s.standing = [(src, s.standingAction src)] := by
  have mem := (mem_standing s src _).mpr ⟨stands, rfl⟩
  have same (e : Source × Action) (within : e ∈ s.standing) : e = (src, s.standingAction src) := by
    obtain ⟨other, act⟩ := e
    obtain ⟨standsToo, action⟩ := (mem_standing s other act).mp within
    rw [action, alone other standsToo]
  have whole := List.eq_replicate_of_mem same
  have nodup := standing_nodup s
  rw [whole, List.map_replicate, List.nodup_replicate] at nodup
  have one : s.standing.length = 1 := le_antisymm nodup (List.length_pos_of_mem mem)
  rw [whole, one]
  rfl

/-! ## Events raised one after another -/

/-- Whether a source's flag is the one of a source's alarm. -/
theorem flag_bit {src : Source} {a : Alarm} (alarm : src.alarm = some a) (other : Source) :
    other.flag.getLsbD a.bit = true ↔ other = src := by
  cases src <;> cases alarm <;> cases other <;> decide

/-- Alarmed events in SERVICE latch their flags and write the tamper record, no more. -/
theorem raised_alarms (l : List (Source × Action)) (alarms : ∀ e ∈ l, e.2 = .alarm) : ∀ u : State,
    u.retention.marker = true → u.custody.present = .service → ∃ flags tamper,
      l.foldl (fun u e => u.raiseTamper e.1 e.2) u = { u with retention := { u.retention with
        alarmFlags := flags, tamper := tamper } } ∧
      (∀ i, flags.getLsbD i = true ↔ u.retention.alarmFlags.getLsbD i = true ∨ ∃ e ∈ l, e.1.flag.getLsbD i = true) ∧
      (l = [] → tamper = u.retention.tamper) ∧ (l ≠ [] → tamper.eOutcome = some .alarmed) := by
  induction l with
  | nil => intro u _ _; exact ⟨_, _, rfl, fun i => by simp, fun _ => rfl, fun none => absurd rfl none⟩
  | cons e l ih =>
    intro u live service
    have raised : u.raiseTamper e.1 e.2 = u.eventEntered e.1 .alarmed := by
      rw [alarms e List.mem_cons_self, raiseTamper_service_alarm u e.1 live service, enteredEvent u e.1 _ live]
    obtain ⟨flags, tamper, left, bits, none, some⟩ := ih (fun e' mem => alarms e' (List.mem_cons_of_mem _ mem))
      (u.eventEntered e.1 .alarmed) live service
    refine ⟨flags, tamper, ?_, fun i => ?_, nofun, fun _ => ?_⟩
    · rw [List.foldl_cons, raised, left]
      rfl
    · rw [bits]
      simp [State.eventEntered, BitVec.getLsbD_or, or_assoc]
    · by_cases empty : l = []
      · rw [none empty]
        rfl
      · exact some empty

/-- A state in which events are acted on or recorded. -/
def State.watches (u : State) : Prop :=
  u.retention.marker = true ∧ (u.custody.present = .service ∨ u.custody.present = .zeroizing)

/-- A zeroization has begun, and a completion stands in the custodian port's queue. -/
structure BegunWith (c : Completion) (u : State) : Prop where
  live : u.retention.marker = true
  mode : u.custody.present = .zeroizing
  resume : u.retention.resume = .zeroizing
  banks : ∀ b : Bank, u.retention.covers[b].valid = false ∧ u.retention.owed[b] = true
  zeroized : u.retention.alarmFlags.getLsbD 7 = true
  reported : c ∈ u.custLink.completions

theorem begun_of_zeroize {c : Completion} {u : State} {src : Source} (live : u.retention.marker = true)
    (service : u.custody.present = .service) (reported : c ∈ u.custLink.completions) :
    BegunWith c (u.raiseTamper src .zeroize) := by
  rw [raiseTamper_service_zeroize u src live service]
  have seen := beginRunning_seen u src live
  have zeroized := beginRunning_zeroized u src live
  have marker : (u.destroyCovers src .running).retention.marker = true := by
    rw [destroyCovers_flag u src .running live]
    exact live
  generalize u.beginRunning src = t at seen zeroized
  obtain ⟨covers, custody, resume, owed, -, flags, -⟩ := zeroized
  refine ⟨by rw [seen.retention]; exact marker, by rw [custody], resume, fun b => ⟨by rw [covers b], owed b⟩, ?_, ?_⟩
  · rw [flags]
    simp
  · rw [seen.link]
    exact List.mem_append_left _ reported

theorem begun_raised {c : Completion} {u : State} (begun : BegunWith c u) (src : Source) (act : Action) :
    BegunWith c (u.raiseTamper src act) := by
  obtain ⟨live, mode, resume, banks, zeroized, reported⟩ := begun
  rw [raiseTamper_zeroizing u src act live (.inl mode), enteredEvent u src _ live]
  refine ⟨live, mode, resume, banks, ?_, reported⟩
  simp [State.eventEntered, zeroized]

/-- Standing sources of which one zeroizes, in whatever order. -/
theorem begun_of_mem {c : Completion} (l : List (Source × Action)) : ∀ u : State, u.retention.marker = true →
    u.custody.present = .service → c ∈ u.custLink.completions → (∃ e ∈ l, e.2 = .zeroize) →
    BegunWith c (l.foldl (fun u e => u.raiseTamper e.1 e.2) u) := by
  have after (l : List (Source × Action)) (u : State) (begun : BegunWith c u) :
      BegunWith c (l.foldl (fun u e => u.raiseTamper e.1 e.2) u) :=
    foldl_keeps (BegunWith c) (fun u e => u.raiseTamper e.1 e.2) (fun u e begun => begun_raised begun e.1 e.2) l u begun
  induction l with
  | nil => rintro u _ _ _ ⟨e, mem, _⟩; cases mem
  | cons e l ih =>
    intro u live service reported zeroizes
    cases act : e.2 with
    | zeroize =>
      rw [List.foldl_cons, act]
      exact after l _ (begun_of_zeroize live service reported)
    | alarm =>
      rw [List.foldl_cons, act, raiseTamper_service_alarm u e.1 live service, enteredEvent u e.1 _ live]
      refine ih _ live service reported ?_
      obtain ⟨e', mem, zeroize⟩ := zeroizes
      cases mem with
      | head => rw [act] at zeroize; cases zeroize
      | tail _ mem => exact ⟨e', mem, zeroize⟩

/-- An event latches its flag and clears none. -/
theorem raised_watches {u : State} (watches : u.watches) (src : Source) (act : Action) : (u.raiseTamper src act).watches ∧
    ∀ i, u.retention.alarmFlags.getLsbD i = true ∨ src.flag.getLsbD i = true →
      (u.raiseTamper src act).retention.alarmFlags.getLsbD i = true := by
  obtain ⟨live, service | zeroizing⟩ := watches
  · cases act with
    | alarm =>
      rw [raiseTamper_service_alarm u src live service, enteredEvent u src _ live]
      exact ⟨⟨live, .inl service⟩, fun i set => by simp [State.eventEntered, BitVec.getLsbD_or, set]⟩
    | zeroize =>
      rw [raiseTamper_service_zeroize u src live service]
      have retention := (beginRunning_seen u src live).retention
      have zeroized := beginRunning_zeroized u src live
      rw [destroyCovers_flag u src .running live] at retention
      generalize u.beginRunning src = t at retention zeroized
      obtain ⟨-, custody, -⟩ := zeroized
      refine ⟨⟨by rw [retention]; exact live, .inr (by rw [custody])⟩, fun i set => ?_⟩
      rw [retention]
      rcases set with set | set <;> simp [BitVec.getLsbD_or, set]
  · rw [raiseTamper_zeroizing u src act live (.inl zeroizing), enteredEvent u src _ live]
    exact ⟨⟨live, .inr zeroizing⟩, fun i set => by simp [State.eventEntered, BitVec.getLsbD_or, set]⟩

theorem raised_all_flags (l : List (Source × Action)) : ∀ u : State, u.watches → ∀ i,
    (u.retention.alarmFlags.getLsbD i = true ∨ ∃ e ∈ l, e.1.flag.getLsbD i = true) →
    (l.foldl (fun u e => u.raiseTamper e.1 e.2) u).retention.alarmFlags.getLsbD i = true := by
  induction l with
  | nil => intro u _ i set; simpa using set
  | cons e l ih =>
    intro u watches i set
    obtain ⟨watches', flags⟩ := raised_watches watches e.1 e.2
    refine ih _ watches' i ?_
    rcases set with set | ⟨e', mem, set⟩
    · exact .inl (flags i (.inl set))
    · cases mem with
      | head => exact .inl (flags i (.inr set))
      | tail _ mem => exact .inr ⟨e', mem, set⟩

/-! ## REARM (R170) -/

theorem incompleteBanks_bit (s : State) (b : Bank) :
    s.incompleteBanks.getLsbD b.val = (s.directory.banks[b].condition == .eraseIncomplete) := by
  rw [State.incompleteBanks, getLsbD_bitsByte _ (by omega)]
  simp

/-- The state in which a REARM raises what stands. -/
def State.rearmed (s : State) (tag : Byte) : State :=
  { s.custAnswered tag codeRearm .ok [s.incompleteBanks] with
    draws := s.draws + 1
    retention := { s.retention with resume := .service }
    custody := { s.custody with present := .service }
    monitor := { s.monitor with intervalTimer := some (s.testInterval * cyclesPerSecond) } }

/-- What a REARM changes leaves the standing sources as they are. -/
theorem rearmed_standing (s : State) (tag : Byte) : (s.rearmed tag).standing = s.standing := rfl

theorem takeRearm_eq (s : State) {m : Message} (taken : s.takeable .cust = some m) : takeRearm m.tag () (s.custTaking m.tag) =
    (freeOrder s.draws (s.rearmed m.tag).standing.length (s.rearmed m.tag).standing).foldl
      (fun u e => u.raiseTamper e.1 e.2) (s.rearmed m.tag) := by
  have completed : ((((s.custTaking m.tag).withRetention fun r => { r with resume := .service }).withCustody fun c =>
      { c with present := .service }).withMonitor fun x =>
      { x with intervalTimer := some (s.testInterval * cyclesPerSecond) }).finishCust m.tag codeRearm .ok
        [s.incompleteBanks] = { s.rearmed m.tag with draws := s.draws } :=
    congrArg (fun u : State => { u with
      retention := { s.retention with resume := .service }
      custody := { s.custody with present := .service }
      monitor := { s.monitor with intervalTimer := some (s.testInterval * cyclesPerSecond) } })
      (finishCust_custTaking s m taken m.tag m.tag codeRearm .ok [s.incompleteBanks])
  have interval : (s.custTaking m.tag).testInterval = s.testInterval := rfl
  have banks : (s.custTaking m.tag).incompleteBanks = s.incompleteBanks := rfl
  simp only [takeRearm, interval, banks, completed]
  rfl

theorem exec_rearm {s : State} {m : Message} (passes : s.custPasses codeRearm gateRearm .both parseNone m ()) :
    exec .rearm s = .next ((freeOrder s.draws s.standing.length s.standing).foldl (fun u e => u.raiseTamper e.1 e.2)
      (s.rearmed m.tag)) := by
  have runs : exec .rearm s = .next (takeRearm m.tag () (s.custTaking m.tag)) :=
    congrArg Host.Outcome.next (takeCust_passes _ _ _ _ _ _ m () passes)
  rw [runs, takeRearm_eq s passes.1, rearmed_standing]

/-- Zeroized tells nothing of what a REARM has changed before it raises. -/
theorem Zeroized.of_rearmed {s t : State} {src : Source} {tag : Byte} (idle : s.custProgress = none)
    (h : Zeroized (s.rearmed tag) t src) : Zeroized s t src := by
  obtain ⟨covers, custody, resume, owed, tamper, flags, slots, issued, lost, erasing, conditions, wait, exec, suspended, fault,
    positions, progress, links, link, -, -, -, report, rest⟩ := h
  refine ⟨covers, custody, resume, owed, tamper, flags, slots, issued, lost, erasing, conditions, wait, exec, suspended, fault,
    positions, progress, links, link, fun _ _ _ _ retires => ?_, fun _ _ _ reclaims => ?_, fun _ _ commits => ?_, report, rest⟩
  · rw [idle] at retires; cases retires
  · rw [idle] at reclaims; cases reclaims
  · rw [idle] at commits; cases commits

theorem order_mem (s : State) (e : Source × Action) : e ∈ freeOrder s.draws s.standing.length s.standing ↔ e ∈ s.standing :=
  (freeOrder_perm _ _ _ rfl).mem_iff

/-- Settles O30: the standing sources are raised in SERVICE in some order, so they all alarm, or one of them zeroizes. -/
theorem rearmReturnsToService : Obligations.RearmReturnsToService := by
  intro s m passes
  have idle := takeable_cust_idle s m passes.1
  refine ⟨s.incompleteBanks, incompleteBanks_bit s, fun door mesh supply clock => ?_, fun live alarms => ?_,
    fun live ⟨src, stands, zeroize⟩ => ?_, fun src live stands zeroize alone => ?_⟩
  · have empty : s.standing = [] := by
      simp [State.standing, door, mesh, supply, clock]
    rw [exec_rearm passes, empty]
    rfl
  · obtain ⟨flags, tamper, left, bits, -, alarmed⟩ := raised_alarms (freeOrder s.draws s.standing.length s.standing)
      (fun e mem => by
        obtain ⟨stands, action⟩ := (mem_standing s e.1 e.2).mp ((order_mem s e).mp mem)
        rw [action, alarms e.1 stands]) (s.rearmed m.tag) live rfl
    rw [exec_rearm passes, left]
    refine ⟨_, rfl, rfl, rfl, rfl, rfl, rfl, fun src a alarm => ⟨fun stands => ?_, fun rests => ?_⟩, fun ⟨src, stands⟩ => ?_⟩
    · exact (bits a.bit).mpr (.inr ⟨(src, s.standingAction src),
        (order_mem s _).mpr ((mem_standing s src _).mpr ⟨stands, rfl⟩), (flag_bit alarm src).mpr rfl⟩)
    · rw [Bool.eq_iff_iff]
      refine (bits a.bit).trans ⟨fun set => set.elim id fun ⟨e, mem, flag⟩ => ?_, .inl⟩
      obtain ⟨stands, -⟩ := (mem_standing s e.1 e.2).mp ((order_mem s e).mp mem)
      rw [(flag_bit alarm e.1).mp flag] at stands
      exact absurd stands rests
    · refine alarmed fun empty => ?_
      have mem := (order_mem s _).mpr ((mem_standing s src _).mpr ⟨stands, rfl⟩)
      rw [empty] at mem
      cases mem
  · have within := (order_mem s _).mpr ((mem_standing s src _).mpr ⟨stands, rfl⟩)
    have begun := begun_of_mem (freeOrder s.draws s.standing.length s.standing) (s.rearmed m.tag) live rfl
      (List.mem_append_right _ List.mem_cons_self) ⟨_, within, zeroize⟩
    refine ⟨_, exec_rearm passes, begun.mode, begun.resume, begun.banks, fun other a alarm standsToo => ?_, begun.zeroized,
      begun.reported⟩
    exact raised_all_flags _ (s.rearmed m.tag) ⟨live, .inl rfl⟩ a.bit (.inr ⟨(other, s.standingAction other),
      (order_mem s _).mpr ((mem_standing s other _).mpr ⟨standsToo, rfl⟩), (flag_bit alarm other).mpr rfl⟩)
  · have single : freeOrder s.draws s.standing.length s.standing = [(src, .zeroize)] := by
      have perm := freeOrder_perm s.draws s.standing.length s.standing rfl
      rw [standing_alone stands alone, zeroize] at perm ⊢
      exact List.perm_singleton.mp perm
    have runs := exec_rearm passes
    rw [single, List.foldl_cons, List.foldl_nil, raiseTamper_service_zeroize _ src (by exact live) (by rfl)] at runs
    have zeroized := beginRunning_zeroized (s.rearmed m.tag) src live
    generalize (s.rearmed m.tag).beginRunning src = t at runs zeroized
    exact ⟨t, runs, zeroized.of_rearmed idle⟩

end Sys2Proof.Machine
end

section
/-! PROOF. BIND and EXTEND (O37, O38, O40). -/

namespace Sys2Proof.Machine

/-! ## The judgement of a slot (R63, R66, R144) -/

theorem refusal_eq (d : SlotDir) : (d.state = .empty → d.refusal = some .slotEmpty) ∧ (d.state = .lost → d.refusal = some .keyLost) ∧
    (d.state = .damaged → d.refusal = some .keyDamaged) ∧
    (d.state = .retired ∨ (d.state = .active ∧ d.retirePending = true) → d.refusal = some .keyRetired) := by
  refine ⟨fun h => ?_, fun h => ?_, fun h => ?_, fun h => ?_⟩
  · simp only [SlotDir.refusal, h]
  · simp only [SlotDir.refusal, h]
  · simp only [SlotDir.refusal, h]
  · obtain h | ⟨h, pending⟩ := h
    · simp only [SlotDir.refusal, h]
    · simp only [SlotDir.refusal, h, pending, if_true]

theorem judge_undated {c : Calendar} {h : Header} (undated : hDated h = false) : judge c h = .valid := if_pos undated

section
variable {c : Calendar} {h : Header} (dated : hDated h = true)
include dated

theorem judge_unset (unset : c.set = false) : judge c h = .clockUnset := by
  simp [judge, dated, unset]

variable (set : c.set = true)
include set

/-- Against a calendar that is set, a dated key is judged by its dates. -/
theorem judge_set : judge c h = if (hActivation h).any fun a => dateBefore c.date a then .notYetActive
    else if (hExpiry h).any fun x => dateBefore x c.date then .expired else .valid := by
  unfold judge
  rw [if_neg (by rw [dated]; decide), if_neg (by rw [set]; decide)]
  cases hActivation h <;> cases hExpiry h <;> rfl

theorem judge_early {a : Date} (activation : hActivation h = some a) (early : dateBefore c.date a = true) :
    judge c h = .notYetActive := by
  rw [judge_set dated set, activation, if_pos (by rw [Option.any_some]; exact early)]

variable (begun : ∀ a, hActivation h = some a → dateBefore c.date a = false)
include begun

theorem judge_begun : judge c h = if (hExpiry h).any fun x => dateBefore x c.date then .expired else .valid := by
  have notEarly : ((hActivation h).any fun a => dateBefore c.date a) = false := by
    cases activation : hActivation h with
    | none => rfl
    | some a => exact begun a activation
  rw [judge_set dated set, notEarly]
  rfl

theorem judge_late {x : Date} (expiry : hExpiry h = some x) (late : dateBefore x c.date = true) : judge c h = .expired := by
  rw [judge_begun dated set begun, expiry, if_pos (by rw [Option.any_some]; exact late)]

theorem judge_within (lasts : ∀ x, hExpiry h = some x → dateBefore x c.date = false) : judge c h = .valid := by
  have notLate : ((hExpiry h).any fun x => dateBefore x c.date) = false := by
    cases expiry : hExpiry h with
    | none => rfl
    | some x => exact lasts x expiry
  rw [judge_begun dated set begun, notLate]
  rfl

end

section
variable {s : State} {n : SlotNo}

theorem slotRecheck_refused {oc : OutcomeCode} (refused : s.directory.slots[n].refusal = some oc) : s.slotRecheck n = some oc := by
  simp only [State.slotRecheck, refused]

variable (active : s.directory.slots[n].state = .active) (clear : s.directory.slots[n].retirePending = false)
include active clear

theorem slotRecheck_held (held : s.retention.slots[n].hold = true) : s.slotRecheck n = some .keyHeld := by
  simp only [State.slotRecheck, refusal_none active clear, held, if_true]

theorem slotRecheck_judged (free : s.retention.slots[n].hold = false) :
    s.slotRecheck n = (judge s.retention.calendar s.directory.slots[n].header).refusal := by
  simp only [State.slotRecheck, refusal_none active clear, free, Bool.false_eq_true, if_false]

end

/-- Checks 2, 4 and 5 of R63 on a slot, in full. -/
theorem slotRecheck_cases (s : State) (n : SlotNo) :
    (s.directory.slots[n].state = .empty → s.slotRecheck n = some .slotEmpty) ∧
    (s.directory.slots[n].state = .lost → s.slotRecheck n = some .keyLost) ∧
    (s.directory.slots[n].state = .damaged → s.slotRecheck n = some .keyDamaged) ∧
    (s.directory.slots[n].state = .retired ∨
        (s.directory.slots[n].state = .active ∧ s.directory.slots[n].retirePending = true) →
      s.slotRecheck n = some .keyRetired) ∧
    (s.directory.slots[n].state = .active → s.directory.slots[n].retirePending = false →
      (s.retention.slots[n].hold = true → s.slotRecheck n = some .keyHeld) ∧
      (s.retention.slots[n].hold = false →
        (hDated s.directory.slots[n].header = false → s.slotRecheck n = none) ∧
        (hDated s.directory.slots[n].header = true →
          (s.retention.calendar.set = false → s.slotRecheck n = some .clockUnset) ∧
          (s.retention.calendar.set = true →
            (∀ a, hActivation s.directory.slots[n].header = some a → dateBefore s.retention.calendar.date a = true →
              s.slotRecheck n = some .keyNotActive) ∧
            ((∀ a, hActivation s.directory.slots[n].header = some a →
                dateBefore s.retention.calendar.date a = false) →
              (∀ x, hExpiry s.directory.slots[n].header = some x → dateBefore x s.retention.calendar.date = true →
                s.slotRecheck n = some .keyExpired) ∧
              ((∀ x, hExpiry s.directory.slots[n].header = some x →
                  dateBefore x s.retention.calendar.date = false) →
                s.slotRecheck n = none)))))) := by
  obtain ⟨empty, lost, damaged, retired⟩ := refusal_eq s.directory.slots[n]
  refine ⟨fun h => slotRecheck_refused (empty h), fun h => slotRecheck_refused (lost h), fun h => slotRecheck_refused (damaged h),
    fun h => slotRecheck_refused (retired h), fun active clear => ⟨slotRecheck_held active clear, fun free => ?_⟩⟩
  rw [slotRecheck_judged active clear free]
  refine ⟨fun undated => ?_, fun dated => ⟨fun unset => ?_, fun set => ⟨fun a activation early => ?_, fun begun =>
    ⟨fun x expiry late => ?_, fun lasts => ?_⟩⟩⟩⟩
  · rw [judge_undated undated]; rfl
  · rw [judge_unset dated unset]; rfl
  · rw [judge_early dated set activation early]; rfl
  · rw [judge_late dated set begun expiry late]; rfl
  · rw [judge_within dated set begun lasts]; rfl

/-! ## Grants (R59) -/

theorem metered_iff (s : State) (n : SlotNo) : s.metered n = true ↔ (hAllowance s.directory.slots[n].header).isSome = true := Iff.rfl

/-- A grant is taken out of a metered slot's remaining allowance alone. -/
theorem takeGrant_eq (s : State) (n : SlotNo) (grant : Nat) : s.takeGrant n grant = { s with retention := { s.retention with
    slots := put s.retention.slots n { s.retention.slots[n] with remaining :=
      if (hAllowance s.directory.slots[n].header).isSome then s.retention.slots[n].remaining - grant
      else s.retention.slots[n].remaining } } } := by
  unfold State.takeGrant State.metered
  split
  · rfl
  · rw [put_get_self]

theorem giveBack_exact (s : State) (n : SlotNo) (cards : Nat) : s.giveBack n cards = { s with retention := { s.retention with
    slots := put s.retention.slots n { s.retention.slots[n] with remaining :=
      if (hAllowance s.directory.slots[n].header).isSome then s.retention.slots[n].remaining + cards
      else s.retention.slots[n].remaining } } } := by
  unfold State.giveBack State.metered
  split
  · rfl
  · rw [put_get_self]

/-! ## BIND (R63, R64) -/

theorem exec_bind {s : State} {l : Line} {m : Message} {q : Handle × Nat} (passes : s.linePasses l codeBind parseBind m q) :
    exec (.bind l) s = .next (takeBind l m.tag q (s.lineTaken l)) :=
  congrArg Host.Outcome.next (takeLine_passes s l codeBind parseBind (takeBind l) m q passes)

theorem bindTarget_lineTaken (s : State) (l : Line) (h : Handle) : (s.lineTaken l).bindTarget l h = s.bindTarget l h := rfl

theorem mem_four : ∀ p : Pos, p ∈ four := by decide

/-- The lowest FREE position. -/
theorem find_free {s : State} {l : Line} {p : Pos} (free : s.pos l p = .free) (lowest : ∀ p' : Pos, p' < p → s.pos l p' ≠ .free) :
    (four.find? fun p => s.pos l p == .free) = some p := by
  rw [find_four_eq, Fin.find?_eq_some_iff]
  exact ⟨by rw [free]; rfl, fun j below => by simpa using lowest j below⟩

theorem find_free_none {s : State} {l : Line} (full : ∀ p : Pos, s.pos l p ≠ .free) :
    (four.find? fun p => s.pos l p == .free) = none := by
  rw [find_four_eq, Fin.find?_eq_none_iff]
  exact fun p => by simpa using full p

section
variable {s : State} {l : Line} {h : Handle} {n : SlotNo}

theorem bindTarget_stale (stale : s.resolve h = none) : s.bindTarget l h = .error .staleHandle := by
  simp only [State.bindTarget, stale]

variable (found : s.resolve h = some n)
include found

theorem bindTarget_refused {oc : OutcomeCode} (refused : s.directory.slots[n].refusal = some oc) :
    s.bindTarget l h = .error oc := by
  simp only [State.bindTarget, found, refused]

section
variable (active : s.directory.slots[n].state = .active) (clear : s.directory.slots[n].retirePending = false)
include active clear

theorem bindTarget_notAllocated (outside : hDomain s.directory.slots[n].header ≠ s.allocations[l].domain ∨
    classInMask (hClass s.directory.slots[n].header) s.allocations[l].mask = false) :
    s.bindTarget l h = .error .notAllocated := by
  simp only [State.bindTarget, found, refusal_none active clear, if_pos outside]

variable (domain : hDomain s.directory.slots[n].header = s.allocations[l].domain)
  (mask : classInMask (hClass s.directory.slots[n].header) s.allocations[l].mask = true)
include domain mask

/-- From check 4 on the answer is the recheck's, -/
theorem bindTarget_rechecked {oc : OutcomeCode} (refused : s.slotRecheck n = some oc) : s.bindTarget l h = .error oc := by
  have inside : ¬ (hDomain s.directory.slots[n].header ≠ s.allocations[l].domain ∨
      classInMask (hClass s.directory.slots[n].header) s.allocations[l].mask = false) := by
    rintro (other | outside)
    · exact other domain
    · rw [mask] at outside; cases outside
  simp only [State.bindTarget, found, refusal_none active clear, if_neg inside]
  simp only [State.slotRecheck, refusal_none active clear] at refused
  split at refused
  · next held => rw [if_pos held]; cases refused; rfl
  · next free => rw [if_neg free, refused]

/-- and then the engine's and the position's. -/
theorem bindTarget_passed (passes : s.slotRecheck n = none) : s.bindTarget l h =
    if s.buses[l].ready = false then .error .engineAbsent
    else (four.find? fun p => s.pos l p == .free).elim (.error .noPosition) fun p => .ok (n, p) := by
  have inside : ¬ (hDomain s.directory.slots[n].header ≠ s.allocations[l].domain ∨
      classInMask (hClass s.directory.slots[n].header) s.allocations[l].mask = false) := by
    rintro (other | outside)
    · exact other domain
    · rw [mask] at outside; cases outside
  simp only [State.bindTarget, found, refusal_none active clear, if_neg inside]
  simp only [State.slotRecheck, refusal_none active clear] at passes
  split at passes
  · cases passes
  · next free =>
    rw [if_neg free, passes]
    cases four.find? fun p => s.pos l p == .free <;> rfl

end

omit found in
theorem bindable_recheck (bindable : s.bindable l n) : s.slotRecheck n = none := by
  obtain ⟨active, clear, -, -, free, valid⟩ := bindable
  rw [slotRecheck_judged active clear free, valid]
  rfl

theorem bindTarget_bindable (bindable : s.bindable l n) : s.bindTarget l h =
    if s.buses[l].ready = false then .error .engineAbsent
    else (four.find? fun p => s.pos l p == .free).elim (.error .noPosition) fun p => .ok (n, p) := by
  have passes := bindable_recheck bindable
  obtain ⟨active, clear, domain, mask, -⟩ := bindable
  exact bindTarget_passed found active clear domain mask passes

end

theorem finishLine_lineTaken (s : State) (l : Line) (m : Message) (taken : s.takeable (.line l) = some m) (t k : Byte)
    (oc : OutcomeCode) (d : List Byte) : (s.lineTaken l).finishLine l t k oc d = s.lineAnswered l t k oc d :=
  finishLine_popRequest s l m taken t k oc d

section
variable {s : State} {l : Line} {m : Message} {h : Handle} {asked : Nat}
  (passes : s.linePasses l codeBind parseBind m (h, asked))
include passes

theorem exec_bind_refused {oc : OutcomeCode} (refused : s.bindTarget l h = .error oc) :
    exec (.bind l) s = .next (s.lineAnswered l m.tag codeBind oc []) := by
  rw [exec_bind passes]
  simp only [takeBind, bindTarget_lineTaken, refused, finishLine_lineTaken s l m passes.1]

variable {n : SlotNo} {p : Pos} (target : s.bindTarget l h = .ok (n, p))
include target

theorem exec_bind_exhausted (none : s.grantFor n asked 0 = 0) :
    exec (.bind l) s = .next (s.lineAnswered l m.tag codeBind .exhausted []) := by
  rw [exec_bind passes]
  have none' : (s.lineTaken l).grantFor n asked 0 = 0 := none
  simp only [takeBind, bindTarget_lineTaken, target, none', if_true, finishLine_lineTaken s l m passes.1]

theorem exec_bind_reserves (some : s.grantFor n asked 0 ≠ 0) :
    exec (.bind l) s = .next ((s.lineTaken l).reserve m.tag l h n p asked (s.grantFor n asked 0)) := by
  rw [exec_bind passes]
  simp only [takeBind, bindTarget_lineTaken, target]
  exact congrArg Host.Outcome.next (if_neg some)

end

/-- Settles O38: each check's refusal, the earlier ones passed. -/
theorem bindIsRefusedInOrder : Obligations.BindIsRefusedInOrder := by
  intro s l m h asked passes
  refine ⟨fun stale => exec_bind_refused passes (bindTarget_stale stale), fun n found => ?_⟩
  obtain ⟨empty, lost, damaged, retired⟩ := refusal_eq s.directory.slots[n]
  refine ⟨fun state => exec_bind_refused passes (bindTarget_refused found (empty state)),
    fun state => exec_bind_refused passes (bindTarget_refused found (lost state)),
    fun state => exec_bind_refused passes (bindTarget_refused found (damaged state)),
    fun state => exec_bind_refused passes (bindTarget_refused found (retired state)),
    fun active clear => ⟨fun outside => exec_bind_refused passes (bindTarget_notAllocated found active clear outside),
      fun domain mask => ?_⟩, fun bindable absent => ?_, fun bindable ready full => ?_, fun bindable ready ⟨p, free⟩ metered empty => ?_⟩
  · have rechecked {oc : OutcomeCode} (refused : s.slotRecheck n = some oc) :
        exec (.bind l) s = .next (s.lineAnswered l m.tag codeBind oc []) :=
      exec_bind_refused passes (bindTarget_rechecked found active clear domain mask refused)
    obtain ⟨-, -, -, -, judged⟩ := slotRecheck_cases s n
    obtain ⟨held, judged⟩ := judged active clear
    refine ⟨fun hold => rechecked (held hold), fun free dated => ?_⟩
    obtain ⟨-, judged⟩ := judged free
    obtain ⟨unset, judged⟩ := judged dated
    refine ⟨fun off => rechecked (unset off), fun set => ?_⟩
    obtain ⟨early, judged⟩ := judged set
    exact ⟨fun a activation before => rechecked (early a activation before),
      fun begun x expiry late => rechecked ((judged begun).1 x expiry late)⟩
  · exact exec_bind_refused passes ((bindTarget_bindable found bindable).trans (if_pos absent))
  · refine exec_bind_refused passes ((bindTarget_bindable found bindable).trans ?_)
    rw [if_neg (by rw [ready]; decide), find_free_none full]
    rfl
  · obtain ⟨q, first⟩ : ∃ q, (four.find? fun p => s.pos l p == .free) = some q := by
      rw [← Option.isSome_iff_exists, List.find?_isSome]
      exact ⟨p, mem_four p, by rw [free]; rfl⟩
    refine exec_bind_exhausted (n := n) (p := q) passes ((bindTarget_bindable found bindable).trans ?_) ?_
    · rw [if_neg (by rw [ready]; decide), first]
      rfl
    · rw [State.grantFor, State.metered, if_pos metered, empty, Nat.min_zero]

/-- Settles O37: the state a reservation leaves, field by field. -/
theorem bindReservesAndReads : Obligations.BindReservesAndReads := by
  intro s l m h asked n p grant passes found bindable ready free lowest granted some
  have target : s.bindTarget l h = .ok (n, p) := by
    rw [bindTarget_bindable found bindable, if_neg (by rw [ready]; decide), find_free free lowest]
    rfl
  have grantFor : s.grantFor n asked 0 = grant := granted.symm
  refine ⟨_, rfl, ?_⟩
  rw [exec_bind_reserves passes target (by rw [grantFor]; omega), grantFor, State.reserve, takeGrant_eq]
  rfl

/-! ## EXTEND (R70) -/

theorem exec_extend {s : State} {l : Line} {m : Message} {q : Pos × Nat} (passes : s.linePasses l codeExtend parseExtend m q) :
    exec (.extend l) s = .next (takeExtend l m.tag q (s.lineTaken l)) :=
  congrArg Host.Outcome.next (takeLine_passes s l codeExtend parseExtend (takeExtend l) m q passes)

section
variable {s : State} {l : Line} {m : Message} {p : Pos} {asked : Nat}
  (passes : s.linePasses l codeExtend parseExtend m (p, asked))
include passes

theorem exec_extend_notBound (other : ∀ b, s.pos l p ≠ .bound b) :
    exec (.extend l) s = .next (s.lineAnswered l m.tag codeExtend .notBound []) := by
  have answered := finishLine_lineTaken s l m passes.1 m.tag codeExtend .notBound []
  rw [exec_extend passes]
  refine congrArg Host.Outcome.next ?_
  unfold takeExtend
  have place : (s.lineTaken l).pos l p = s.pos l p := rfl
  cases held : s.pos l p with
  | bound b => exact absurd held (other b)
  | free => simp only [place, held, answered]
  | blocked => simp only [place, held, answered]
  | loading b rp => simp only [place, held, answered]
  | clearing b k => simp only [place, held, answered]
  | ended b r u => simp only [place, held, answered]

variable {b : Binding} (bound : s.pos l p = .bound b)
include bound

theorem exec_extend_refused {oc : OutcomeCode} (refused : s.slotRecheck b.slot = some oc) :
    exec (.extend l) s = .next (s.lineAnswered l m.tag codeExtend oc []) := by
  have answered := finishLine_lineTaken s l m passes.1 m.tag codeExtend oc []
  have place : (s.lineTaken l).pos l p = .bound b := bound
  have recheck : (s.lineTaken l).slotRecheck b.slot = some oc := refused
  rw [exec_extend passes]
  simp only [takeExtend, place, recheck, answered]

variable (accepted : s.slotRecheck b.slot = none)
include accepted

theorem exec_extend_exhausted (none : s.grantFor b.slot asked b.reservation = 0) :
    exec (.extend l) s = .next (s.lineAnswered l m.tag codeExtend .exhausted []) := by
  have answered := finishLine_lineTaken s l m passes.1 m.tag codeExtend .exhausted []
  have place : (s.lineTaken l).pos l p = .bound b := bound
  have recheck : (s.lineTaken l).slotRecheck b.slot = Option.none := accepted
  have grant : (s.lineTaken l).grantFor b.slot asked b.reservation = 0 := none
  rw [exec_extend passes]
  simp only [takeExtend, place, recheck, grant, if_true, answered]

theorem exec_extend_grows {grant : Nat} (granted : s.grantFor b.slot asked b.reservation = grant) (some : 0 < grant) :
    exec (.extend l) s = .next { s.lineAnswered l m.tag codeExtend (if grant < asked then .partialGrant else .ok)
        (BitVec.ofNat 8 p.val :: be16 grant ++ be24 (b.reservation + grant)) with
      retention := { s.retention with
        slots := put s.retention.slots b.slot { s.retention.slots[b.slot] with remaining :=
          if (hAllowance s.directory.slots[b.slot].header).isSome then s.retention.slots[b.slot].remaining - grant
          else s.retention.slots[b.slot].remaining } }
      positions := s.positionsWith l p (.bound { b with reservation := b.reservation + grant }) } := by
  have place : (s.lineTaken l).pos l p = .bound b := bound
  have recheck : (s.lineTaken l).slotRecheck b.slot = none := accepted
  have grant' : (s.lineTaken l).grantFor b.slot asked b.reservation = grant := granted
  rw [exec_extend passes]
  simp only [takeExtend, place, recheck, grant', if_neg (Nat.ne_of_gt some)]
  rw [takeGrant_eq]
  exact congrArg (fun u : State => Host.Outcome.next { u with
      retention := { s.retention with
        slots := put s.retention.slots b.slot { s.retention.slots[b.slot] with remaining :=
          if (hAllowance s.directory.slots[b.slot].header).isSome then s.retention.slots[b.slot].remaining - grant
          else s.retention.slots[b.slot].remaining } }
      positions := s.positionsWith l p (.bound { b with reservation := b.reservation + grant }) })
    (finishLine_lineTaken s l m passes.1 m.tag codeExtend (if grant < asked then .partialGrant else .ok)
      (BitVec.ofNat 8 p.val :: be16 grant ++ be24 (b.reservation + grant)))

end

/-- Settles O40: the recheck's cases, the refusals, and the grant. -/
theorem extendGrowsTheReservation : Obligations.ExtendGrowsTheReservation := by
  refine ⟨slotRecheck_cases, fun s l m p asked passes => ⟨exec_extend_notBound passes, fun b oc bound refused =>
    exec_extend_refused passes bound refused⟩, fun s l m p asked grant b passes bound accepted granted => ⟨fun some => ?_, fun none => ?_⟩⟩
  · refine ⟨_, rfl, ?_⟩
    rw [exec_extend_grows passes bound accepted granted.symm some]
  · exact exec_extend_exhausted passes bound accepted (granted.symm.trans none)

end Sys2Proof.Machine
end

section
/-! PROOF. The end of a BIND's read (O39). -/

namespace Sys2Proof.Machine

theorem resumeCheck_eq (c : ArrayControl) : c.resumeCheck = c.afterReads := by
  unfold ArrayControl.resumeCheck ArrayControl.afterReads
  simp only [lineReadWaits_false_iff]
  cases c.suspended <;> rfl

/-- What a failed BIND leaves: its position FREE and its reservation returned (R61, R65, R66). -/
theorem bindFails_eq (s : State) (l : Line) (tag : Byte) (p : Pos) (b : Binding) (oc : OutcomeCode) :
    s.bindFails l tag p b oc = { s.lineCompletes l tag codeBind oc [] with
      positions := s.positionsWith l p .free
      retention := { s.retention with
        slots := put s.retention.slots b.slot { s.retention.slots[b.slot] with remaining :=
          if (hAllowance s.directory.slots[b.slot].header).isSome then s.retention.slots[b.slot].remaining + b.reservation
          else s.retention.slots[b.slot].remaining } } } := by
  rw [State.bindFails, giveBack_exact]
  rfl

/-- An integrity failure changes the slot's state alone, and only of an ACTIVE slot (R13). -/
theorem damage_eq (s : State) (n : SlotNo) : s.damage n = { s with
    directory := if s.directory.slots[n].state = .active then { s.directory with
      slots := put s.directory.slots n { s.directory.slots[n] with state := .damaged } } else s.directory } := by
  unfold State.damage State.withSlot
  by_cases active : s.directory.slots[n].state = .active
  · simp only [active, if_true]
  · simp only [active, if_false, put_get_self]

theorem damage_header (s : State) (n m : SlotNo) : (s.damage n).directory.slots[m].header = s.directory.slots[m].header := by
  rw [damage_eq]
  dsimp only
  split
  · rw [put_get]
    split
    · next same => rw [same]
    · rfl
  · rfl

section
variable {s : State} {l : Line} {n : SlotNo} {tag : Byte} (runs : s.control.exec = some (.readSlot l n)) (drift : List Byte)
include runs

/-- A BIND whose engine was lost. -/
theorem exec_readSlotComplete_lost (lost : s.lineProgress[l] = some (.bindLost tag)) :
    exec (.readSlotComplete drift) s = .next { s.lineCompletes l tag codeBind .engineAbsent [] with
      control := ({ s.control with exec := none } : ArrayControl).afterReads } := by
  simp only [exec, execReadSlotComplete, runs, lost, ← resumeCheck_eq]
  rfl

variable {p : Pos} {asked grant : Nat} (reads : s.lineProgress[l] = some (.bindReading tag p asked grant))
include reads

theorem exec_readSlotComplete_reading : exec (.readSlotComplete drift) s = .next
    ((s.execEnded.bindRead l tag p asked grant (asRead s.array.records[n] drift)).withControl ArrayControl.afterReads) := by
  have check : ArrayControl.resumeCheck = ArrayControl.afterReads := funext resumeCheck_eq
  simp only [exec, execReadSlotComplete, runs, reads, check]
  rfl

variable {b : Binding} {rp : Bool} (place : s.pos l p = .loading b rp)
include place

theorem exec_readSlotComplete_keyLost (invalid : s.coverValid (bankOf b.slot) = false) :
    exec (.readSlotComplete drift) s = .next ((s.execEnded.bindFails l tag p b .keyLost).withControl ArrayControl.afterReads) := by
  have place' : s.execEnded.pos l p = .loading b rp := place
  have invalid' : s.execEnded.coverValid (bankOf b.slot) = false := invalid
  rw [exec_readSlotComplete_reading runs drift reads]
  simp only [State.bindRead, place', invalid', if_true]

variable (valid : s.coverValid (bankOf b.slot) = true)
include valid

theorem exec_readSlotComplete_damaged (fails : rcwMatches (asRead s.array.records[n] drift) = false ∨
    kcwMatches (asRead s.array.records[n] drift) s.retention.covers[bankOf b.slot].value = false) :
    exec (.readSlotComplete drift) s =
      .next (((s.execEnded.damage b.slot).bindFails l tag p b .keyDamaged).withControl ArrayControl.afterReads) := by
  have place' : s.execEnded.pos l p = .loading b rp := place
  have valid' : s.execEnded.coverValid (bankOf b.slot) = true := valid
  have fails' : (rcwMatches (asRead s.array.records[n] drift) &&
      kcwMatches (asRead s.array.records[n] drift) s.execEnded.retention.covers[bankOf b.slot].value) = false :=
    Bool.and_eq_false_iff.mpr fails
  rw [exec_readSlotComplete_reading runs drift reads]
  simp only [State.bindRead, place', valid', fails', Bool.true_eq_false, if_false, if_true]

variable (rcw : rcwMatches (asRead s.array.records[n] drift) = true)
  (kcw : kcwMatches (asRead s.array.records[n] drift) s.retention.covers[bankOf b.slot].value = true)
include rcw kcw

theorem exec_readSlotComplete_refused {oc : OutcomeCode} (refused : s.slotRecheck b.slot = some oc) :
    exec (.readSlotComplete drift) s = .next ((s.execEnded.bindFails l tag p b oc).withControl ArrayControl.afterReads) := by
  have place' : s.execEnded.pos l p = .loading b rp := place
  have valid' : s.execEnded.coverValid (bankOf b.slot) = true := valid
  have kcw' : kcwMatches (asRead s.array.records[n] drift) s.execEnded.retention.covers[bankOf b.slot].value = true := kcw
  have refused' : s.execEnded.slotRecheck b.slot = some oc := refused
  rw [exec_readSlotComplete_reading runs drift reads]
  simp only [State.bindRead, place', valid', rcw, kcw', Bool.and_self, Bool.true_eq_false, if_false, refused']

theorem exec_readSlotComplete_loads (accepted : s.slotRecheck b.slot = none) :
    exec (.readSlotComplete drift) s = .next ((s.execEnded.queueLoad l tag p asked grant b.slot
      (asRead s.array.records[n] drift) s.retention.covers[bankOf b.slot].value).withControl ArrayControl.afterReads) := by
  have place' : s.execEnded.pos l p = .loading b rp := place
  have valid' : s.execEnded.coverValid (bankOf b.slot) = true := valid
  have kcw' : kcwMatches (asRead s.array.records[n] drift) s.execEnded.retention.covers[bankOf b.slot].value = true := kcw
  have accepted' : s.execEnded.slotRecheck b.slot = none := accepted
  rw [exec_readSlotComplete_reading runs drift reads]
  simp only [State.bindRead, place', valid', rcw, kcw', Bool.and_self, Bool.true_eq_false, if_false, accepted']
  rfl

end

theorem unmasked_get (record : SlotRecord) (cover : Vector Byte 32) (i : Fin 32) : (unmasked record cover)[i] =
    if i.val < hLength record.header then record.value[i] ^^^ cover[i] else 0 := by
  simp [unmasked, maskValue]

/-- Settles O39: a read's record is judged, and each judgement ends the BIND or queues its LOAD. -/
theorem readSlotCompleteLoadsOrDamages : Obligations.ReadSlotCompleteLoadsOrDamages := by
  refine ⟨fun s l n tag p asked grant b rp drift runs reads place slot => ⟨fun valid rcw kcw accepted => ?_, _, rfl,
    fun valid fails => ?_, fun oc valid rcw kcw refused => ?_, fun invalid => ?_⟩,
    fun s l n tag drift runs lost => exec_readSlotComplete_lost runs drift lost⟩
  · subst slot
    refine ⟨unmasked (asRead s.array.records[b.slot] drift) s.retention.covers[bankOf b.slot].value, unmasked_get _ _, ?_⟩
    rw [exec_readSlotComplete_loads runs drift reads place valid rcw kcw accepted]
    simp only [State.queueLoad, State.queueFrame, State.withBus, put_put, put_get_same]
    rfl
  · subst slot
    rw [exec_readSlotComplete_damaged runs drift reads place valid fails, bindFails_eq]
    simp only [damage_header]
    rw [damage_eq]
    rfl
  · subst slot
    rw [exec_readSlotComplete_refused runs drift reads place valid rcw kcw refused, bindFails_eq]
    rfl
  · subst slot
    rw [exec_readSlotComplete_keyLost runs drift reads place invalid, bindFails_eq]
    rfl

end Sys2Proof.Machine
end

section
/-! PROOF. RELEASE, RELEASE ALL and CLEAR BLOCKED (O41, O43). -/

namespace Sys2Proof.Machine

/-! ## Settlements (R60) -/

theorem settle_exact (s : State) (b : Binding) (used : Nat) : s.settle b used = { s with retention := { s.retention with
    slots := put s.retention.slots b.slot { s.retention.slots[b.slot] with
      issued := min 16777215 (s.retention.slots[b.slot].issued + min used b.reservation)
      remaining := if (hAllowance s.directory.slots[b.slot].header).isSome
        then s.retention.slots[b.slot].remaining + (b.reservation - min used b.reservation)
        else s.retention.slots[b.slot].remaining } } } := by
  rw [State.settle, giveBack_exact]
  simp only [State.charge, State.withSlotRet, put_put, put_get_same]
  rfl

theorem settle_lineTaken (s : State) (l : Line) (b : Binding) (used : Nat) :
    (s.lineTaken l).settle b used = (s.settle b used).lineTaken l := by
  rw [settle_exact, settle_exact]
  rfl

/-- A request whose message is gone and that completes at once. -/
theorem finishLine_taken {s : State} {l : Line} (idle : s.lineProgress[l] = none) (t k : Byte) (oc : OutcomeCode)
    (d : List Byte) : (s.lineTaken l).finishLine l t k oc d = s.lineAnswered l t k oc d := by
  simp [State.finishLine, State.lineAnswered, State.lineTaken, State.pushCompletion, State.setProgress, State.withLink,
    put_of_eq _ _ _ idle]

/-! ## RELEASE (R71) -/

theorem exec_release {s : State} {l : Line} {m : Message} {q : Pos × Nat} (passes : s.linePasses l codeRelease parseRelease m q) :
    exec (.release l) s = .next (takeRelease l m.tag q (s.lineTaken l)) :=
  congrArg Host.Outcome.next (takeLine_passes s l codeRelease parseRelease (takeRelease l) m q passes)

/-- Settles O41, by the state of the position. -/
theorem releaseClearsOrSettles : Obligations.ReleaseClearsOrSettles := by
  intro s l m p used passes
  have idle := takeable_line_idle s l m passes.1
  have runs := exec_release passes
  have place : (s.lineTaken l).pos l p = s.pos l p := rfl
  refine ⟨fun b bound => ?_, fun b recalled => ?_, fun b reason unclean ended => ?_, fun unbound => ?_⟩
  · simp only [takeRelease, State.releaseAt, place, bound] at runs
    exact runs
  · simp only [takeRelease, State.releaseAt, place, recalled] at runs
    exact runs
  · simp only [takeRelease, State.releaseAt, place, ended, settle_lineTaken] at runs
    have settled : (s.settle b used).lineProgress[l] = none := by rw [settle_exact]; exact idle
    have answered := finishLine_taken settled m.tag codeRelease reason.outcome (settlementData p b used)
    have positions : (s.settle b used).positions = s.positions := by rw [settle_exact]
    have positions' : ((s.settle b used).lineTaken l).positions = s.positions := positions
    have moved (x : Position) : (((s.settle b used).lineTaken l).setPos l p x).finishLine l m.tag codeRelease reason.outcome
        (settlementData p b used) = { (s.settle b used).lineAnswered l m.tag codeRelease reason.outcome
          (settlementData p b used) with positions := s.positionsWith l p x } := by
      rw [← answered, State.setPos, positions']
      rfl
    rw [runs, moved]
    cases reason <;> rfl
  · have answered := finishLine_lineTaken s l m passes.1 m.tag codeRelease .notBound []
    obtain free | blocked := unbound
    · simp only [takeRelease, State.releaseAt, place, free, answered] at runs
      exact runs
    · simp only [takeRelease, State.releaseAt, place, blocked, answered] at runs
      exact runs

/-! ## RELEASE ALL (R73) -/

/-- The settlement a RELEASE ALL makes at a position as it stood: of an ENDED one only. -/
def State.settledAt (s : State) (l : Line) (used : Vector Nat 4) (v : State) (p : Pos) : State :=
  match s.pos l p with
  | .ended b _ _ => v.settle b used[p]
  | _ => v

/-- The settlements change slot retention alone. -/
theorem settledAt_fold_frame (s : State) (l : Line) (used : Vector Nat 4) (ps : List Pos) (v : State) :
    ∃ slots, ps.foldl (s.settledAt l used) v = { v with retention := { v.retention with slots := slots } } := by
  refine foldl_keeps (fun t => ∃ slots, t = { v with retention := { v.retention with slots := slots } }) (s.settledAt l used) ?_ ps v
    ⟨v.retention.slots, rfl⟩
  rintro t p ⟨slots, rfl⟩
  unfold State.settledAt
  split
  · rw [settle_exact]
    exact ⟨_, rfl⟩
  · exact ⟨slots, rfl⟩

theorem settledAt_fold_lineTaken (s : State) (l : Line) (used : Vector Nat 4) (ps : List Pos) (v : State) :
    ps.foldl (s.settledAt l used) (v.lineTaken l) = (ps.foldl (s.settledAt l used) v).lineTaken l := by
  refine List.foldl_hom (fun v : State => v.lineTaken l) fun v p => ?_
  unfold State.settledAt
  split
  · rw [settle_lineTaken]
  · rfl

/-- No frame is queued for no position. -/
theorem queue_nil (s : State) (l : Line) : put s.buses l { s.buses[l] with queue := s.buses[l].queue ++ [] } = s.buses :=
  put_of_eq _ _ _ (by rw [List.append_nil])

/-- What the positions of a list leave once each is released, from a state in which they stood as in s: v is the state with
their settlements, and entries those they have. -/
structure ReleasedAt (s : State) (l : Line) (used : Vector Nat 4) (past : List Pos) (v : State)
    (r : State × Vector ReleaseEntry 4) : Prop where
  state : r.1 = { v with
    positions := put s.positions l (Vector.ofFn fun p => if p ∈ past then (s.pos l p).released else s.pos l p)
    buses := put s.buses l { s.buses[l] with queue := s.buses[l].queue ++
      (past.filter fun q => (s.pos l q).isBound).map fun q => { kind := .clear q, stale := false } } }
  entry : ∀ p ∈ past, r.2[p] = releaseEntry (s.pos l p) used[p]

/-- What a release does to a position, by what it was. -/
theorem releaseAt_eq (s : State) (l : Line) (p : Pos) (used : Nat) : (s.releaseAt l p used).2 = releaseEntry (s.pos l p) used := by
  unfold State.releaseAt releaseEntry
  cases s.pos l p with
  | ended b reason unclean => cases reason <;> rfl
  | _ => rfl

/-- A table with one entry made anew. -/
theorem ofFn_put {α : Type} {past : List Pos} {p : Pos} (f g : Pos → α) :
    put (Vector.ofFn fun q => if q ∈ past then f q else g q) p (f p) =
      Vector.ofFn fun q => if q ∈ past ++ [p] then f q else g q := by
  apply Vector.ext
  intro i bound
  have at_i := put_get (Vector.ofFn fun q => if q ∈ past then f q else g q) p ⟨i, bound⟩ (f p)
  simp only [Fin.getElem_fin, Vector.getElem_ofFn] at at_i
  rw [at_i, Vector.getElem_ofFn]
  by_cases same : p = ⟨i, bound⟩
  · simp [same]
  · have other : ¬ (⟨i, bound⟩ : Pos) = p := fun e => same e.symm
    simp [same, other]

theorem ReleasedAt.pos {s : State} {l : Line} {used : Vector Nat 4} {past : List Pos} {v : State}
    {r : State × Vector ReleaseEntry 4} (h : ReleasedAt s l used past v r) {p : Pos} (fresh : p ∉ past) :
    r.1.pos l p = s.pos l p := by
  rw [h.state, State.pos]
  dsimp only
  rw [put_get_same]
  simp [fresh]

theorem ReleasedAt.step {s : State} {l : Line} {used : Vector Nat 4} {past : List Pos} {v : State}
    {r : State × Vector ReleaseEntry 4} (h : ReleasedAt s l used past v r) {p : Pos} (fresh : p ∉ past) :
    ReleasedAt s l used (past ++ [p]) (s.settledAt l used v p)
      ((r.1.releaseAt l p used[p]).1, put r.2 p (r.1.releaseAt l p used[p]).2) := by
  have place := h.pos fresh
  refine ⟨?_, fun q mem => ?_⟩
  · have same : (s.pos l p).released = s.pos l p → (s.pos l p).isBound = false → r.1 = { v with
        positions := put s.positions l (Vector.ofFn fun q => if q ∈ past ++ [p] then (s.pos l q).released else s.pos l q)
        buses := put s.buses l { s.buses[l] with queue := s.buses[l].queue ++
          ((past ++ [p]).filter fun q => (s.pos l q).isBound).map fun q => { kind := .clear q, stale := false } } } := by
      intro stays unbound
      have put_stays : put (Vector.ofFn fun q => if q ∈ past then (s.pos l q).released else s.pos l q) p (s.pos l p).released =
          Vector.ofFn fun q => if q ∈ past then (s.pos l q).released else s.pos l q := by
        refine put_of_eq _ _ _ ?_
        simp [fresh, stays]
      rw [← ofFn_put, put_stays, h.state]
      simp [List.filter_append, unbound]
    have places : (put s.positions l (Vector.ofFn fun q => if q ∈ past then (s.pos l q).released else s.pos l q))[l] =
        Vector.ofFn fun q => if q ∈ past then (s.pos l q).released else s.pos l q := put_get_same _ _ _
    cases held : s.pos l p with
    | bound b =>
      have released : (s.pos l p).released = .clearing b .release := by rw [held]; rfl
      have alone : ([p].filter fun q => (s.pos l q).isBound) = [p] := List.filter_cons_of_pos (by rw [held]; rfl)
      simp only [State.releaseAt, place, held, State.settledAt]
      rw [h.state, ← ofFn_put, released, List.filter_append, alone]
      simp only [State.setPos, State.queueFrame, State.withBus, put_put, put_get_same, List.map_append,
        List.append_assoc]
      rfl
    | ended b reason unclean =>
      have released : (s.pos l p).released = if unclean then .blocked else .free := by rw [held]; rfl
      have none : ([p].filter fun q => (s.pos l q).isBound) = [] :=
        List.filter_cons_of_neg (by rw [held]; exact Bool.false_ne_true)
      simp only [State.releaseAt, place, held, State.settledAt]
      rw [h.state, ← ofFn_put, released, List.filter_append, none]
      simp only [State.setPos, settle_exact, put_put, put_get_same, List.append_nil]
    | free => simpa only [State.releaseAt, place, held, State.settledAt] using same (by rw [held]; rfl) (by rw [held]; rfl)
    | blocked => simpa only [State.releaseAt, place, held, State.settledAt] using same (by rw [held]; rfl) (by rw [held]; rfl)
    | loading b rp => simpa only [State.releaseAt, place, held, State.settledAt] using same (by rw [held]; rfl) (by rw [held]; rfl)
    | clearing b k => simpa only [State.releaseAt, place, held, State.settledAt] using same (by rw [held]; rfl) (by rw [held]; rfl)
  · rw [releaseAt_eq, place, put_get]
    split
    · next same => rw [same]
    · next other => exact h.entry q ((List.mem_append.mp mem).resolve_right fun last => other (List.mem_singleton.mp last).symm)

theorem ReleasedAt.fold {s : State} {l : Line} {used : Vector Nat 4} (ps : List Pos) : ∀ {past : List Pos} {v : State}
    {r : State × Vector ReleaseEntry 4}, ReleasedAt s l used past v r → (past ++ ps).Nodup →
    ReleasedAt s l used (past ++ ps) (ps.foldl (s.settledAt l used) v) (ps.foldl (fun acc p =>
      ((acc.1.releaseAt l p used[p]).1, put acc.2 p (acc.1.releaseAt l p used[p]).2)) r) := by
  induction ps with
  | nil => intro past v r h _; simpa using h
  | cons p ps ih =>
    intro past v r h nodup
    have fresh : p ∉ past := fun mem => by
      have := List.disjoint_of_nodup_append nodup mem
      simp at this
    have := ih (h.step fresh) (by simpa using nodup)
    simpa using this

theorem releaseEntry_settled (x : Position) (used : Nat) : (releaseEntry x used).isSettled = true ↔
    (∀ b, x ≠ .bound b) ∧ ∀ b k, x ≠ .clearing b k := by
  cases x with
  | ended b reason unclean => cases reason <;> simp [releaseEntry, ReleaseEntry.isSettled]
  | _ => simp [releaseEntry, ReleaseEntry.isSettled]

theorem exec_releaseAll {s : State} {l : Line} {m : Message} {used : Vector Nat 4}
    (passes : s.linePasses l codeReleaseAll parseReleaseAll m used) :
    exec (.releaseAll l) s = .next (takeReleaseAll l m.tag used (s.lineTaken l)) :=
  congrArg Host.Outcome.next (takeLine_passes s l codeReleaseAll parseReleaseAll (takeReleaseAll l) m used passes)

/-- The state with every position released by the taking alone: u is the state with the settlements. -/
def State.releasedAll (s u : State) (l : Line) : State :=
  { u.lineTaken l with
    positions := put s.positions l (Vector.ofFn fun p => (s.pos l p).released)
    buses := put s.buses l { s.buses[l] with queue := s.buses[l].queue ++
      (four.filter fun q => (s.pos l q).isBound).map fun q => { kind := .clear q, stale := false } } }

theorem takeReleaseAll_eq (s : State) (l : Line) (tag : Byte) (used : Vector Nat 4) :
    takeReleaseAll l tag used (s.lineTaken l) = (s.releasedAll (four.foldl (s.settledAt l used) s) l).releaseAllCheck l tag
      (Vector.ofFn fun q => releaseEntry (s.pos l q) used[q]) := by
  have start : ReleasedAt s l used [] (s.lineTaken l) (s.lineTaken l, Vector.replicate 4 (.wait 0)) := by
    refine ⟨?_, fun _ none => by cases none⟩
    have positions : put s.positions l (Vector.ofFn fun p => s.pos l p) = s.positions := by
      refine put_of_eq _ _ _ (Vector.ext fun i bound => ?_)
      rw [Vector.getElem_ofFn]
      rfl
    simp only [List.not_mem_nil, if_false, positions, List.filter_nil, List.map_nil, queue_nil, State.lineTaken]
  have folded := ReleasedAt.fold four start (by decide)
  rw [settledAt_fold_lineTaken, List.nil_append] at folded
  have entries : (four.foldl (fun (acc : State × Vector ReleaseEntry 4) p =>
      ((acc.1.releaseAt l p used[p]).1, put acc.2 p (acc.1.releaseAt l p used[p]).2))
      (s.lineTaken l, Vector.replicate 4 (.wait 0))).2 = Vector.ofFn fun q => releaseEntry (s.pos l q) used[q] := by
    refine Vector.ext fun i bound => ?_
    rw [Vector.getElem_ofFn]
    exact folded.entry ⟨i, bound⟩ (mem_four _)
  have state := folded.state
  simp only [mem_four, if_true] at state
  simp only [takeReleaseAll]
  rw [entries, state]
  rfl

/-- With no position bound, no CLEAR is queued. -/
theorem releasedAll_unbound {s u : State} {l : Line} (buses : u.buses = s.buses)
    (none : ∀ p : Pos, (s.pos l p).isBound = false) :
    s.releasedAll u l = { u.lineTaken l with positions := put s.positions l (Vector.ofFn fun p => (s.pos l p).released) } := by
  have unbound : (four.filter fun q => (s.pos l q).isBound) = [] :=
    List.filter_eq_nil_iff.mpr fun q _ bound => Bool.false_ne_true ((none q).symm.trans bound)
  unfold State.releasedAll
  rw [unbound, List.map_nil, queue_nil, ← buses]
  rfl

/-! ## CLEAR BLOCKED (R74) -/

theorem exec_clearBlocked {s : State} {l : Line} {m : Message} (passes : s.linePasses l codeClearBlocked parseNone m ()) :
    exec (.clearBlocked l) s = .next (takeClearBlocked l m.tag () (s.lineTaken l)) :=
  congrArg Host.Outcome.next (takeLine_passes s l codeClearBlocked parseNone (takeClearBlocked l) m () passes)

/-- CLEARs queued for a list of positions. -/
theorem queueClears_eq (l : Line) (ps : List Pos) (s : State) : ps.foldl (fun u p => u.queueFrame l (.clear p)) s = { s with
    buses := put s.buses l { s.buses[l] with queue := s.buses[l].queue ++ ps.map fun p => { kind := .clear p, stale := false } } } := by
  induction ps generalizing s with
  | nil => rw [List.foldl_nil, List.map_nil, queue_nil]
  | cons p ps ih =>
    rw [List.foldl_cons, ih]
    simp only [State.queueFrame, State.withBus, put_put, put_get_same, List.map_cons, List.append_assoc, List.cons_append,
      List.nil_append]

theorem blocked_table (s : State) (l : Line) : mapTable (fun x => x == Position.blocked) s.positions[l] =
    Vector.ofFn fun q => s.pos l q == .blocked := by
  refine Vector.ext fun i bound => ?_
  rw [mapTable_get_val, Vector.getElem_ofFn]
  rfl

theorem takeClearBlocked_eq (s : State) (l : Line) (tag : Byte) : takeClearBlocked l tag () (s.lineTaken l) =
    State.clearBlockedCheck { s.lineTaken l with
      buses := put s.buses l { s.buses[l] with queue := s.buses[l].queue ++
        (four.filter fun q => s.pos l q == .blocked).map fun q => { kind := .clear q, stale := false } } } l tag
      (Vector.ofFn fun q => s.pos l q == .blocked) (Vector.replicate 4 false) := by
  have waiting : mapTable (fun x => x == Position.blocked) (s.lineTaken l).positions[l] =
    Vector.ofFn fun q => s.pos l q == .blocked := blocked_table s l
  unfold takeClearBlocked
  dsimp only
  rw [waiting, queueClears_eq]
  simp only [Fin.getElem_fin, Vector.getElem_ofFn]
  rfl

theorem blocked_any (s : State) (l : Line) : ((Vector.ofFn fun q => s.pos l q == .blocked : Vector Bool 4).toList.any id) = true ↔
    ∃ p : Pos, s.pos l p = .blocked := by
  rw [any_toList_iff]
  simp

/-- Settles O43: the taking releases place after place, and completes when no entry waits. -/
theorem releaseAllAndClearBlockedQueueClears : Obligations.ReleaseAllAndClearBlockedQueueClears := by
  refine ⟨fun s u l m used passes settled => ?_, fun s l m passes => ?_⟩
  · obtain rfl : u = four.foldl (s.settledAt l used) s := by
      rw [settled]
      rfl
    obtain ⟨slots, frame⟩ := settledAt_fold_frame s l used four s
    have idle : (four.foldl (s.settledAt l used) s).lineProgress[l] = none := by
      rw [frame]
      exact takeable_line_idle s l m passes.1
    rw [exec_releaseAll passes, takeReleaseAll_eq]
    have settledAll : (Vector.ofFn fun q => releaseEntry (s.pos l q) used[q]).toList.all ReleaseEntry.isSettled = true ↔
        ∀ p : Pos, (∀ b, s.pos l p ≠ .bound b) ∧ ∀ b k, s.pos l p ≠ .clearing b k := by
      rw [toList_four]
      simp only [List.all_map, List.all_eq_true, Function.comp_apply, Fin.getElem_fin, Vector.getElem_ofFn, releaseEntry_settled]
      exact ⟨fun all p => all p (mem_four p), fun all p _ => all p⟩
    refine ⟨fun none => ?_, fun p waits => ?_⟩
    · have unbound : ∀ q : Pos, (s.pos l q).isBound = false := fun q => by
        cases held : s.pos l q with
        | bound b => exact absurd held ((none q).1 b)
        | _ => rfl
      have buses : (four.foldl (s.settledAt l used) s).buses = s.buses := by rw [frame]
      unfold State.releaseAllCheck
      rw [if_pos (settledAll.mpr none), releasedAll_unbound buses unbound, toList_four, List.flatMap_map]
      simp only [Fin.getElem_fin, Vector.getElem_ofFn]
      exact congrArg (fun v : State => Host.Outcome.next { v with
        positions := put s.positions l (Vector.ofFn fun p => (s.pos l p).released) })
        (finishLine_taken idle m.tag codeReleaseAll .ok
          (four.flatMap fun p => (releaseEntry (s.pos l p) used[p]).bytes))
    · unfold State.releaseAllCheck
      rw [if_neg fun all => ?_]
      · have progress : (four.foldl (s.settledAt l used) s).lineProgress = s.lineProgress := by rw [frame]
        unfold State.releasedAll State.setProgress
        rw [← progress]
        rfl
      · obtain ⟨unbound, unclear⟩ := settledAll.mp all p
        exact waits.elim (fun ⟨b, bound⟩ => unbound b bound) fun ⟨b, k, clearing⟩ => unclear b k clearing
  · rw [exec_clearBlocked passes, takeClearBlocked_eq]
    refine ⟨fun none => ?_, fun p blocked => ?_⟩
    · have nothing : (four.filter fun q => s.pos l q == .blocked) = [] := by
        rw [List.filter_eq_nil_iff]
        exact fun q _ blocked => none q (eq_of_beq blocked)
      unfold State.clearBlockedCheck
      rw [if_neg fun some => (blocked_any s l).mp some |>.elim none, nothing, List.map_nil, queue_nil]
      exact congrArg Host.Outcome.next (finishLine_lineTaken s l m passes.1 m.tag codeClearBlocked .ok _)
    · unfold State.clearBlockedCheck
      rw [if_pos ((blocked_any s l).mpr ⟨p, blocked⟩)]
      rfl

end Sys2Proof.Machine
end

section
/-! PROOF. Frames on the key buses, and the replies that are disregarded (R85 to R88). -/

namespace Sys2Proof.Machine

/-! ## Sending (R85 to R87) -/

theorem exec_frameSendStart_starts {s : State} {e : Line} {f : Frame} {rest : List Frame} (queue : s.buses[e].queue = f :: rest)
    (idle : s.buses[e].state = .idle) (ready : s.buses[e].ready = true) :
    exec (.frameSendStart e) s = .next { s with
      buses := put s.buses e { s.buses[e] with state := .sending, frameNumber := s.buses[e].frameNumber + 1 } } := by
  have sends : (s.buses[e].state == .idle && s.buses[e].ready && !s.buses[e].queue.isEmpty) = true := by
    rw [idle, ready, queue]
    rfl
  exact if_pos sends

theorem exec_frameSendStart_waits {s : State} {e : Line}
    (waits : s.buses[e].state ≠ .idle ∨ s.buses[e].ready = false ∨ s.buses[e].queue = []) :
    exec (.frameSendStart e) s = .next s := by
  refine if_neg fun sends => ?_
  simp only [Bool.and_eq_true, beq_iff_eq, Bool.not_eq_true'] at sends
  obtain ⟨⟨idle, ready⟩, nonempty⟩ := sends
  rcases waits with other | unready | empty
  · exact other idle
  · rw [ready] at unready
    cases unready
  · rw [empty] at nonempty
    cases nonempty

theorem exec_frameSent_ends {s : State} {e : Line} (sending : s.buses[e].state = .sending) :
    exec (.frameSent e) s = .next { s with buses := put s.buses e { s.buses[e] with
      state := .awaiting, replyTimer := true, lastEnd := .whole
      buffer := if s.buses[e].queue.head?.any (·.kind.isLoad) then zeros32 else s.buses[e].buffer } } :=
  if_pos (beq_iff_eq.mpr sending)

theorem exec_frameSent_waits {s : State} {e : Line} (other : s.buses[e].state ≠ .sending) :
    exec (.frameSent e) s = .next s :=
  if_neg fun sending => other (beq_iff_eq.mp sending)

/-- The bytes of a frame whose transmitter has just taken its number. -/
theorem frameBytes_sent (x : Transmitter) (kind : FrameKind) :
    ({ x with state := .sending, frameNumber := x.frameNumber + 1 } : Transmitter).frameBytes kind =
      ({ x with frameNumber := x.frameNumber + 1 } : Transmitter).frameBytes kind := rfl

/-- The number of a frame is the one its transmitter had before. -/
theorem number_before (number : Byte) : number + 1 - 1 = number := by bv_omega

/-- Settles O44: each command acts in its own state of the transmitter alone, and a LOAD's end clears the buffer. -/
theorem framesAreSentInTurn : Obligations.FramesAreSentInTurn := by
  refine ⟨fun s e => ⟨fun waits => exec_frameSendStart_waits (waits.imp_right .inr), exec_frameSent_waits⟩,
    fun s e f rest queue => ⟨fun idle ready => ⟨_, exec_frameSendStart_starts queue idle ready, ?_⟩,
      exec_frameSendStart_starts queue, fun _ unready => exec_frameSendStart_waits (.inr (.inl unready)),
      fun sending other => ?_, fun sending load => ?_⟩⟩
  · dsimp only
    rw [put_get_same]
    unfold Transmitter.frameBytes withCheckWord
    dsimp only
    rw [number_before]
    cases f.kind <;> rfl
  · have notLoad : s.buses[e].queue.head?.any (·.kind.isLoad) = false := by
      rw [queue]
      cases kind : f.kind with
      | load p cls len kcw => exact absurd kind (other p cls len kcw)
      | clear p => exact congrArg FrameKind.isLoad kind
      | clearAll => exact congrArg FrameKind.isLoad kind
    rw [exec_frameSent_ends sending, notLoad]
    rfl
  · obtain ⟨p, cls, len, kcw, kind⟩ := load
    have isLoad : s.buses[e].queue.head?.any (·.kind.isLoad) = true := by
      rw [queue]
      exact congrArg FrameKind.isLoad kind
    rw [exec_frameSent_ends sending, isLoad]
    rfl

end Sys2Proof.Machine
end

section
/-! PROOF. The replies of the engines, and those that are disregarded (R86, R88). -/

namespace Sys2Proof.Machine

/-! ## The parts of a reply -/

theorem cwBytes_length (w : Byte × Byte) : (cwBytes w).length = 2 := rfl

theorem cwBytes_injective {w w' : Byte × Byte} (same : cwBytes w = cwBytes w') : w = w' := by
  injection same with first rest
  injection rest with second
  exact Prod.ext first second

theorem withCheckWord_length (body : List Byte) : (withCheckWord body).length = body.length + 2 := by
  rw [withCheckWord, List.length_append, cwBytes_length]

theorem parseReply_withCheckWord (kind number : Byte) (rest : List Byte) :
    parseReply (withCheckWord (kind :: number :: rest)) = some (kind, number, rest) := by
  have length : (withCheckWord (kind :: number :: rest)).length - 2 = (kind :: number :: rest).length := by
    rw [withCheckWord_length]
    rfl
  have enough : ¬ (withCheckWord (kind :: number :: rest)).length < 4 := by
    rw [withCheckWord_length]
    simp
  unfold parseReply
  dsimp only
  rw [length, if_neg enough, withCheckWord, List.take_left, List.drop_left, if_pos rfl]

theorem eq_withCheckWord_of_parseReply {reply : List Byte} {kind number : Byte} {rest : List Byte}
    (parsed : parseReply reply = some (kind, number, rest)) : reply = withCheckWord (kind :: number :: rest) := by
  simp only [parseReply] at parsed
  split at parsed
  · cases parsed
  split at parsed
  · next word =>
    have split_reply := List.take_append_drop (reply.length - 2) reply
    rw [← word] at split_reply
    split at parsed
    · next taken =>
      obtain ⟨rfl, rfl, rfl⟩ : _ ∧ _ ∧ _ := by simpa using parsed
      rw [taken] at split_reply
      exact split_reply.symm
    · cases parsed
  · cases parsed

/-! ## The reply that answers a frame -/

theorem byte_eq_pos {q : Byte} {p : Pos} : q.toNat = p.val ↔ q = BitVec.ofNat 8 p.val := by
  have bound := p.isLt
  constructor
  · intro same
    exact BitVec.eq_of_toNat_eq (by rw [same, BitVec.toNat_ofNat, Nat.mod_eq_of_lt (by omega)])
  · rintro rfl
    rw [BitVec.toNat_ofNat, Nat.mod_eq_of_lt (by omega)]

theorem answerOf_accept {f : FrameKind} {kind : Byte} {rest : List Byte} : answerOf f kind rest = some .accept ↔
    ∃ p cls len kcw, f = .load p cls len kcw ∧ kind = 0x81 ∧ rest = [BitVec.ofNat 8 p.val] := by
  unfold answerOf
  split
  · next p cls len kcw q => simp [byte_eq_pos]
  · simp
  · simp
  · simp
  · next noLoad _ _ _ =>
    constructor
    · intro impossible
      cases impossible
    · rintro ⟨p, cls, len, kcw, rfl, rfl, rfl⟩
      exact absurd rfl (noLoad p cls len kcw _ rfl)

theorem answerOf_refuse {f : FrameKind} {kind reason : Byte} {rest : List Byte} :
    answerOf f kind rest = some (.refuse reason) ↔ ∃ p cls len kcw, f = .load p cls len kcw ∧ kind = 0x82 ∧
      rest = [BitVec.ofNat 8 p.val, reason] ∧ 1 ≤ reason.toNat ∧ reason.toNat ≤ 15 := by
  unfold answerOf
  split
  · simp
  · next p cls len kcw q r =>
    simp [byte_eq_pos]
    grind
  · simp
  · simp
  · next noLoad _ _ =>
    constructor
    · intro impossible
      cases impossible
    · rintro ⟨p, cls, len, kcw, rfl, rfl, rfl, _⟩
      exact absurd rfl (noLoad p cls len kcw _ _ rfl)

theorem answerOf_done {f : FrameKind} {kind : Byte} {rest : List Byte} : answerOf f kind rest = some .done ↔
    kind = 0x83 ∧ ((∃ p, f = .clear p ∧ rest = [BitVec.ofNat 8 p.val]) ∨ (f = .clearAll ∧ rest = [])) := by
  unfold answerOf
  split
  · simp
  · simp
  · simp [byte_eq_pos]
  · simp
  · next _ _ noClear noClearAll =>
    constructor
    · intro impossible
      cases impossible
    · rintro ⟨rfl, ⟨p, rfl, rfl⟩ | ⟨rfl, rfl⟩⟩
      · exact absurd rfl (noClear p _ rfl)
      · exact absurd rfl (noClearAll rfl)

/-- What answers a frame is what the statements call so. -/
theorem answeredBy_of_answerOf {f : FrameKind} {kind : Byte} {rest : List Byte} {a : ReplyKind}
    (answers : answerOf f kind rest = some a) : f.answeredBy kind rest := by
  cases a with
  | accept =>
    obtain ⟨p, cls, len, kcw, rfl, rfl, rfl⟩ := answerOf_accept.mp answers
    exact .inl ⟨rfl, rfl⟩
  | refuse reason =>
    obtain ⟨p, cls, len, kcw, rfl, rfl, rfl, bounds⟩ := answerOf_refuse.mp answers
    exact .inr ⟨rfl, reason, rfl, bounds⟩
  | done =>
    obtain ⟨rfl, ⟨p, rfl, rfl⟩ | ⟨rfl, rfl⟩⟩ := answerOf_done.mp answers
    · exact ⟨rfl, rfl⟩
    · exact ⟨rfl, rfl⟩

theorem outstanding_iff {x : Transmitter} {f : Frame} :
    x.outstanding = some f ↔ x.state = .awaiting ∧ x.queue.head? = some f := by
  unfold Transmitter.outstanding
  split
  · next awaiting => simp [awaiting]
  · next other => simp [other]

/-- A reply that is not disregarded: it arrives while a frame is outstanding, with its check word and the frame's number, and
answers it. -/
theorem answered_iff {x : Transmitter} {reply : List Byte} {f : Frame} {a : ReplyKind} :
    x.answered reply = some (f, a) ↔ x.state = .awaiting ∧ x.queue.head? = some f ∧ ∃ kind rest,
      reply = withCheckWord (kind :: (x.frameNumber - 1) :: rest) ∧ answerOf f.kind kind rest = some a := by
  constructor
  · intro answered
    unfold Transmitter.answered at answered
    split at answered
    · next g kind number rest out parsed =>
      obtain ⟨awaiting, head⟩ := outstanding_iff.mp out
      split at answered
      · next turn =>
        obtain ⟨b, answers, pair⟩ := Option.map_eq_some_iff.mp answered
        obtain ⟨rfl, rfl⟩ := Prod.mk.inj pair
        subst turn
        exact ⟨awaiting, head, kind, rest, eq_withCheckWord_of_parseReply parsed, answers⟩
      · cases answered
    · cases answered
  · rintro ⟨awaiting, head, kind, rest, rfl, answers⟩
    unfold Transmitter.answered
    rw [outstanding_iff.mpr ⟨awaiting, head⟩, parseReply_withCheckWord]
    dsimp only
    rw [if_pos rfl, answers]
    rfl

/-! ## The commands that deliver a reply -/

/-- The transmitter has not accepted this reply as an answer of this kind. -/
def Transmitter.disregards (x : Transmitter) (reply : List Byte) (kind : ReplyKind → Prop) : Prop :=
  ∀ f a, x.answered reply = some (f, a) → ¬ kind a

theorem exec_accept_disregards {s : State} {e : Line} {reply : List Byte}
    (other : s.buses[e].disregards reply (· = .accept)) : exec (.accept e reply) s = .next s := by
  change execAccept e reply s = _
  unfold execAccept
  split
  · next f answered => exact absurd rfl (other f _ answered)
  · rfl

theorem exec_refuse_disregards {s : State} {e : Line} {reply : List Byte}
    (other : s.buses[e].disregards reply (∃ reason, · = .refuse reason)) : exec (.refuse e reply) s = .next s := by
  change execRefuse e reply s = _
  unfold execRefuse
  split
  · next f reason answered => exact absurd ⟨reason, rfl⟩ (other f _ answered)
  · rfl

theorem exec_done_disregards {s : State} {e : Line} {reply : List Byte}
    (other : s.buses[e].disregards reply (· = .done)) : exec (.done e reply) s = .next s := by
  change execDone e reply s = _
  unfold execDone
  split
  · next f answered => exact absurd rfl (other f _ answered)
  · rfl

/-- A reply of another kind than the command's. -/
theorem disregards_of_head {x : Transmitter} {reply : List Byte} {byte : Byte} {kind : ReplyKind → Prop}
    (kindByte : ∀ f k rest a, answerOf f k rest = some a → kind a → k = byte) (head : reply.head? ≠ some byte) :
    x.disregards reply kind := by
  intro f a answered is_kind
  obtain ⟨_, _, k, rest, rfl, answers⟩ := answered_iff.mp answered
  exact head (congrArg some (kindByte _ _ _ _ answers is_kind))

/-- Settles O47: the parts of a reply are those it was built of, so each condition that fails is one an answer meets. -/
theorem repliesThatFailAConditionChangeNothing : Obligations.RepliesThatFailAConditionChangeNothing := by
  refine fun s e reply => ⟨rfl, fun fails => ?_, fun head => ?_, fun head => ?_, fun head => ?_⟩
  · have unanswered : ∀ f a, s.buses[e].answered reply ≠ some (f, a) := by
      intro f a answered
      obtain ⟨awaiting, outstanding, kind, rest, whole, answers⟩ := answered_iff.mp answered
      rcases fails with state | ⟨body, w, parts, wrong⟩ | ⟨kind', number, rest', parts, other⟩ |
          ⟨g, kind', number, rest', head, parts, unfit⟩
      · exact state awaiting
      · rw [parts] at whole
        obtain ⟨rfl, word⟩ := List.append_inj' whole rfl
        exact wrong (cwBytes_injective word)
      · rw [parts] at whole
        obtain ⟨same, _⟩ := List.append_inj' whole rfl
        injection same with _ same
        injection same with same _
        exact other same
      · rw [parts] at whole
        obtain ⟨same, _⟩ := List.append_inj' whole rfl
        obtain rfl : g = f := Option.some.inj (head.symm.trans outstanding)
        injection same with same_kind same
        injection same with _ same_rest
        subst same_kind same_rest
        exact unfit (answeredBy_of_answerOf answers)
    exact ⟨exec_accept_disregards fun f a answered => absurd answered (unanswered f a),
      exec_refuse_disregards fun f a answered => absurd answered (unanswered f a),
      exec_done_disregards fun f a answered => absurd answered (unanswered f a)⟩
  · refine exec_accept_disregards (disregards_of_head (fun f k rest a answers is_kind => ?_) head)
    subst is_kind
    obtain ⟨_, _, _, _, _, byte, _⟩ := answerOf_accept.mp answers
    exact byte
  · refine exec_refuse_disregards (disregards_of_head (fun f k rest a answers is_kind => ?_) head)
    obtain ⟨reason, rfl⟩ := is_kind
    obtain ⟨_, _, _, _, _, byte, _⟩ := answerOf_refuse.mp answers
    exact byte
  · refine exec_done_disregards (disregards_of_head (fun f k rest a answers is_kind => ?_) head)
    subst is_kind
    exact (answerOf_done.mp answers).1

end Sys2Proof.Machine
end

section
/-! PROOF. The outcomes of a LOAD (R68, R77, R89 to R92). -/

namespace Sys2Proof.Machine

/-! ## A reply that answers, and a timeout -/

theorem exec_accept {s : State} {e : Line} {p : Pos} {cls : Byte} {len : Nat} {kcw : Byte × Byte} {stale : Bool}
    {rest : List Frame} (awaiting : s.buses[e].state = .awaiting)
    (queue : s.buses[e].queue = ⟨.load p cls len kcw, stale⟩ :: rest) :
    exec (.accept e (withCheckWord [0x81, s.buses[e].frameNumber - 1, BitVec.ofNat 8 p.val])) s =
      .next (if stale = true then s.popFrame e else (s.popFrame e).loadAccepted e p) := by
  have answered : s.buses[e].answered (withCheckWord [0x81, s.buses[e].frameNumber - 1, BitVec.ofNat 8 p.val]) =
      some (⟨.load p cls len kcw, stale⟩, .accept) :=
    answered_iff.mpr ⟨awaiting, by rw [queue]; rfl, _, _, rfl, answerOf_accept.mpr ⟨p, cls, len, kcw, rfl, rfl, rfl⟩⟩
  change execAccept e _ s = _
  unfold execAccept
  rw [answered]

theorem exec_refuse {s : State} {e : Line} {p : Pos} {cls : Byte} {len : Nat} {kcw : Byte × Byte} {stale : Bool}
    {rest : List Frame} {reason : Byte} (awaiting : s.buses[e].state = .awaiting)
    (queue : s.buses[e].queue = ⟨.load p cls len kcw, stale⟩ :: rest) (low : 1 ≤ reason.toNat) (high : reason.toNat ≤ 15) :
    exec (.refuse e (withCheckWord [0x82, s.buses[e].frameNumber - 1, BitVec.ofNat 8 p.val, reason])) s =
      .next (if stale = true then s.popFrame e else (s.popFrame e).loadRefused e p reason) := by
  have answered : s.buses[e].answered (withCheckWord [0x82, s.buses[e].frameNumber - 1, BitVec.ofNat 8 p.val, reason]) =
      some (⟨.load p cls len kcw, stale⟩, .refuse reason) :=
    answered_iff.mpr ⟨awaiting, by rw [queue]; rfl, _, _, rfl,
      answerOf_refuse.mpr ⟨p, cls, len, kcw, rfl, rfl, rfl, low, high⟩⟩
  change execRefuse e _ s = _
  unfold execRefuse
  rw [answered]

theorem exec_done_clear {s : State} {e : Line} {p : Pos} {stale : Bool} {rest : List Frame}
    (awaiting : s.buses[e].state = .awaiting) (queue : s.buses[e].queue = ⟨.clear p, stale⟩ :: rest) :
    exec (.done e (withCheckWord [0x83, s.buses[e].frameNumber - 1, BitVec.ofNat 8 p.val])) s =
      .next ((s.popFrame e).deliverDone e ⟨.clear p, stale⟩) := by
  have answered : s.buses[e].answered (withCheckWord [0x83, s.buses[e].frameNumber - 1, BitVec.ofNat 8 p.val]) =
      some (⟨.clear p, stale⟩, .done) :=
    answered_iff.mpr ⟨awaiting, by rw [queue]; rfl, _, _, rfl, answerOf_done.mpr ⟨rfl, .inl ⟨p, rfl, rfl⟩⟩⟩
  change execDone e _ s = _
  unfold execDone
  rw [answered]

theorem exec_done_clearAll {s : State} {e : Line} {stale : Bool} {rest : List Frame}
    (awaiting : s.buses[e].state = .awaiting) (queue : s.buses[e].queue = ⟨.clearAll, stale⟩ :: rest) :
    exec (.done e (withCheckWord [0x83, s.buses[e].frameNumber - 1])) s =
      .next ((s.popFrame e).deliverDone e ⟨.clearAll, stale⟩) := by
  have answered : s.buses[e].answered (withCheckWord [0x83, s.buses[e].frameNumber - 1]) =
      some (⟨.clearAll, stale⟩, .done) :=
    answered_iff.mpr ⟨awaiting, by rw [queue]; rfl, _, _, rfl, answerOf_done.mpr ⟨rfl, .inr ⟨rfl, rfl⟩⟩⟩
  change execDone e _ s = _
  unfold execDone
  rw [answered]

theorem exec_replyTimeout {s : State} {e : Line} {f : Frame} {rest : List Frame}
    (awaiting : s.buses[e].state = .awaiting) (queue : s.buses[e].queue = f :: rest) :
    exec (.replyTimeout e) s = .next ((s.popFrame e).deliverSilence e f) := by
  have out : s.buses[e].outstanding = some f := outstanding_iff.mpr ⟨awaiting, by rw [queue]; rfl⟩
  change execReplyTimeout e s = _
  unfold execReplyTimeout
  rw [out]

/-! ## The frame's end and its BIND's -/

theorem popFrame_eq (s : State) (e : Line) : s.popFrame e = { s with buses := s.frameOver e } := rfl

@[simp] theorem popFrame_pos (s : State) (e l : Line) (p : Pos) : (s.popFrame e).pos l p = s.pos l p := rfl

/-- A line request that completes: its progress is empty before and after. -/
theorem finishLine_completes (s : State) (l : Line) (tag code : Byte) (oc : OutcomeCode) (data : List Byte) :
    s.finishLine l tag code oc data = s.lineCompletes l tag code oc data := rfl

theorem withdrawClear_popped (s : State) (e : Line) (p : Pos) {f : Frame} {rest : List Frame}
    (queue : s.buses[e].queue = f :: rest) (t : State) (buses : t.buses = s.frameOver e) :
    t.withdrawClear e p = { t with buses := put s.buses e { s.buses[e] with
      queue := rest.filter fun f => f.kind != .clear p, state := .idle, replyTimer := false } } := by
  unfold State.withdrawClear State.withBus
  rw [buses, State.frameOver, put_get_same, put_put, queue]
  rfl

section
variable {s : State} {e : Line} {p : Pos} {b : Binding} {rp : Bool} {tag : Byte} {asked grant : Nat}

theorem finishBind_loading (waits : s.lineProgress[e] = some (.bindLoading tag p asked grant)) (oc : OutcomeCode)
    (data : List Byte) : s.finishBind e p oc data = s.lineCompletes e tag codeBind oc data := by
  unfold State.finishBind State.loadingBind
  rw [waits]
  dsimp only
  rw [if_pos rfl]
  rfl

theorem loadAccepted_eq (loading : s.pos e p = .loading b rp)
    (waits : s.lineProgress[e] = some (.bindLoading tag p asked grant)) : s.loadAccepted e p =
      (s.setPos e p (if rp then .clearing b .recall else .bound b)).lineCompletes e tag codeBind
        (if grant < asked then .partialGrant else .ok)
        (b.handle.bytes ++ [BitVec.ofNat 8 p.val] ++ be16 grant ++ be24 b.reservation) := by
  have bind : s.loadingBind e p = some (tag, asked, grant) := by
    unfold State.loadingBind
    rw [waits]
    exact if_pos rfl
  unfold State.loadAccepted
  rw [loading, bind]
  exact finishBind_loading (s := s.setPos e p _) (by exact waits) _ _

theorem loadRefused_eq (loading : s.pos e p = .loading b rp)
    (waits : s.lineProgress[e] = some (.bindLoading tag p asked grant)) (reason : Byte) : s.loadRefused e p reason =
      (((s.setPos e p .free).giveBack b.slot b.reservation).withdrawClear e p).lineCompletes e tag codeBind
        .engineRefused [reason] := by
  have left : (((s.setPos e p .free).giveBack b.slot b.reservation).withdrawClear e p).lineProgress[e] =
      some (.bindLoading tag p asked grant) := by
    rw [giveBack_exact]
    exact waits
  unfold State.loadRefused
  rw [loading]
  exact finishBind_loading left _ _

theorem loadSilent_eq (loading : s.pos e p = .loading b rp)
    (waits : s.lineProgress[e] = some (.bindLoading tag p asked grant)) : s.loadSilent e p =
      (((s.setPos e p .blocked).charge b.slot b.reservation).withdrawClear e p).lineCompletes e tag codeBind
        .engineSilent [] := by
  unfold State.loadSilent
  rw [loading]
  exact finishBind_loading (by exact waits) _ _

end

/-- Settles O45: the frame's end, what the outcome makes of the binding, then the BIND's completion. -/
theorem loadOutcomesSettleTheBind : Obligations.LoadOutcomesSettleTheBind := by
  intro s e p cls len kcw rest b rp tag asked grant awaiting queue loading waits
  have popped : (s.popFrame e).lineProgress[e] = some (.bindLoading tag p asked grant) := waits
  have held : (s.popFrame e).pos e p = .loading b rp := loading
  have popped_bus : s.frameOver e = put s.buses e { s.buses[e] with queue := rest, state := .idle, replyTimer := false } := by
    rw [State.frameOver, queue]
    rfl
  refine ⟨?_, fun reason low high => ?_, ?_⟩
  · rw [exec_accept awaiting queue, if_neg Bool.false_ne_true, loadAccepted_eq held popped, popFrame_eq, popped_bus]
    rfl
  · rw [exec_refuse awaiting queue low high, if_neg Bool.false_ne_true, loadRefused_eq held popped,
      withdrawClear_popped s e p queue _ (by rw [giveBack_exact]; rfl), giveBack_exact, giveBack_exact]
    rfl
  · rw [exec_replyTimeout awaiting queue]
    change Host.Outcome.next ((s.popFrame e).loadSilent e p) = _
    rw [loadSilent_eq held popped, withdrawClear_popped s e p queue _ rfl]
    rfl

end Sys2Proof.Machine
end

section
/-! PROOF. The outcomes of a CLEAR and a CLEAR-ALL (R71 to R74, R77, R79, R80, R90, R96). -/

namespace Sys2Proof.Machine

/-! ## Releases that wait on a position (R71 to R73) -/

section
variable {s : State} {e : Line} {p : Pos} {tag : Byte} {used : Nat}

theorem waitingUsed_release (progress : s.lineProgress[e] = some (.release tag p used)) : s.waitingUsed e p = some used := by
  unfold State.waitingUsed
  rw [progress]
  exact if_pos rfl

theorem waitingUsed_releaseAll {entries : Vector ReleaseEntry 4} (progress : s.lineProgress[e] = some (.releaseAll tag entries))
    (waits : entries[p] = .wait used) : s.waitingUsed e p = some used := by
  unfold State.waitingUsed
  rw [progress]
  dsimp only
  rw [waits]

/-- The releases that wait on a position. -/
theorem waitingUsed_cases (waits : s.waitingUsed e p = some used) : (∃ tag, s.lineProgress[e] = some (.release tag p used)) ∨
    ∃ tag entries, s.lineProgress[e] = some (.releaseAll tag entries) ∧ entries[p] = .wait used := by
  unfold State.waitingUsed at waits
  split at waits
  · next tag q used' progress =>
    split at waits
    · next same =>
      obtain rfl := Option.some.inj waits
      subst same
      exact .inl ⟨tag, progress⟩
    · cases waits
  · next tag entries progress =>
    split at waits
    · next used' entry =>
      obtain rfl := Option.some.inj waits
      exact .inr ⟨tag, entries, progress, entry⟩
    · cases waits
  · cases waits

theorem waitingUsed_none (release : ∀ tag used, s.lineProgress[e] ≠ some (.release tag p used))
    (entry : ∀ tag entries, s.lineProgress[e] = some (.releaseAll tag entries) → ∀ used, entries[p] ≠ .wait used) :
    s.waitingUsed e p = none := by
  cases waits : s.waitingUsed e p with
  | none => rfl
  | some used =>
    rcases waitingUsed_cases waits with ⟨tag, progress⟩ | ⟨tag, entries, progress, wait⟩
    · exact absurd progress (release tag used)
    · exact absurd wait (entry tag entries progress used)

variable {b : Binding} {x : Position} {oc : OutcomeCode}

/-- The entry of a release all's position that has its outcome. -/
def settledEntry (b : Binding) (used : Nat) (oc : OutcomeCode) : ReleaseEntry :=
  .settled oc.byte (min used b.reservation) (decide (b.reservation < used))

/-- Every other entry of a RELEASE ALL is settled. -/
def OthersSettled (entries : Vector ReleaseEntry 4) (p : Pos) : Prop := ∀ q : Pos, q ≠ p → ∀ u, entries[q] ≠ .wait u

theorem isSettled_iff (entry : ReleaseEntry) : entry.isSettled = true ↔ ∀ u, entry ≠ .wait u := by
  cases entry with
  | wait used => simp [ReleaseEntry.isSettled]
  | settled code count short => simp [ReleaseEntry.isSettled]

theorem all_toList_iff {α : Type} (v : Vector α 4) (f : α → Bool) : v.toList.all f = true ↔ ∀ q : Pos, f v[q] = true := by
  rw [toList_four, List.all_map, List.all_eq_true]
  exact ⟨fun all q => all q (mem_four q), fun all q _ => all q⟩

theorem allSettled_iff (entries : Vector ReleaseEntry 4) (p : Pos) (b : Binding) (used : Nat) (oc : OutcomeCode) :
    (put entries p (settledEntry b used oc)).toList.all ReleaseEntry.isSettled = true ↔ OthersSettled entries p := by
  rw [all_toList_iff]
  refine forall_congr' fun q => ?_
  rw [put_get]
  split
  · next same => exact ⟨fun _ other => absurd same.symm other, fun _ => rfl⟩
  · next other => exact ⟨fun settled _ => (isSettled_iff _).mp settled, fun settled => (isSettled_iff _).mpr (settled fun same => other same.symm)⟩

theorem settleRelease_release (progress : s.lineProgress[e] = some (.release tag p used)) : s.settleRelease e p b used x oc =
    { (s.settle b used).lineCompletes e tag codeRelease oc (settlementData p b used) with
      positions := s.positionsWith e p x } := by
  unfold State.settleRelease State.finishRelease
  rw [settle_exact]
  dsimp only [State.setPos]
  rw [progress]
  rfl

theorem settleRelease_last {entries : Vector ReleaseEntry 4} (progress : s.lineProgress[e] = some (.releaseAll tag entries))
    (last : OthersSettled entries p) : s.settleRelease e p b used x oc =
    { (s.settle b used).lineCompletes e tag codeReleaseAll .ok
        ((put entries p (settledEntry b used oc)).toList.flatMap ReleaseEntry.bytes) with
      positions := s.positionsWith e p x } := by
  unfold State.settleRelease State.finishRelease
  rw [settle_exact]
  dsimp only [State.setPos]
  rw [progress]
  exact if_pos ((allSettled_iff entries p b used oc).mpr last)

theorem settleRelease_waits {entries : Vector ReleaseEntry 4} (progress : s.lineProgress[e] = some (.releaseAll tag entries))
    (more : ¬ OthersSettled entries p) : s.settleRelease e p b used x oc = { s.settle b used with
      positions := s.positionsWith e p x
      lineProgress := put s.lineProgress e (some (.releaseAll tag (put entries p (settledEntry b used oc)))) } := by
  unfold State.settleRelease State.finishRelease
  rw [settle_exact]
  dsimp only [State.setPos]
  rw [progress]
  exact if_neg fun all => more ((allSettled_iff entries p b used oc).mp all)

/-! ## The outcome of a CLEAR (R72, R74, R77) -/

/-- The outcome a release that waits on a CLEARING position reports. -/
def ClearKind.outcome (silent : Bool) : ClearKind → OutcomeCode
  | .release => if silent then .engineSilent else .ok
  | .recall => .recalled

theorem clearOutcome_release {kind : ClearKind} (silent : Bool) (held : s.pos e p = .clearing b kind)
    (waits : s.waitingUsed e p = some used) : s.clearOutcome e p silent =
      s.settleRelease e p b used (if silent then .blocked else .free) (kind.outcome silent) := by
  unfold State.clearOutcome
  rw [held]
  cases kind with
  | release =>
    dsimp only
    rw [waits]
    rfl
  | _ =>
    dsimp only [State.endPosition]
    rw [waits]
    rfl

theorem clearOutcome_recall (silent : Bool) (held : s.pos e p = .clearing b .recall) (none : s.waitingUsed e p = none) :
    s.clearOutcome e p silent = { s with positions := s.positionsWith e p (.ended b .recalled silent) } := by
  unfold State.clearOutcome State.endPosition
  rw [held]
  dsimp only
  rw [none]
  rfl

theorem positionsWith_same (held : s.pos e p = x) : s.positionsWith e p x = s.positions := by
  unfold State.positionsWith
  rw [put_of_eq s.positions[e] p x held, put_get_self]

theorem clearOutcome_blocked (silent : Bool) (held : s.pos e p = .blocked) : s.clearOutcome e p silent =
    State.clearBlockedOutcome { s with positions := s.positionsWith e p (if silent then .blocked else .free) } e p (!silent) := by
  unfold State.clearOutcome
  rw [held]
  cases silent with
  | false => rfl
  | true =>
    rw [if_pos rfl, positionsWith_same held]
    rfl

theorem waitingOthers_iff (waiting : Vector Bool 4) (p : Pos) :
    (put waiting p false).toList.any id = true ↔ ∃ q : Pos, q ≠ p ∧ waiting[q] = true := by
  rw [any_toList_iff]
  refine exists_congr fun q => ?_
  rw [put_get]
  split
  · next same => simp [same]
  · next other => simp [Ne.symm other]

theorem clearBlockedOutcome_last {waiting freed : Vector Bool 4} (freedNow : Bool)
    (progress : s.lineProgress[e] = some (.clearBlocked tag waiting freed)) (last : ∀ q : Pos, q ≠ p → waiting[q] = false) :
    s.clearBlockedOutcome e p freedNow = s.lineCompletes e tag codeClearBlocked .ok
      [bitsByte (put freed p (freed[p] || freedNow)).toList] := by
  unfold State.clearBlockedOutcome State.clearBlockedCheck
  rw [progress]
  refine if_neg fun more => ?_
  obtain ⟨q, other, waits⟩ := (waitingOthers_iff waiting p).mp more
  exact Bool.false_ne_true ((last q other).symm.trans waits)

theorem clearBlockedOutcome_waits {waiting freed : Vector Bool 4} (freedNow : Bool)
    (progress : s.lineProgress[e] = some (.clearBlocked tag waiting freed)) (more : ∃ q : Pos, q ≠ p ∧ waiting[q] = true) :
    s.clearBlockedOutcome e p freedNow = { s with lineProgress := (put s.lineProgress e
      (some (.clearBlocked tag (put waiting p false) (put freed p (freed[p] || freedNow))))) } := by
  unfold State.clearBlockedOutcome State.clearBlockedCheck
  rw [progress]
  exact if_pos ((waitingOthers_iff waiting p).mpr more)

/-! ## The outcome of a CLEAR-ALL (R79, R96) -/

theorem clearAllOutcome_eq (silent : Bool) : s.clearAllOutcome e silent = { s with
    positions := put s.positions e (Vector.ofFn fun p => clearAllPosition silent (s.pos e p))
    custody := { s.custody with offers :=
      if s.custody.offers[e] = .inFlight then put s.custody.offers e .done else s.custody.offers } } := by
  have table : mapTable (clearAllPosition silent) s.positions[e] =
      Vector.ofFn fun p => clearAllPosition silent (s.pos e p) := by
    refine Vector.ext fun i bound => ?_
    rw [mapTable_get_val, Vector.getElem_ofFn]
    rfl
  unfold State.clearAllOutcome
  rw [table]
  rfl

end

/-! ## The commands that end a CLEAR or a CLEAR-ALL -/

/-- The commands that end an outstanding CLEAR, with whether the engine was silent. -/
def clearEnds (s : State) (e : Line) (p : Pos) : List (Instr × Bool) :=
  [(.done e (withCheckWord [0x83, s.buses[e].frameNumber - 1, BitVec.ofNat 8 p.val]), false), (.replyTimeout e, true)]

theorem exec_clearEnds {s : State} {e : Line} {p : Pos} {rest : List Frame} (awaiting : s.buses[e].state = .awaiting)
    (queue : s.buses[e].queue = ⟨.clear p, false⟩ :: rest) {row : Instr × Bool} (listed : row ∈ clearEnds s e p) :
    exec row.1 s = .next ((s.popFrame e).clearOutcome e p row.2) := by
  simp only [clearEnds, List.mem_cons, List.not_mem_nil, or_false] at listed
  rcases listed with rfl | rfl
  · exact exec_done_clear awaiting queue
  · exact exec_replyTimeout awaiting queue

theorem exec_clearAllEnds {s : State} {e : Line} {rest : List Frame} (awaiting : s.buses[e].state = .awaiting)
    (queue : s.buses[e].queue = ⟨.clearAll, false⟩ :: rest) {row : Instr × Bool}
    (listed : row ∈ [(Instr.done e (withCheckWord [0x83, s.buses[e].frameNumber - 1]), false), (.replyTimeout e, true)]) :
    exec row.1 s = .next ((s.popFrame e).clearAllOutcome e row.2) := by
  simp only [List.mem_cons, List.not_mem_nil, or_false] at listed
  rcases listed with rfl | rfl
  · exact exec_done_clearAll awaiting queue
  · exact exec_replyTimeout awaiting queue

/-- Settles O46: each command ends the frame and then acts as the position and the request in progress say. -/
theorem clearOutcomesEndTheBinding : Obligations.ClearOutcomesEndTheBinding := by
  refine ⟨fun s e p rest awaiting queue row listed => ?_, fun s e rest awaiting queue row listed => ?_,
    fun s e kind rest number awaiting queue numbered => ?_⟩
  · rw [exec_clearEnds awaiting queue listed]
    generalize row.2 = silent
    refine ⟨fun b kind oc held outcome => ?_, fun held tag waiting freed done progress finished => ?_⟩
    · obtain rfl : oc = kind.outcome silent := by
        cases kind with
        | release => exact outcome
        | _ => exact outcome
      have popped : (s.popFrame e).pos e p = .clearing b kind := held
      refine ⟨fun tag used progress => ?_, fun tag entries used final progress wait settled => ?_, fun recalls release entry => ?_⟩
      · have waits : (s.popFrame e).lineProgress[e] = some (.release tag p used) := progress
        rw [clearOutcome_release silent popped (waitingUsed_release waits), settleRelease_release waits, settle_exact,
          settle_exact]
        rfl
      · have waits : (s.popFrame e).lineProgress[e] = some (.releaseAll tag entries) := progress
        subst settled
        rw [clearOutcome_release silent popped (waitingUsed_releaseAll waits wait)]
        refine ⟨fun last => ?_, fun ⟨q, other, u, more⟩ => ?_⟩
        · rw [settleRelease_last waits last, settle_exact, settle_exact]
          rfl
        · rw [settleRelease_waits waits fun all => all q other u more, settle_exact, settle_exact]
          rfl
      · subst recalls
        rw [clearOutcome_recall silent popped (waitingUsed_none (by exact release) (by exact entry))]
        rfl
    · have popped : (s.popFrame e).pos e p = .blocked := held
      subst finished
      rw [clearOutcome_blocked silent popped]
      refine ⟨fun last => ?_, fun more => ?_⟩
      · rw [clearBlockedOutcome_last _ (by exact progress) last]
        rfl
      · rw [clearBlockedOutcome_waits _ (by exact progress) more]
        rfl
  · rw [exec_clearAllEnds awaiting queue listed, clearAllOutcome_eq]
    have table : (Vector.ofFn fun p => clearAllPosition row.2 ((s.popFrame e).pos e p)) =
        Vector.ofFn fun p => clearAllPosition row.2 (s.pos e p) := rfl
    refine congrArg (fun v => Host.Outcome.next { s with
      buses := s.frameOver e
      positions := put s.positions e v
      custody := { s.custody with offers :=
        if s.custody.offers[e] = Offer.inFlight then put s.custody.offers e .done else s.custody.offers } }) ?_
    refine congrArg Vector.ofFn (funext fun p => ?_)
    cases held : s.pos e p <;> simp only [popFrame_pos, held] <;> rfl
  · subst numbered
    refine ⟨?_, ?_, ?_, ?_⟩
    · rintro p cls len kcw rfl
      exact ⟨exec_accept awaiting queue, fun reason low high => exec_refuse awaiting queue low high⟩
    · rintro p rfl
      exact exec_done_clear awaiting queue
    · rintro rfl
      exact exec_done_clearAll awaiting queue
    · exact exec_replyTimeout awaiting queue

end Sys2Proof.Machine
end

section
/-! PROOF. The suspension of an erase (R104, R109 to R111). -/

namespace Sys2Proof.Machine

/-! ## Whether a suspended erase resumes (R111) -/

theorem afterReads_resumes {c : ArrayControl} {b : Bank} (suspended : c.suspended = some b) (idle : c.exec = none)
    (due : c.capReached = true ∨ ∀ l : Line, c.lineWait[l] = none) : c.afterReads = c.resumedOn b := by
  unfold ArrayControl.afterReads
  rw [suspended]
  exact if_pos ⟨idle, due⟩

theorem afterReads_stays {c : ArrayControl} {b : Bank} (suspended : c.suspended = some b)
    (busy : c.exec ≠ none ∨ (c.capReached = false ∧ ∃ l : Line, c.lineWait[l] ≠ none)) : c.afterReads = c := by
  unfold ArrayControl.afterReads
  rw [suspended]
  refine if_neg fun ⟨idle, due⟩ => ?_
  rcases busy with runs | ⟨uncapped, l, waits⟩
  · exact runs idle
  · rcases due with capped | unread
    · exact Bool.false_ne_true (uncapped.symm.trans capped)
    · exact waits (unread l)

/-- The Array Controller once the erase of a bank has been suspended (R110). -/
def ArrayControl.suspendedOn (c : ArrayControl) (b : Bank) : ArrayControl :=
  { c with exec := none, suspending := false, suspended := some b, capReached := false, suspendTime := 0 }

/-- The Array Controller once the suspension's cap has been reached (R111). -/
def ArrayControl.capped (c : ArrayControl) : ArrayControl := { c with capReached := true, suspendTime := 1000 }

/-! ## The commands -/

section
variable {s : State} {b : Bank}

theorem exec_eraseSuspend_custody {ran : Nat} (runs : s.control.exec = some (.erase b true)) :
    exec (.eraseSuspend ran) s = .next s := by
  simp only [exec, execEraseSuspend, runs]

theorem exec_eraseSuspend {ran : Nat} (runs : s.control.exec = some (.erase b false)) : exec (.eraseSuspend ran) s =
    if s.control.suspending = false ∧ s.control.lineReadWaits = true ∧ 4000 ≤ ran ∧ s.control.execTime + ran < 1500000 then
      .next (s.withControl fun c => { c with suspending := true, runTime := ran, execTime := c.execTime + ran })
    else .next s := by
  simp only [exec, execEraseSuspend, runs]

theorem exec_eraseSuspended (runs : s.control.exec = some (.erase b false)) (suspending : s.control.suspending = true) :
    exec .eraseSuspended s =
      .next { s with control := (s.control.suspendedOn b).afterReads } := by
  simp only [exec, execEraseSuspended, runs, suspending, if_true, resumeCheck_eq]
  rfl

theorem exec_eraseSuspended_other (running : s.control.suspending = false) : exec .eraseSuspended s = .next s := by
  change execEraseSuspended s = _
  unfold execEraseSuspended
  split
  · exact if_neg fun suspending => Bool.false_ne_true (running.symm.trans suspending)
  · rfl

theorem exec_suspensionCap (suspended : s.control.suspended = some b) : exec .suspensionCap s =
    .next { s with control := s.control.capped.afterReads } := by
  simp only [exec, execSuspensionCap, suspended, Option.isSome_some, if_true, resumeCheck_eq]
  rfl

theorem exec_suspensionCap_none (none : s.control.suspended = none) : exec .suspensionCap s = .next s := by
  simp only [exec, execSuspensionCap, none, Option.isSome_none, Bool.false_eq_true, if_false]

end

/-- Settles O50: each command by the operation that executes and the line reads that wait. -/
theorem eraseIsSuspendedForLineReads : Obligations.EraseIsSuspendedForLineReads := by
  refine fun s b => ⟨fun ran runs running waits long below => ?_, fun ran runs fails => ?_,
    fun ran => exec_eraseSuspend_custody, fun runs suspending waits => ?_, fun runs suspending unread => ?_,
    exec_eraseSuspended_other, exec_suspensionCap_none, lineReadWaits_iff s.control, fun l n reads suspended => ?_,
    fun idle suspended => ?_⟩
  · rw [exec_eraseSuspend runs]
    exact if_pos ⟨running, waits, long, below⟩
  · rw [exec_eraseSuspend runs]
    refine if_neg fun ⟨running, waits, long, below⟩ => ?_
    rcases fails with short | unread | suspending | long_run
    · omega
    · exact Bool.false_ne_true (unread.symm.trans waits)
    · exact Bool.false_ne_true (running.symm.trans suspending)
    · omega
  · have stays := afterReads_stays (c := s.control.suspendedOn b) rfl (.inr ⟨rfl, (lineReadWaits_iff s.control).mp waits⟩)
    rw [exec_eraseSuspended runs suspending, stays]
    rfl
  · have resumes := afterReads_resumes (c := s.control.suspendedOn b) rfl rfl
      (.inr ((lineReadWaits_false_iff s.control).mp unread))
    rw [exec_eraseSuspended runs suspending, resumes]
    rfl
  · have stays := afterReads_stays (c := s.control.capped) suspended
      (.inl (by rw [ArrayControl.capped, reads]; exact Option.some_ne_none _))
    rw [exec_suspensionCap suspended, stays]
    rfl
  · have resumes := afterReads_resumes (c := s.control.capped) suspended idle (.inl rfl)
    rw [exec_suspensionCap suspended, resumes]
    rfl

end Sys2Proof.Machine
end

section
/-! PROOF. The ends of a mark and of an erase (R2, R12, R15, R102 to R104, R113, R114, R119, R120, R127, R166, R167). -/

namespace Sys2Proof.Machine

/-! ## A slot that neither a mark's end nor the fault flag changes -/

/-- A slot and its retention are in t as they were in s. -/
def SlotKept (n : SlotNo) (s t : State) : Prop :=
  t.directory.slots[n] = s.directory.slots[n] ∧ t.retention.slots[n] = s.retention.slots[n]

/-- A slot that a mark's end does not change: not ACTIVE and not retire-pending. -/
def State.marked (s : State) (n : SlotNo) : Prop :=
  s.directory.slots[n].state ≠ .active ∧ s.directory.slots[n].retirePending = false

theorem SlotKept.marked {n : SlotNo} {s t : State} (kept : SlotKept n s t) (marked : s.marked n) : t.marked n := by
  unfold State.marked
  rw [kept.1]
  exact marked

theorem SlotKept.trans {n : SlotNo} {s t u : State} (first : SlotKept n s t) (second : SlotKept n t u) : SlotKept n s u :=
  ⟨second.1.trans first.1, second.2.trans first.2⟩

/-- What the end of a mark makes of its slot (R12, R127). -/
theorem markEnd_exact (s : State) (n : SlotNo) : s.markEnd n = { s with
    directory := { s.directory with slots := put s.directory.slots n { s.directory.slots[n] with
      state := if s.directory.slots[n].state = .active then .retired else s.directory.slots[n].state
      retirePending := false } }
    retention := { s.retention with slots := put s.retention.slots n { s.retention.slots[n] with
      latch := if s.directory.slots[n].state = .active then true else s.retention.slots[n].latch } } } := by
  unfold State.markEnd
  by_cases active : s.directory.slots[n].state = .active
  · simp only [active, if_true, State.withSlot, State.withSlotRet]
  · have unlatched : put s.retention.slots n { s.retention.slots[n] with latch := s.retention.slots[n].latch } =
        s.retention.slots := put_get_self _ _
    simp only [active, if_false, unlatched, State.withSlot]

theorem markEnd_slotKept {s : State} {n : SlotNo} (m : SlotNo) (marked : s.marked n) : SlotKept n s (s.markEnd m) := by
  obtain ⟨other, unpending⟩ := marked
  by_cases same : m = n
  · subst same
    have slot : { s.directory.slots[m] with
        state := if s.directory.slots[m].state = .active then .retired else s.directory.slots[m].state
        retirePending := false } = s.directory.slots[m] := by
      rw [if_neg other, ← unpending]
    have ret : { s.retention.slots[m] with
        latch := if s.directory.slots[m].state = .active then true else s.retention.slots[m].latch } =
        s.retention.slots[m] := by
      rw [if_neg other]
    rw [markEnd_exact, slot, ret, put_get_self, put_get_self]
    exact ⟨rfl, rfl⟩
  · obtain ⟨slots, kept, ended, others, -⟩ := markEnd_eq s m
    rw [ended]
    exact others n (Ne.symm same)

theorem adminEmptied_slotKept {s : State} {n : SlotNo} (marked : s.marked n) : SlotKept n s s.adminEmptied := by
  unfold State.adminEmptied
  split
  · unfold State.submitMark
    split
    · exact markEnd_slotKept _ marked
    · exact ⟨rfl, rfl⟩
  · split <;> exact ⟨rfl, rfl⟩
  · exact ⟨rfl, rfl⟩

theorem refuseProgram_slotKept (s : State) (n : SlotNo) : SlotKept n s s.refuseProgram := by
  obtain ⟨c, bs, k, p, refused, -⟩ := refuseProgram_eq s
  rw [refused]
  exact ⟨rfl, rfl⟩

theorem refuseAdmin_slotKept {s : State} {n : SlotNo} (marked : s.marked n) : SlotKept n s s.refuseAdmin := by
  unfold State.refuseAdmin
  split
  · exact ⟨rfl, rfl⟩
  · next m _ =>
    have ended : SlotKept n s ((s.withControl fun c => { c with adminWait := none }).markEnd m) :=
      markEnd_slotKept (s := s.withControl fun c => { c with adminWait := none }) m marked
    exact ended.trans (adminEmptied_slotKept (ended.marked marked))
  · exact adminEmptied_slotKept (s := (s.withControl _).withBank _ _) marked

/-- The fault flag's setting leaves a marked slot as it is, whatever waits. -/
theorem setFault_slotKept {s : State} {n : SlotNo} (marked : s.marked n) : SlotKept n s s.setFault := by
  obtain ⟨r, latched⟩ := latch_eq (s.withControl fun c => { c with fault := true }) .nvFault
  have flagged : SlotKept n s ((s.withControl fun c => { c with fault := true }).latch .nvFault) := by
    unfold State.latch
    split <;> exact ⟨rfl, rfl⟩
  have refused := refuseProgram_slotKept ((s.withControl fun c => { c with fault := true }).latch .nvFault) n
  exact (flagged.trans refused).trans (refuseAdmin_slotKept ((flagged.trans refused).marked marked))

/-- What waits is refused from a state that differs from s in no part that a refusal reads; a mark's slot may have been
RETIRED before. -/
theorem WaitingRefused.of_same {s u t : State} (refused : WaitingRefused u t)
    (flags : u.retention.alarmFlags = s.retention.alarmFlags) (program : u.control.ceremonyWait = s.control.ceremonyWait)
    (admin : u.control.adminWait = s.control.adminWait) (ceremony : u.ceremony = s.ceremony)
    (link : u.custLink = s.custLink) (progress : u.custProgress = s.custProgress)
    (slots : ∀ n : SlotNo, s.directory.slots[n].state = .active → u.directory.slots[n].state = .active ∨
      (t.directory.slots[n].state = .retired ∧ t.retention.slots[n].latch = true)) : WaitingRefused s t := by
  obtain ⟨fault, flagged, noProgram, noAdmin, commit, mark, erase, retire, reclaim⟩ := refused
  rw [flags] at flagged
  rw [program, ceremony, progress, link] at commit
  rw [admin] at mark erase
  rw [admin, progress, link] at retire reclaim
  refine ⟨fault, flagged, noProgram, noAdmin, commit, fun n waits => ?_, erase, retire, reclaim⟩
  obtain ⟨unpending, retired⟩ := mark n waits
  exact ⟨unpending, fun active => (slots n active).elim retired id⟩

/-! ## The end of a mark (R102, R127) -/

/-- What the end of a mark makes of its slot. -/
def SlotDir.markedSlot (d : SlotDir) : SlotDir :=
  { d with state := if d.state = .active then .retired else d.state, retirePending := false }

/-- What the end of a mark in s makes of the retention of its slot. -/
def State.markedKept (s : State) (n : SlotNo) : SlotRetention :=
  { s.retention.slots[n] with
    latch := if s.directory.slots[n].state = .active then true else s.retention.slots[n].latch }

/-- A record whose retire mark failed. -/
def State.unmarkedRecord (s : State) (n : SlotNo) : SlotRecord :=
  { s.array.records[n] with
    retire := if freeBool s.draws 0 || s.array.records[n].retire != .blank then .part else .blank }

/-- The state after a mark that failed, before the fault flag is set. -/
def State.markFailed (s : State) (n : SlotNo) : State :=
  { s with
    draws := s.draws + 1
    control := { s.control with exec := none }
    array := { s.array with records := put s.array.records n (s.unmarkedRecord n) }
    directory := { s.directory with slots := put s.directory.slots n s.directory.slots[n].markedSlot }
    retention := { s.retention with slots := put s.retention.slots n (s.markedKept n) } }

theorem exec_programMarkEnd {s : State} {n : SlotNo} (runs : s.control.exec = some (.programMark n)) :
    exec (.programMarkEnd true) s = .next ((s.execEnded.withRecord n fun r => { r with retire := .full }).markEnd n) ∧
    exec (.programMarkEnd false) s = .next (s.markFailed n).setFault := by
  simp only [exec, execProgramMarkEnd, runs]
  refine ⟨rfl, ?_⟩
  rw [if_neg Bool.false_ne_true, markEnd_exact]
  rfl

theorem unmarkedRecord_partial (s : State) (n : SlotNo) : (s.unmarkedRecord n).retire ≠ .full := by
  unfold State.unmarkedRecord
  dsimp only
  split <;> exact fun whole => by cases whole

theorem markFailed_marked (s : State) (n : SlotNo) : (s.markFailed n).marked n := by
  unfold State.marked State.markFailed SlotDir.markedSlot
  dsimp only
  rw [put_get_same]
  refine ⟨fun active => ?_, rfl⟩
  dsimp only at active
  split at active
  · cases active
  · next other => exact other active

/-- Settles O51: the mark's end, and with a failure the fault flag, which leaves the slot as the end made it. -/
theorem markEndRetiresTheSlot : Obligations.MarkEndRetiresTheSlot := by
  intro s n slot kept runs slotEnds keptEnds
  obtain ⟨done, failed⟩ := exec_programMarkEnd runs
  obtain rfl : slot = s.directory.slots[n].markedSlot := slotEnds
  obtain rfl : kept = s.markedKept n := keptEnds
  obtain ⟨slotKept, retKept⟩ := setFault_slotKept (markFailed_marked s n)
  have slotIs : (s.markFailed n).setFault.directory.slots[n] = s.directory.slots[n].markedSlot :=
    slotKept.trans (put_get_same _ _ _)
  have keptIs : (s.markFailed n).setFault.retention.slots[n] = s.markedKept n := retKept.trans (put_get_same _ _ _)
  rw [done, failed]
  refine ⟨?_, fun noProgram noAdmin live => ⟨_, rfl, ?_⟩, fun live => ⟨_, rfl, ?_, slotIs, keptIs⟩⟩
  · rw [markEnd_exact]
    rfl
  · rw [setFault_alone (s.markFailed n) live noProgram noAdmin]
    refine ⟨rfl, rfl, rfl, ?_, ?_, fun n' other => put_get_other _ _ _ _ (Ne.symm other), rfl, rfl, rfl, rfl, rfl, rfl, rfl⟩
    · rw [State.markFailed, put_get_same]
      exact unmarkedRecord_partial s n
    · rw [State.markFailed, put_get_same]
      rfl
  · refine (setFault_refuses (s.markFailed n) live).of_same rfl rfl rfl rfl rfl rfl fun m active => ?_
    by_cases same : n = m
    · subst same
      rw [slotIs, keptIs]
      exact .inr ⟨if_pos active, if_pos active⟩
    · exact .inl ((congrArg SlotDir.state (put_get_other _ _ _ _ same)).trans active)

end Sys2Proof.Machine
end

section
/-! PROOF. The ends of an erase and the owed erases (R2, R15, R103, R104, R113, R114, R119, R120, R166, R167). -/

namespace Sys2Proof.Machine

/-! ## What an erase that fails or is stopped leaves (R104, R116, R117) -/

/-- The array after an erase that failed or was stopped, beside the array before. -/
structure PartErased (b : Bank) (found : Bool) (a a' : KeyArray) : Prop where
  count : a'.headers[b].eraseCount = a.headers[b].eraseCount
  banks : ∀ b', b' ≠ b → a'.headers[b'] = a.headers[b'] ∧ a'.rows[b'] = a.rows[b']
  records : ∀ n : SlotNo, bankOf n ≠ b → a'.records[n] = a.records[n]
  mark : found = true → a'.headers[b].erasing = true
  unmarked : a'.headers[b].erasing = false → a'.records = a.records ∧ a'.rows = a.rows

/-- In the first phase at most the mark has taken. -/
theorem partErased_marked {b : Bank} {found : Bool} (on : Bool) (a : KeyArray) (kept : found = true → on = true) :
    PartErased b found a { a with headers := put a.headers b { a.headers[b] with erasing := on } } where
  count := by rw [put_get_same]
  banks b' other := ⟨put_get_other _ _ _ _ (Ne.symm other), rfl⟩
  records _ _ := rfl
  mark is_found := by rw [put_get_same, kept is_found]
  unmarked _ := ⟨rfl, rfl⟩

/-- Later the mark is set, and the bank's records and row are in whatever form they have reached. -/
theorem partErased_erased {b : Bank} {found : Bool} (a : KeyArray) (record : SlotNo → SlotRecord) (row : Vector Byte 32) :
    PartErased b found a { a with
      headers := put a.headers b { a.headers[b] with erasing := true }
      records := Vector.ofFn fun i => if bankOf i = b then record i else a.records[i]
      rows := put a.rows b row } where
  count := by rw [put_get_same]
  banks b' other := ⟨put_get_other _ _ _ _ (Ne.symm other), put_get_other _ _ _ _ (Ne.symm other)⟩
  records n other := by
    simp only [Fin.getElem_fin, Vector.getElem_ofFn]
    exact if_neg other
  mark _ := by rw [put_get_same]
  unmarked unset := by rw [put_get_same] at unset; cases unset

theorem leaveStoppedErase_spec (s : State) (b : Bank) : ∃ a draws, s.leaveStoppedErase b = { s with array := a, draws := draws } ∧
    PartErased b s.control.markFound s.array a := by
  unfold State.leaveStoppedErase
  dsimp only
  split
  · exact ⟨_, _, rfl, partErased_marked _ _ fun found => by rw [found]; rfl⟩
  · unfold State.withArray State.nextDraw State.markBank State.withArray
    generalize (Vector.ofFn fun i : Fin 32 => freeByte s.draws (9000 + i.val)) = row
    dsimp only
    exact ⟨_, _, rfl, partErased_erased s.array (fun i => partErased s.draws (100 + 64 * i.val)) row⟩

/-! ## What the end of a Custody Control erase changes (R166, R167) -/

theorem lowestOwed_none {s : State} (unowed : ∀ b : Bank, s.retention.owed[b] = false) : s.lowestOwed = none := by
  rw [State.lowestOwed, find_four_eq, Fin.find?_eq_none_iff]
  exact fun b => by rw [unowed b]

theorem lowestOwed_some {s : State} {b : Bank} (owed : s.retention.owed[b] = true)
    (lowest : ∀ k, k < b → s.retention.owed[k] = false) : s.lowestOwed = some b := by
  rw [State.lowestOwed, find_four_eq, Fin.find?_eq_some_iff]
  exact ⟨owed, lowest⟩

theorem owed_of_lowestOwed {s : State} {b : Bank} (found : s.lowestOwed = some b) : s.retention.owed[b] = true :=
  List.find?_some (p := fun b => s.retention.owed[b]) found

/-- The state with the erase of a bank no longer owed. -/
def State.disowed (s : State) (b : Bank) : State :=
  { s with retention := { s.retention with owed := put s.retention.owed b false } }

theorem disowed_get (s : State) (b b' : Bank) :
    (s.disowed b).retention.owed[b'] = if b = b' then false else s.retention.owed[b'] := put_get _ _ _ _

theorem owedEnded_last {s : State} {b : Bank} (last : ∀ b', b' ≠ b → s.retention.owed[b'] = false) : s.owedEnded b = { s with
    retention := { s.retention with owed := put s.retention.owed b false, resume := .recovery }
    custody := { s.custody with present := .recovery } } := by
  have none : (s.disowed b).lowestOwed = none := lowestOwed_none fun b' => by
    rw [disowed_get]
    split
    · rfl
    · next other => exact last b' (Ne.symm other)
  exact if_pos none

/-- The state in which Custody Control has submitted the erase of a bank. -/
def State.submitted (s : State) (b : Bank) : State :=
  { s with
    control := { s.control with custodyWait := some b }
    directory := { s.directory with banks := put s.directory.banks b { s.directory.banks[b] with condition := .erasing } } }

theorem nextOwed_submits {s : State} {b : Bank} (zeroizing : s.custody.present = .zeroizing)
    (idle : s.control.custodyBusy = false) (lowest : s.lowestOwed = some b) : s.nextOwed = s.submitted b := by
  unfold State.nextOwed
  rw [if_pos ⟨zeroizing, idle⟩, lowest]
  rfl

theorem nextOwed_cases (s : State) : s.nextOwed = s ∨ ∃ b, s.lowestOwed = some b ∧ s.nextOwed = s.submitted b := by
  unfold State.nextOwed
  split
  · split
    · next b lowest => exact .inr ⟨b, lowest, rfl⟩
    · exact .inl rfl
  · exact .inl rfl

theorem owedEnded_next {s : State} {b b' : Bank} (other : b' ≠ b) (owed : s.retention.owed[b'] = true)
    (lowest : ∀ k, k < b' → k ≠ b → s.retention.owed[k] = false) (zeroizing : s.custody.present = .zeroizing)
    (idle : s.control.custodyBusy = false) : s.owedEnded b = (s.disowed b).submitted b' := by
  have found : (s.disowed b).lowestOwed = some b' := by
    refine lowestOwed_some ?_ fun k below => ?_
    · rw [disowed_get, if_neg (Ne.symm other), owed]
    · rw [disowed_get]
      split
      · rfl
      · next different => exact lowest k below (Ne.symm different)
  unfold State.owedEnded
  change (if (s.disowed b).lowestOwed = none then _ else (s.disowed b).nextOwed) = _
  rw [found, if_neg (Option.some_ne_none _)]
  exact nextOwed_submits (by exact zeroizing) (by exact idle) found

/-- Of the directory the end of an owed erase changes at most the condition of another bank, and of the rest the owed
marks, the modes and Custody Control's slot. -/
theorem owedEnded_frame (s : State) (b : Bank) : ∃ owed resume custody wait banks, s.owedEnded b = { s with
      retention := { s.retention with owed := owed, resume := resume }
      custody := custody
      control := { s.control with custodyWait := wait }
      directory := { s.directory with banks := banks } } ∧ banks[b] = s.directory.banks[b] := by
  unfold State.owedEnded
  change ∃ owed resume custody wait banks, (if (s.disowed b).lowestOwed = none then _ else (s.disowed b).nextOwed) = _ ∧ _
  split
  · exact ⟨_, .recovery, { s.custody with present := .recovery }, s.control.custodyWait, s.directory.banks, rfl, rfl⟩
  · rcases nextOwed_cases (s.disowed b) with same | ⟨b', lowest, next⟩
    · rw [same]
      exact ⟨_, s.retention.resume, s.custody, s.control.custodyWait, s.directory.banks, rfl, rfl⟩
    · have other : b' ≠ b := by
        rintro rfl
        have owed := owed_of_lowestOwed lowest
        rw [disowed_get, if_pos rfl] at owed
        cases owed
      rw [next]
      exact ⟨_, s.retention.resume, s.custody, some b', _, rfl, put_get_other _ _ _ _ other⟩

/-! ## A completed erase (R15, R103, R119, R120) -/

/-- The erase count of a bank once its erase has completed. -/
def State.erasedCount (s : State) (b : Bank) : Nat := min 65535 (s.array.headers[b].eraseCount + 1)

/-- The state once the erase of a bank has completed, the alarm left out. -/
def State.erased (s : State) (b : Bank) : State :=
  { s with
    draws := s.draws + 1
    array := { records := fillBank b SlotRecord.blank s.array.records
               headers := put s.array.headers b { eraseCount := s.erasedCount b, erasing := false }
               rows := put s.array.rows b referencePattern }
    retention := { s.retention with
      covers := put s.retention.covers b { value := Vector.ofFn fun i => freeByte s.draws i.val, valid := true }
      slots := fillBank b SlotRetention.initial s.retention.slots
      tests := put s.retention.tests b TestRecord.initial }
    directory := { s.directory with
      slots := fillBank b SlotDir.cleared s.directory.slots
      banks := put s.directory.banks b { s.directory.banks[b] with
        condition := .ready, lost := !s.retention.marker, epoch := BitVec.ofNat 8 (s.erasedCount b)
        degraded := decide (20000 ≤ s.erasedCount b) } } }

/-- The alarm flags once the erase of a bank has completed: BANK_DEGRADED is latched where the erase makes the bank degraded
(R17, R160). -/
def State.erasedFlags (s : State) (b : Bank) : Byte :=
  if 20000 ≤ s.erasedCount b ∧ s.directory.banks[b].degraded = false ∧ s.lineServed = true
  then s.retention.alarmFlags ||| 0x20 else s.retention.alarmFlags

/-- With the validity marker standing a completed erase latches BANK_DEGRADED where it makes its bank degraded. -/
theorem eraseEffects_eq {s : State} {b : Bank} (live : s.retention.marker = true) : s.eraseEffects b = { s.erased b with
    retention := { (s.erased b).retention with alarmFlags := s.erasedFlags b } } := by
  unfold State.eraseEffects State.erasedFlags
  change (if 20000 ≤ s.erasedCount b ∧ s.directory.banks[b].degraded = false ∧ s.lineServed = true
    then (s.erased b).latch .bankDegraded else s.erased b) = _
  by_cases degrades : 20000 ≤ s.erasedCount b ∧ s.directory.banks[b].degraded = false ∧ s.lineServed = true
  · rw [if_pos degrades, if_pos degrades, latch_live _ _ (by exact live)]
    rfl
  · rw [if_neg degrades, if_neg degrades]
    rfl

/-- Whatever the marker, a completed erase leaves the modes, the owed marks and Custody Control's slot. -/
theorem eraseEffects_frame (s : State) (b : Bank) : ∃ a r d draws, s.eraseEffects b =
    { s with array := a, retention := r, directory := d, draws := draws } ∧ r.owed = s.retention.owed := by
  obtain ⟨r, latched⟩ := latch_eq (s.erased b) .bankDegraded
  unfold State.eraseEffects
  change ∃ a r d draws, (if 20000 ≤ s.erasedCount b ∧ s.directory.banks[b].degraded = false ∧ s.lineServed = true
    then (s.erased b).latch .bankDegraded else s.erased b) = _ ∧ _
  split
  · unfold State.latch
    split
    · exact ⟨_, _, _, _, rfl, rfl⟩
    · exact ⟨_, _, _, _, rfl, rfl⟩
  · exact ⟨_, _, _, _, rfl, rfl⟩

/-- What shows of a completed erase, in any state that keeps its array, slots, covers, tests and the bank's entry. -/
theorem bankErased_of {s t : State} {b : Bank} (live : s.retention.marker = true) (array : t.array = (s.erased b).array)
    (slots : t.directory.slots = (s.erased b).directory.slots) (bank : t.directory.banks[b] = (s.erased b).directory.banks[b])
    (kept : t.retention.slots = (s.erased b).retention.slots) (covers : t.retention.covers = (s.erased b).retention.covers)
    (tests : t.retention.tests = (s.erased b).retention.tests) : BankErased s t b := by
  unfold BankErased
  rw [array, slots, bank, kept, covers, tests]
  refine ⟨fun n => fillBank_get _ _ _ n, rfl, rfl, fun n => fillBank_get _ _ _ n, fun n => fillBank_get _ _ _ n, ?_,
    fun b' other => put_get_other _ _ _ _ (Ne.symm other), rfl, ?_⟩
  · exact congrArg Cover.valid (put_get_same _ _ _)
  · refine (put_get_same _ _ _).trans ?_
    rw [live]
    rfl

/-! ## The commands -/

/-- The state of a failed erase, before the fault flag is set. -/
def State.eraseStopped (s : State) (b : Bank) : State :=
  ((s.withControl fun c => { c with exec := none, execTime := 1500000 }).leaveStoppedErase b).incomplete b

section
variable {s : State} {b : Bank} {custody : Bool} (runs : s.control.exec = some (.erase b custody))
  (awake : s.control.suspending = false)
include runs awake

theorem exec_eraseComplete : exec .eraseComplete s = .next (if custody = true then (s.execEnded.eraseEffects b).owedEnded b
    else s.execEnded.eraseEffects b) := by
  simp only [exec, execEraseComplete, runs, awake, Bool.false_eq_true, if_false]

theorem exec_eraseFailed : exec .eraseFailed s = .next (if custody = true then (s.eraseStopped b).setFault.owedEnded b
    else (s.eraseStopped b).setFault) := by
  simp only [exec, execEraseFailed, runs, awake, Bool.false_eq_true, if_false]
  rfl

end

theorem eraseStopped_spec (s : State) (b : Bank) : ∃ a draws, s.eraseStopped b = { s with
      array := a, draws := draws, control := { s.control with exec := none, execTime := 1500000 }
      directory := { s.directory with
        banks := put s.directory.banks b { s.directory.banks[b] with condition := .eraseIncomplete } } } ∧
    PartErased b s.control.markFound s.array a := by
  obtain ⟨a, draws, left, spec⟩ :=
    leaveStoppedErase_spec (s.withControl fun c => { c with exec := none, execTime := 1500000 }) b
  refine ⟨a, draws, ?_, spec⟩
  unfold State.eraseStopped
  rw [left]
  rfl

/-- Settles O52: what the erase makes of its bank, then the fault flag or Custody Control's next step, which touch neither its
bank's entry nor the array. -/
theorem eraseEndsAsItsRulesSay : Obligations.EraseEndsAsItsRulesSay := by
  intro s b custody runs awake live
  rw [exec_eraseComplete runs awake, exec_eraseFailed runs awake]
  refine ⟨⟨_, rfl, ?_⟩, fun noProgram noAdmin => ⟨_, rfl, ?_⟩, fun admin => ⟨_, rfl, ?_⟩⟩
  · have erased := eraseEffects_eq (s := s.execEnded) (b := b) live
    cases custody with
    | false =>
      rw [if_neg Bool.false_ne_true, erased]
      exact ⟨bankErased_of live rfl rfl rfl rfl rfl rfl, rfl, rfl, rfl, rfl, rfl, rfl, rfl, rfl,
        fun _ => ⟨rfl, rfl, fun b' other => put_get_other _ _ _ _ (Ne.symm other)⟩⟩
    | true =>
      obtain ⟨owed, resume, mode, wait, banks, frame, bank⟩ := owedEnded_frame (s.execEnded.eraseEffects b) b
      rw [if_pos rfl, frame]
      rw [erased] at bank ⊢
      exact ⟨bankErased_of live rfl rfl bank rfl rfl rfl, rfl, rfl, rfl, rfl, rfl, rfl, rfl, rfl, fun no => by cases no⟩
  · obtain ⟨a, draws, stopped, left⟩ := eraseStopped_spec s b
    have alone := setFault_alone (s.eraseStopped b) (by rw [stopped]; exact live) (by rw [stopped]; exact noProgram)
      (by rw [stopped]; exact noAdmin)
    rw [stopped] at alone
    cases custody with
    | false =>
      rw [if_neg Bool.false_ne_true, stopped, alone]
      exact ⟨rfl, rfl, rfl, congrArg BankDir.condition (put_get_same _ _ _), rfl, rfl, rfl, rfl, left.records, left.count,
        left.banks, rfl, rfl, rfl, fun _ => ⟨rfl, rfl, rfl, rfl⟩⟩
    | true =>
      obtain ⟨owed, resume, mode, wait, banks, frame, bank⟩ := owedEnded_frame (s.eraseStopped b).setFault b
      rw [if_pos rfl, frame]
      rw [stopped, alone] at bank ⊢
      exact ⟨rfl, rfl, rfl, (congrArg BankDir.condition bank).trans (congrArg BankDir.condition (put_get_same _ _ _)), rfl, rfl,
        rfl, rfl, left.records, left.count, left.banks, rfl, rfl, rfl, fun no => by cases no⟩
  · subst admin
    obtain ⟨a, draws, stopped, -⟩ := eraseStopped_spec s b
    rw [if_neg Bool.false_ne_true]
    have refused := setFault_refuses (s.eraseStopped b) (by rw [stopped]; exact live)
    rw [stopped] at refused ⊢
    exact refused.of_same rfl rfl rfl rfl rfl rfl fun n active => .inl active

/-! ## What the fault flag's setting leaves to Custody Control -/

/-- The modes, the owed marks, the operation that executes and Custody Control's slot are in t as they were in s. -/
structure CustodyKept (s t : State) : Prop where
  owed : t.retention.owed = s.retention.owed
  custody : t.custody = s.custody
  exec : t.control.exec = s.control.exec
  wait : t.control.custodyWait = s.control.custodyWait

theorem CustodyKept.refl (s : State) : CustodyKept s s := ⟨rfl, rfl, rfl, rfl⟩

theorem CustodyKept.trans {s t u : State} (first : CustodyKept s t) (second : CustodyKept t u) : CustodyKept s u :=
  ⟨second.owed.trans first.owed, second.custody.trans first.custody, second.exec.trans first.exec,
    second.wait.trans first.wait⟩

theorem latch_custodyKept (s : State) (a : Alarm) : CustodyKept s (s.latch a) := by
  unfold State.latch
  split <;> exact ⟨rfl, rfl, rfl, rfl⟩

theorem markEnd_custodyKept (s : State) (n : SlotNo) : CustodyKept s (s.markEnd n) := by
  rw [markEnd_exact]
  exact ⟨rfl, rfl, rfl, rfl⟩

theorem finishCust_custodyKept (s : State) (tag code : Byte) (oc : OutcomeCode) (data : List Byte) :
    CustodyKept s (s.finishCust tag code oc data) := ⟨rfl, rfl, rfl, rfl⟩

theorem adminEmptied_custodyKept (s : State) : CustodyKept s s.adminEmptied := by
  unfold State.adminEmptied
  split
  · unfold State.submitMark
    split
    · exact (markEnd_custodyKept _ _).trans (finishCust_custodyKept _ _ _ _ _)
    · exact ⟨rfl, rfl, rfl, rfl⟩
  · split <;> exact ⟨rfl, rfl, rfl, rfl⟩
  · exact .refl s

theorem refuseAdmin_custodyKept (s : State) : CustodyKept s s.refuseAdmin := by
  have emptied : CustodyKept s (s.withControl fun c => { c with adminWait := none }) := ⟨rfl, rfl, rfl, rfl⟩
  unfold State.refuseAdmin
  split
  · exact .refl s
  · exact (emptied.trans (markEnd_custodyKept _ _)).trans (adminEmptied_custodyKept _)
  · refine CustodyKept.trans ?_ (adminEmptied_custodyKept _)
    exact ⟨rfl, rfl, rfl, rfl⟩

theorem setFault_custodyKept (s : State) : CustodyKept s s.setFault := by
  have flagged : CustodyKept s (s.withControl fun c => { c with fault := true }) := ⟨rfl, rfl, rfl, rfl⟩
  have latched := flagged.trans (latch_custodyKept _ .nvFault)
  obtain ⟨c, bs, k, p, refused, -⟩ := refuseProgram_eq ((s.withControl fun c => { c with fault := true }).latch .nvFault)
  have program : CustodyKept s ((s.withControl fun c => { c with fault := true }).latch .nvFault).refuseProgram := by
    rw [refused]
    exact latched.trans ⟨rfl, rfl, rfl, rfl⟩
  exact program.trans (refuseAdmin_custodyKept _)

/-! ## The owed erases (R166, R167) -/

/-- The end of an owed erase in a state that Custody Control sees as s without the operation. -/
theorem owedEnded_leads {s u : State} {b : Bank} (kept : CustodyKept s.execEnded u) (free : s.control.custodyWait = none)
    (zeroizing : s.custody.present = .zeroizing) : (u.owedEnded b).retention.owed[b] = false ∧
      (∀ b', b' ≠ b → (u.owedEnded b).retention.owed[b'] = s.retention.owed[b']) ∧
      ((∀ b', b' ≠ b → s.retention.owed[b'] = false) → (u.owedEnded b).custody = { s.custody with present := .recovery } ∧
        (u.owedEnded b).retention.resume = .recovery) ∧
      (∀ b', b' ≠ b → s.retention.owed[b'] = true → (∀ k, k < b' → k ≠ b → s.retention.owed[k] = false) →
        (u.owedEnded b).custody = s.custody ∧ (u.owedEnded b).control.custodyWait = some b' ∧
        (u.owedEnded b).directory.banks[b'].condition = .erasing) := by
  obtain ⟨owed, custody, exec, wait⟩ := kept
  have owed : u.retention.owed = s.retention.owed := owed
  have custody : u.custody = s.custody := custody
  have idle : u.control.custodyBusy = false := by
    unfold ArrayControl.custodyBusy
    rw [wait, exec]
    exact congrArg (fun w : Option Bank => w.isSome || false) free
  have disowed : (u.owedEnded b).retention.owed = put s.retention.owed b false := by
    rw [← owed]
    unfold State.owedEnded
    change (if (u.disowed b).lowestOwed = none then _ else (u.disowed b).nextOwed).retention.owed = _
    split
    · rfl
    · rcases nextOwed_cases (u.disowed b) with same | ⟨b', -, next⟩
      · rw [same]
        rfl
      · rw [next]
        rfl
  refine ⟨?_, fun b' other => ?_, fun last => ?_, fun b' other is_owed lowest => ?_⟩
  · rw [disowed, put_get_same]
  · rw [disowed, put_get_other _ _ _ _ (Ne.symm other)]
  · rw [owedEnded_last fun b' other => by rw [owed]; exact last b' other, ← custody]
    exact ⟨rfl, rfl⟩
  · rw [owedEnded_next other (by rw [owed]; exact is_owed) (fun k below different => by rw [owed]; exact lowest k below different)
      (by rw [custody]; exact zeroizing) idle, ← custody]
    exact ⟨rfl, rfl, congrArg BankDir.condition (put_get_same _ _ _)⟩

/-- Settles O53: both ends of the erase lead Custody Control on from the same modes and owed marks. -/
theorem owedErasesLeadToRecovery : Obligations.OwedErasesLeadToRecovery := by
  intro s b runs awake free zeroizing c listed
  simp only [List.mem_cons, List.not_mem_nil, or_false] at listed
  rcases listed with rfl | rfl
  · obtain ⟨a, r, d, draws, erased, owed⟩ := eraseEffects_frame s.execEnded b
    have kept : CustodyKept s.execEnded (s.execEnded.eraseEffects b) := by
      rw [erased]
      exact ⟨owed, rfl, rfl, rfl⟩
    exact ⟨_, exec_eraseComplete runs awake, owedEnded_leads kept free zeroizing⟩
  · obtain ⟨a, draws, stopped, -⟩ := eraseStopped_spec s b
    have kept : CustodyKept s.execEnded (s.eraseStopped b) := by
      rw [stopped]
      exact ⟨rfl, rfl, rfl, rfl⟩
    exact ⟨_, exec_eraseFailed runs awake, owedEnded_leads (kept.trans (setFault_custodyKept _)) free zeroizing⟩

end Sys2Proof.Machine
end

section
/-! PROOF. The Array Controller's next operation (R2, R100, R106 to R108, R111, R114). -/

namespace Sys2Proof.Machine

/-! ## The choice (R107, R108, R111) -/

section
variable {s : State} (idle : s.control.exec = none)
include idle

theorem start_suspended {b : Bank} (suspended : s.control.suspended = some b) {k : Option (Fin 5)}
    (choice : (if s.control.capReached then none else s.control.nextLineRead) = k) : exec .arrayOperationStart s =
      .next (k.elim (s.withControl fun c => c.resume b) fun k => s.withControl fun c => c.startRead k) := by
  simp only [exec, execArrayOperationStart, idle, suspended, choice, Option.isSome_none, Bool.false_eq_true, if_false]
  cases k <;> rfl

variable (awake : s.control.suspended = none)
include awake

theorem start_skips {b : Bank} (skips : s.skipsTest = some b) : exec .arrayOperationStart s = .next (s.endSkipped b) := by
  simp only [exec, execArrayOperationStart, idle, awake, skips, Option.isSome_none, Bool.false_eq_true, if_false]

theorem start_reads {k : Fin 5} (reads : s.skipsTest = none) (next : s.control.nextRead = some k) :
    exec .arrayOperationStart s = .next (s.withControl fun c => c.startRead k) := by
  simp only [exec, execArrayOperationStart, idle, awake, reads, next, Option.isSome_none, Bool.false_eq_true, if_false]

theorem start_writes (unread : ∀ k, s.control.readWaits k = false) :
    exec .arrayOperationStart s = .next s.startWrite := by
  have next : s.control.nextRead = none := nextRead_none unread
  have reads : s.skipsTest = none := if_neg fun ⟨_, _, fourth⟩ => by rw [next] at fourth; cases fourth
  simp only [exec, execArrayOperationStart, idle, awake, reads, next, Option.isSome_none, Bool.false_eq_true, if_false]

end

theorem skipsTest_none_of_line {s : State} {k : Fin 5} (next : s.control.nextRead = some k) (line : k.val < 4) :
    s.skipsTest = none := by
  refine if_neg fun ⟨_, _, fourth⟩ => ?_
  obtain rfl : k = 4 := Option.some.inj (next.symm.trans fourth)
  exact absurd line (by decide)

theorem skipsTest_none_of_ready {s : State} {b : Bank} (waits : s.control.testWait = some b)
    (ready : s.directory.banks[b].condition ≠ .erasing) : s.skipsTest = none := by
  unfold State.skipsTest
  rw [waits]
  simp only [ready, if_false, ite_self]

/-! ## The start of a read -/

theorem startRead_line {c : ArrayControl} {l : Line} {n : SlotNo} (waits : c.lineWait[l] = some n) :
    c.startRead (l.castLT (by omega)) = { c with
      lineWait := put c.lineWait l none, exec := some (.readSlot l n), lastServed := l.castLT (by omega) } := by
  have bound : (l.castLT (by omega) : Fin 5).val < 4 := l.isLt
  have waits : c.lineWait[(l.castLT (by omega) : Fin 5).val] = some n := waits
  unfold ArrayControl.startRead
  rw [dif_pos bound, waits]
  rfl

theorem startRead_test {c : ArrayControl} {b : Bank} (waits : c.testWait = some b) :
    c.startRead 4 = { c with testWait := none, exec := some (.readReference b), lastServed := 4 } := by
  unfold ArrayControl.startRead
  rw [dif_neg (by decide), waits]

theorem readWaits_of_line {c : ArrayControl} {l : Line} {n : SlotNo} (waits : c.lineWait[l] = some n) :
    c.readWaits (l.castLT (by omega)) = true := by
  rw [readWaits_line, waits]
  rfl

/-! ## The start of a write (R106, R107, R114) -/

/-- The state in which Custody Control's or the administration client's erase has started, the waiting slot left out. -/
theorem startErase_eq (s : State) (b : Bank) (custody : Bool) : s.startErase b custody = { s with
    array := { s.array with headers := put s.array.headers b { s.array.headers[b] with erasing := true } }
    control := { s.control with
      exec := some (.erase b custody), execTime := 0, runTime := 0, suspendTime := 0
      markFound := s.array.headers[b].erasing } } := rfl

section
variable {u : State} {tag : Byte}

theorem adminEmptied_none (noRetire : ∀ tag h k recalled, u.custProgress ≠ some (.retire tag h k recalled))
    (noReclaim : ∀ tag b epoch, u.custProgress ≠ some (.reclaim tag b epoch)) : u.adminEmptied = u := by
  unfold State.adminEmptied
  split
  · next progress => exact absurd progress (noRetire _ _ _ _)
  · next progress => exact absurd progress (noReclaim _ _ _)
  · rfl

section
variable {h : Handle} {k : SlotNo} {recalled : Nat} (waits : u.custProgress = some (.retire tag h k recalled))
include waits

theorem adminEmptied_retire (clear : u.control.fault = false) : u.adminEmptied =
    { u.custCompletes tag codeRetire .ok (h.bytes ++ [BitVec.ofNat 8 recalled, 1]) with
      control := { u.control with adminWait := some (.mark k) } } := by
  unfold State.adminEmptied State.submitMark
  rw [waits]
  exact if_neg fun fault => Bool.false_ne_true (clear.symm.trans fault)

theorem adminEmptied_retire_fault (fault : u.control.fault = true) : u.adminEmptied =
    (u.markEnd k).finishCust tag codeRetire .ok (h.bytes ++ [BitVec.ofNat 8 recalled, 2]) := by
  unfold State.adminEmptied State.submitMark
  rw [waits]
  exact if_pos fault

theorem adminEmptied_retire_active (fault : u.control.fault = true) (active : u.directory.slots[k].state = .active) :
    u.adminEmptied = { u.custCompletes tag codeRetire .ok (h.bytes ++ [BitVec.ofNat 8 recalled, 2]) with
      directory := { u.directory with slots := (put u.directory.slots k
        { u.directory.slots[k] with state := .retired, retirePending := false }) }
      retention := { u.retention with slots := put u.retention.slots k { u.retention.slots[k] with latch := true } } } := by
  rw [adminEmptied_retire_fault waits fault, markEnd_exact]
  simp only [active, if_true]
  rfl

theorem adminEmptied_retire_other (fault : u.control.fault = true) (other : u.directory.slots[k].state ≠ .active) :
    u.adminEmptied = { u.custCompletes tag codeRetire .ok (h.bytes ++ [BitVec.ofNat 8 recalled, 2]) with
      directory := { u.directory with
        slots := put u.directory.slots k { u.directory.slots[k] with retirePending := false } } } := by
  have unlatched : put u.retention.slots k { u.retention.slots[k] with latch := u.retention.slots[k].latch } =
      u.retention.slots := put_get_self _ _
  rw [adminEmptied_retire_fault waits fault, markEnd_exact]
  simp only [other, if_false, unlatched]
  rfl

end

section
variable {b : Bank} {epoch : Byte} (waits : u.custProgress = some (.reclaim tag b epoch))
include waits

theorem adminEmptied_reclaim (clear : u.control.fault = false) : u.adminEmptied =
    { u.custCompletes tag codeReclaim .ok [BitVec.ofNat 8 b.val, epoch] with
      control := { u.control with adminWait := some (.erase b u.directory.banks[b].condition) }
      directory := { u.directory with
        banks := put u.directory.banks b { u.directory.banks[b] with condition := .erasing } } } := by
  unfold State.adminEmptied
  rw [waits]
  exact if_neg fun fault => Bool.false_ne_true (clear.symm.trans fault)

theorem adminEmptied_reclaim_fault (fault : u.control.fault = true) :
    u.adminEmptied = u.custCompletes tag codeReclaim .nvFault [] := by
  unfold State.adminEmptied
  rw [waits]
  exact if_pos fault

end

end

/-- Settles O49: the choice by the rotation and the waiting slots, then the start it leads to. -/
theorem arbiterStartsTheNextOperation : Obligations.ArbiterStartsTheNextOperation := by
  refine fun s idle => ⟨fun awake => ⟨fun l n waits turn => ?_, fun b waits turn => ⟨fun ready => ?_, fun erasing => ?_⟩⟩,
    fun awake unread => ?_, fun b suspended => ⟨fun l n uncapped waits turn => ?_, fun due => ?_⟩⟩
  · have next := nextRead_of_turn (readWaits_of_line waits) turn
    rw [start_reads idle awake (skipsTest_none_of_line next l.isLt) next, State.withControl, startRead_line waits]
  · have next : s.control.nextRead = some 4 := nextRead_of_turn (by rw [readWaits_test, waits]; rfl) turn
    rw [start_reads idle awake (skipsTest_none_of_ready waits ready) next, State.withControl, startRead_test waits]
  · rw [start_skips idle awake (skipsTest_of_turn idle awake waits turn erasing), endSkipped_eq]
  · rw [start_writes idle awake unread]
    refine ⟨fun b custody => ?_, fun r noCustody program => ?_, fun noCustody noProgram u starts => ?_⟩
    · unfold State.startWrite
      rw [custody]
      rfl
    · unfold State.startWrite
      rw [noCustody, program]
      rfl
    · have emptied : s.startWrite = u.adminEmptied := by
        unfold State.startWrite
        rw [noCustody, noProgram]
        rcases starts with ⟨n, admin, rfl⟩ | ⟨b, prior, admin, rfl⟩
        · rw [admin]
          rfl
        · rw [admin]
          rfl
      have same : u.custProgress = s.custProgress ∧ u.directory = s.directory ∧ u.retention = s.retention ∧
          u.control.fault = s.control.fault := by
        rcases starts with ⟨n, admin, rfl⟩ | ⟨b, prior, admin, rfl⟩
        · exact ⟨rfl, rfl, rfl, rfl⟩
        · exact ⟨rfl, rfl, rfl, rfl⟩
      obtain ⟨progress, directory, retention, faults⟩ := same
      rw [emptied, ← progress, ← directory, ← retention, ← faults]
      refine ⟨fun noRetire noReclaim => ?_, fun tag h k recalled waits => ⟨fun clear => ?_, fun fault active => ?_,
        fun fault other => ?_⟩, fun tag b epoch waits => ⟨fun clear => ?_, fun fault => ?_⟩⟩
      · rw [adminEmptied_none noRetire noReclaim]
      · rw [adminEmptied_retire waits clear]
      · rw [adminEmptied_retire_active waits fault active]
      · rw [adminEmptied_retire_other waits fault other]
      · rw [adminEmptied_reclaim waits clear]
      · rw [adminEmptied_reclaim_fault waits fault]
  · have next := nextLineRead_of_turn l.isLt (readWaits_of_line waits) turn
    have choice : (if s.control.capReached then none else s.control.nextLineRead) = some (l.castLT (by omega)) := by
      rw [uncapped, if_neg Bool.false_ne_true, next]
    rw [start_suspended idle suspended choice, Option.elim_some, State.withControl, startRead_line waits]
  · have choice : (if s.control.capReached then none else s.control.nextLineRead) = none := by
      rcases due with capped | unread
      · exact if_pos capped
      · have noRead : s.control.nextLineRead.isSome = false := (lineReadWaits_false_iff s.control).mpr unread
        rw [Option.not_isSome_iff_eq_none.mp (Bool.eq_false_iff.mp noRead), ite_self]
    rw [start_suspended idle suspended choice]
    rfl

end Sys2Proof.Machine
end

section
/-! PROOF. The fuse check of a start-up (R32, R153, R172, R173, R178). -/

namespace Sys2Proof.Machine

/-! ## The fuse check (R32, R153, R173) -/

/-- The state with the commissioning record's judgement. -/
def State.withRecordState (s : State) (x : RecordState) : State := { s with custody := { s.custody with record := x } }

/-- The record's check word matches. -/
def State.recordMatches (s : State) : Prop := checkWord (s.fuses.toList.take 62) = (s.fuses[62], s.fuses[63])

theorem fusesVerify_iff (s : State) : fusesVerify s.fuses = true ↔ s.recordMatches := beq_iff_eq

theorem recordStateOf_blank {s : State} (blank : s.fuses[61] = 0) : recordStateOf s.fuses = .blank := if_pos blank

theorem recordStateOf_failed {s : State} (marked : s.fuses[61] ≠ 0) (differs : ¬ s.recordMatches) :
    recordStateOf s.fuses = .failed := by
  unfold recordStateOf
  rw [if_neg marked, if_neg fun verifies => differs ((fusesVerify_iff s).mp verifies)]

theorem recordStateOf_verified {s : State} (marked : s.fuses[61] ≠ 0) (is_whole : s.recordMatches) :
    recordStateOf s.fuses = .verified := by
  unfold recordStateOf
  rw [if_neg marked, if_pos ((fusesVerify_iff s).mpr is_whole)]

/-- The limit a verified record puts on the baseline. -/
def State.recordLimit (s : State) : Nat := s.fuses[8].toNat * 256 + s.fuses[9].toNat

theorem limitBaseline_spec (limit b : Nat) :
    ((limitBaseline limit (b : Int) : Nat) : Int) = max (3906 - (limit : Int)) (min (3906 + (limit : Int)) (b : Int)) := by
  unfold limitBaseline nominalCount
  split
  · omega
  · split <;> omega

theorem loadFuses_unverified {s : State} {x : RecordState} (found : recordStateOf s.fuses = x) (other : x ≠ .verified) :
    s.loadFuses = s.withRecordState x := by
  unfold State.loadFuses
  dsimp only [State.withCustody]
  rw [found]
  exact if_neg other

theorem loadFuses_verified {s : State} (found : recordStateOf s.fuses = .verified) : s.loadFuses =
    { s.withRecordState .verified with retention := { s.retention with
      baseline := limitBaseline s.recordLimit (s.retention.baseline : Int) } } := by
  unfold State.loadFuses
  dsimp only [State.withCustody]
  rw [found]
  exact if_pos rfl

/-! ## Step 3 and what follows at once (R173, R174) -/

theorem fromStepThree_failed {s : State} {skip : Bool} {drift : List (Nat × List Byte)}
    (found : recordStateOf s.fuses = .failed) : s.fromStepThree skip drift =
      { s with
        custody := { s.custody with present := .halted, phase := .none, record := .failed }
        retention := { s.retention with pendingMarks := s.retention.pendingMarks ||| 0x10 } } := by
  unfold State.fromStepThree
  rw [loadFuses_unverified found (by decide)]
  exact if_pos rfl

theorem fromStepThree_waits {s : State} {drift : List (Nat × List Byte)} (found : recordStateOf s.fuses ≠ .failed) :
    s.fromStepThree false drift = s.loadFuses.enter .starting .crystalWait := by
  obtain ⟨r, loaded⟩ := loadFuses_eq s
  unfold State.fromStepThree
  rw [loaded]
  exact (if_neg found).trans (if_neg Bool.false_ne_true)

theorem fromStepThree_skips {s : State} {drift : List (Nat × List Byte)} (found : recordStateOf s.fuses ≠ .failed) :
    s.fromStepThree true drift = s.loadFuses.stepsFiveToSeven drift := by
  obtain ⟨r, loaded⟩ := loadFuses_eq s
  unfold State.fromStepThree
  rw [loaded]
  exact (if_neg found).trans (if_pos rfl)

/-! ## MAIN_POWER_VALID (R172) -/

theorem exec_mainPowerValid {s : State} {samples : Samples} (backup : s.custody.present = .backup)
    (above : ∀ i : Fin 4, samples[i] = true) : exec (.mainPowerValid samples) s =
      .next (((s.enter .starting .none).pend markBrownout).fromStepThree false []) := by
  refine if_pos ?_
  rw [backup, (allAt_iff samples true).mpr above]
  rfl

/-- Settles O55: by what the fuse check finds. -/
theorem mainPowerValidRunsTheFuseCheck : Obligations.MainPowerValidRunsTheFuseCheck := by
  refine ⟨fun s samples below => ?_, fun s samples backup above => ?_⟩
  · refine if_neg fun valid => ?_
    rw [not_allAt (high := true) below, Bool.and_false] at valid
    cases valid
  · rw [exec_mainPowerValid backup above]
    refine ⟨fun blank => ?_, fun marked differs => ?_, fun marked is_whole limit limited => ?_⟩
    · have found : recordStateOf ((s.enter .starting .none).pend markBrownout).fuses = .blank := recordStateOf_blank blank
      rw [fromStepThree_waits (by rw [found]; decide), loadFuses_unverified found (by decide)]
      rfl
    · have found : recordStateOf ((s.enter .starting .none).pend markBrownout).fuses = .failed :=
        recordStateOf_failed marked differs
      rw [fromStepThree_failed found]
      rfl
    · have found : recordStateOf ((s.enter .starting .none).pend markBrownout).fuses = .verified :=
        recordStateOf_verified marked is_whole
      subst limited
      refine ⟨_, limitBaseline_spec _ _, ?_⟩
      rw [fromStepThree_waits (by rw [found]; decide), loadFuses_verified found]
      rfl

end Sys2Proof.Machine
end

section
/-! PROOF. The end of a start-up and the loss of retention (R6, R14, R96, R157, R166, R171, R175, R177, R181). -/

namespace Sys2Proof.Machine

/-! ## START_UP_COMPLETE (R177) -/

section
variable {s : State} (starting : s.custody.present = .starting) (waits : s.custody.phase = .clearAllWait)
include starting waits

theorem exec_startUpComplete_blank (blank : s.custody.record ≠ .verified) :
    exec .startUpComplete s = .next (s.enter .uncommissioned .none) := by
  have here : (s.custody.present == .starting && s.custody.phase == .clearAllWait) = true := by rw [starting, waits]; rfl
  exact (if_pos here).trans (if_neg blank)

theorem exec_startUpComplete_waits (verified : s.custody.record = .verified)
    (unsettled : ¬ ∀ e : Line, s.custody.offers[e] = .done ∨ (s.custody.offers[e] = .toMake ∧ s.buses[e].ready = false)) :
    exec .startUpComplete s = .next s.makeOffers := by
  have here : (s.custody.present == .starting && s.custody.phase == .clearAllWait) = true := by rw [starting, waits]; rfl
  refine ((if_pos here).trans (if_pos verified)).trans ?_
  exact congrArg Host.Outcome.next (if_neg fun done => unsettled ((makeOffers_done s).mp done))

theorem exec_startUpComplete_enters (verified : s.custody.record = .verified)
    (settled : ∀ e : Line, s.custody.offers[e] = .done ∨ (s.custody.offers[e] = .toMake ∧ s.buses[e].ready = false)) :
    exec .startUpComplete s = .next s.makeOffers.enterResume := by
  have here : (s.custody.present == .starting && s.custody.phase == .clearAllWait) = true := by rw [starting, waits]; rfl
  refine ((if_pos here).trans (if_pos verified)).trans ?_
  exact congrArg Host.Outcome.next (if_pos ((makeOffers_done s).mpr settled))

end

/-- With no engine to offer to, the offers only become done. -/
theorem makeOffers_settled {s : State}
    (settled : ∀ e : Line, s.custody.offers[e] = .done ∨ (s.custody.offers[e] = .toMake ∧ s.buses[e].ready = false)) :
    s.makeOffers = { s with custody := { s.custody with offers := Vector.replicate 4 .done } } := by
  obtain ⟨made, each⟩ := makeOffers_spec s
  have offers : s.makeOffers.custody.offers = Vector.replicate 4 .done := by
    refine Vector.ext fun i bound => ?_
    rw [Vector.getElem_replicate]
    refine ((each ⟨i, bound⟩).1).trans ?_
    rcases settled ⟨i, bound⟩ with done | ⟨open_offer, unready⟩
    · rw [done]
      rfl
    · rw [open_offer, unready]
      rfl
  have buses : s.makeOffers.buses = s.buses := by
    refine Vector.ext fun i bound => ?_
    refine ((each ⟨i, bound⟩).2).trans (if_neg fun ⟨open_offer, ready⟩ => ?_)
    rcases settled ⟨i, bound⟩ with done | ⟨_, unready⟩
    · rw [done] at open_offer
      cases open_offer
    · exact Bool.false_ne_true (unready.symm.trans ready)
  rw [made, offers, buses]

theorem enterResume_service {s : State} (resumes : s.resumeMode = .service) : s.enterResume = { s with
    custody := { s.custody with present := .service, phase := .none }
    monitor := { s.monitor with intervalTimer := some (s.testInterval * cyclesPerSecond) } } := by
  unfold State.enterResume
  rw [resumes]
  rfl

theorem enterResume_recovery {s : State} (resumes : s.resumeMode = .recovery) : s.enterResume = { s with
    custody := { s.custody with present := .recovery, phase := .none } } := by
  unfold State.enterResume
  rw [resumes]
  rfl

theorem enterResume_zeroizing {s : State} (resumes : s.resumeMode = .zeroizing) :
    s.enterResume = (s.enter .zeroizing .none).nextOwed := by
  unfold State.enterResume
  rw [resumes]
  rfl

theorem resumeMode_service {s : State} (resumes : s.retention.marker = false ∨ s.retention.resume = .service) :
    s.resumeMode = .service := by
  unfold State.resumeMode
  rcases resumes with lost | service
  · rw [lost, if_neg Bool.false_ne_true]
  · rw [service, ite_self]

theorem resumeMode_live {s : State} (live : s.retention.marker = true) : s.resumeMode = s.retention.resume := if_pos live

/-- Settles O58: the offers' outcome decides whether the part waits, and the resume mode what it enters. -/
theorem startUpCompleteEntersTheResumeMode : Obligations.StartUpCompleteEntersTheResumeMode := by
  refine fun s starting waits => ⟨fun blank => ?_, fun verified settled => ?_, fun verified unsettled => ?_⟩
  · rw [exec_startUpComplete_blank starting waits (by rw [blank]; decide)]
    rfl
  · rw [exec_startUpComplete_enters starting waits verified settled, makeOffers_settled settled]
    refine ⟨fun resumes => ?_, fun live resumes => ?_, fun live resumes b owed lowest idle free => ?_⟩
    · rw [enterResume_service (by exact resumeMode_service resumes)]
      rfl
    · rw [enterResume_recovery (by exact (resumeMode_live live).trans resumes)]
    · have unbusy : s.control.custodyBusy = false := by
        unfold ArrayControl.custodyBusy
        rw [free, idle]
        rfl
      rw [enterResume_zeroizing (by exact (resumeMode_live live).trans resumes),
        nextOwed_submits rfl (by exact unbusy) (lowestOwed_some (by exact owed) (by exact lowest))]
      rfl
  · obtain ⟨made, each⟩ := makeOffers_spec s
    refine ⟨_, exec_startUpComplete_waits starting waits verified fun settled => ?_, made, each⟩
    obtain ⟨e, pending⟩ := unsettled
    rcases settled e with done | ⟨open_offer, unready⟩
    · rw [done] at pending
      rcases pending with flight | ⟨open_offer, -⟩
      · cases flight
      · cases open_offer
    · rcases pending with flight | ⟨-, ready⟩
      · rw [open_offer] at flight
        cases flight
      · exact Bool.false_ne_true (unready.symm.trans ready)

/-! ## RETENTION_MARKER_LOST (R175) -/

/-- With the validity marker lost nothing of retention is used (R6, R175). -/
theorem unmarked_reads {s : State} (lost : s.retention.marker = false) : s.enclosure = none ∧
    (∀ b : Bank, s.coverValid b = false) ∧ s.resumeMode = .service ∧
    (∀ (src : Source) (act : Action), s.raiseTamper src act = s) ∧ (∀ a : Alarm, s.latch a = s) := by
  refine ⟨?_, fun b => ?_, resumeMode_service (.inl lost), fun src act => raiseTamper_lost s src act lost,
    fun a => latch_lost s a lost⟩
  · unfold State.enclosure
    rw [lost, if_neg Bool.false_ne_true]
  · unfold State.coverValid
    rw [lost, Bool.false_and]

theorem exec_retentionMarkerLost {s : State} (live : s.retention.marker = true) : exec .retentionMarkerLost s =
    .next (({ s with retention := s.retention.fallen s.draws } : State).zeroizeDirectory.nextDraw) := if_pos live

theorem fallen_marker (r : Retention) (d : Nat) : (r.fallen d).marker = false := rfl

/-- Settles O59: the marker is lost, whatever retention then holds, and the directory follows the covers. -/
theorem lostMarkerDisarmsRetention : Obligations.LostMarkerDisarmsRetention := by
  intro s live
  obtain ⟨t, ends⟩ : ∃ t, t = ({ s with retention := s.retention.fallen s.draws } : State).zeroizeDirectory.nextDraw :=
    ⟨_, rfl⟩
  refine ⟨t, (exec_retentionMarkerLost live).trans (congrArg Host.Outcome.next ends.symm), ?_⟩
  have lost := fallen_marker s.retention s.draws
  generalize s.retention.fallen s.draws = r at lost ends
  subst ends
  obtain ⟨enclosure, covers, resume, tamper, latch⟩ :=
    unmarked_reads (s := ({ s with retention := r } : State).zeroizeDirectory.nextDraw) lost
  refine ⟨lost, enclosure, covers, resume, tamper, latch, zeroizeDirectory_slot _, zeroizeDirectory_bank _, ?_⟩
  unfold State.zeroizeDirectory State.withDirectory State.nextDraw
  exact ⟨rfl, rfl, rfl, rfl, rfl, rfl, rfl, rfl, rfl, rfl⟩

end Sys2Proof.Machine
end

section
/-! PROOF. Steps 5 to 7 of a start-up (R9, R10, R96, R146, R150, R169, R173 to R177, R181). -/

namespace Sys2Proof.Machine

/-! ## The retention check (R175, R181) -/

theorem checked_live {r : Retention} (live : r.marker = true) :
    r.checked = { r with resetFlags := r.resetFlags ||| r.pendingMarks, pendingMarks := 0 } := if_pos live

theorem checked_lost {r : Retention} (lost : r.marker = false) : r.checked = freshRetention := by
  unfold Retention.checked
  rw [lost]
  rfl

theorem checked_cases (r : Retention) : r.checked = if r.marker = true
    then { r with resetFlags := r.resetFlags ||| r.pendingMarks, pendingMarks := 0 } else freshRetention := by
  by_cases live : r.marker = true
  · rw [checked_live live, if_pos live]
  · rw [checked_lost (Bool.eq_false_iff.mpr live), if_neg live]

theorem checked_marker (r : Retention) : r.checked.marker = true := by
  rw [checked_cases]
  split
  · next live => exact live
  · rfl

theorem checked_pendingMarks (r : Retention) : r.checked.pendingMarks = 0 := by
  rw [checked_cases]
  split <;> rfl

theorem stepsFiveToSeven_unverified {s : State} (drift : List (Nat × List Byte)) (other : s.custody.record ≠ .verified) :
    s.stepsFiveToSeven drift = { s with
      custody := { s.custody with present := .starting, phase := .clearAllWait, offers := Vector.replicate 4 .done }
      retention := s.retention.checked } := by
  have checked : (s.enter .starting .clearAllWait).checkRetention = { s with
      custody := { s.custody with present := .starting, phase := .clearAllWait }
      retention := s.retention.checked } := by
    unfold State.checkRetention State.withRetention
    simp only [enter_custody, enter_retention, other, if_false]
    rfl
  unfold State.stepsFiveToSeven
  rw [checked]
  exact if_neg other

/-! ## The scan (R9, R10, R146, R176) -/

theorem scan_slot (s : State) (drift : List (Nat × List Byte)) (n : SlotNo) :
    (s.scan drift).directory.slots[n] = s.scanSlot drift n := by
  unfold State.scan
  simp only [Fin.getElem_fin, Vector.getElem_ofFn, Fin.eta]

theorem scan_bank (s : State) (drift : List (Nat × List Byte)) (b : Bank) :
    (s.scan drift).directory.banks[b] = s.scanBank b := by
  unfold State.scan
  simp only [Fin.getElem_fin, Vector.getElem_ofFn, Fin.eta]

theorem scan_kept (s : State) (drift : List (Nat × List Byte)) (n : SlotNo) :
    (s.scan drift).retention.slots[n] = scanAllowance (s.scanSlot drift n) s.retention.slots[n] := by
  unfold State.scan
  simp only [Fin.getElem_fin, Vector.getElem_ofFn, Fin.eta]

section
variable {s : State} {n : SlotNo} {r : SlotRecord}

theorem scanRecord_blank (blank : r.written = false) : s.scanRecord n r = (.empty, Vector.replicate 22 0) := if_pos blank

theorem scanRecord_lost (written : r.written = true) (invalid : s.coverValid (bankOf n) = false) :
    s.scanRecord n r = (.lost, r.header) :=
  (if_neg fun blank => Bool.false_ne_true (blank.symm.trans written)).trans (if_pos invalid)

section
variable (written : r.written = true) (valid : s.coverValid (bankOf n) = true)
include written valid

theorem scanRecord_unread (differs : rcwMatches r = false) :
    s.scanRecord n r = (.damaged, Vector.replicate 22 0) :=
  ((if_neg fun blank => Bool.false_ne_true (blank.symm.trans written)).trans
    (if_neg fun invalid => Bool.false_ne_true (invalid.symm.trans valid))).trans (if_pos differs)

theorem scanRecord_read (matching : rcwMatches r = true) : s.scanRecord n r =
    (if s.array.headers[bankOf n].erasing = true ∨ kcwMatches r s.retention.covers[bankOf n].value = false then .damaged
      else if r.retire ≠ .blank ∨ s.retention.slots[n].latch = true then .retired else .active, r.header) := by
  have judged : s.scanRecord n r = if s.array.headers[bankOf n].erasing then (.damaged, r.header)
      else if kcwMatches r s.retention.covers[bankOf n].value = false then (.damaged, r.header)
      else if r.retire ≠ .blank ∨ s.retention.slots[n].latch = true then (.retired, r.header) else (.active, r.header) :=
    ((if_neg fun blank => Bool.false_ne_true (blank.symm.trans written)).trans
      (if_neg fun invalid => Bool.false_ne_true (invalid.symm.trans valid))).trans
      (if_neg fun differs => Bool.false_ne_true (differs.symm.trans matching))
  rw [judged]
  split_ifs <;> simp_all

end

/-- A slot is ACTIVE after the scan only in a bank with a valid cover. -/
theorem scanRecord_not_active (invalid : s.coverValid (bankOf n) = false) : (s.scanRecord n r).1 = .empty ∨
    (s.scanRecord n r).1 = .lost := by
  cases written : r.written with
  | false => exact .inl (congrArg Prod.fst (scanRecord_blank written))
  | true => exact .inr (congrArg Prod.fst (scanRecord_lost written invalid))

end

theorem scanAllowance_latch (d : SlotDir) (r : SlotRetention) : (scanAllowance d r).latch = r.latch := by
  unfold scanAllowance
  split <;> rfl

/-- What the scan makes of a slot, line by line of R10. -/
theorem scan_slotScanned (s : State) (drift : List (Nat × List Byte)) (n : SlotNo) (live : s.retention.marker = true) :
    SlotScanned (s.scan drift) n (asRead s.array.records[n] (driftOf drift n)) := by
  have cover : s.coverValid (bankOf n) = s.retention.covers[bankOf n].valid := by
    unfold State.coverValid
    rw [live, Bool.true_and]
  have latch : (s.scan drift).retention.slots[n].latch = s.retention.slots[n].latch := by
    rw [scan_kept, scanAllowance_latch]
  have state : (s.scanSlot drift n).state = (s.scanRecord n (asRead s.array.records[n] (driftOf drift n))).1 := rfl
  have header : (s.scanSlot drift n).header = (s.scanRecord n (asRead s.array.records[n] (driftOf drift n))).2 := rfl
  have covers : (s.scan drift).retention.covers = s.retention.covers := by unfold State.scan; rfl
  have headers : (s.scan drift).array.headers = s.array.headers := by unfold State.scan; rfl
  have calendar : (s.scan drift).retention.calendar = s.retention.calendar := by unfold State.scan; rfl
  unfold SlotScanned
  rw [scan_slot, latch, covers, headers, calendar, state, header, ← cover]
  generalize asRead s.array.records[n] (driftOf drift n) = r at header
  refine ⟨rfl, ?_, ?_, fun blank => ?_, fun written invalid => ?_, fun written valid => ⟨fun differs => ?_, fun matching => ?_⟩⟩
  · rw [← header]
    rfl
  · rw [← header]
    rfl
  · rw [scanRecord_blank blank]
    exact ⟨rfl, rfl⟩
  · rw [scanRecord_lost written invalid]
    exact ⟨rfl, rfl⟩
  · rw [scanRecord_unread written valid differs]
    exact ⟨rfl, rfl⟩
  · rw [scanRecord_read written valid matching]
    exact ⟨rfl, rfl⟩

end Sys2Proof.Machine
end

section
/-! PROOF. What steps 5 to 7 with a verified record make of the state (R9, R10, R146, R150, R168, R169, R175 to R177, R181). -/

namespace Sys2Proof.Machine

/-! ## Step 5 (R150, R175) -/

theorem enclosureOf_eq (fuses : Vector Byte 64) : enclosureOf fuses = settingsOf fuses := by
  have alarm : (fuses[3].toNat = 2) = (fuses[3] = 2) := propext ⟨fun same => BitVec.eq_of_toNat_eq same, fun same => by rw [same]; rfl⟩
  unfold enclosureOf settingsOf actionOf
  simp only [alarm]

/-- The state after step 5 with a verified record. -/
def State.rechecked (s : State) : State :=
  { s with
    custody := { s.custody with present := .starting, phase := .clearAllWait }
    retention := { s.retention.checked with enclosure := some (settingsOf s.fuses) } }

theorem checkRetention_verified {s : State} (verified : s.custody.record = .verified) :
    (s.enter .starting .clearAllWait).checkRetention = s.rechecked := by
  unfold State.checkRetention State.withRetention State.rechecked
  simp only [enter_custody, enter_retention, verified, if_true, ← enclosureOf_eq]
  rfl

/-! ## Step 6 (R9, R10, R176) -/

/-- The scan changes the directory and, of retention, the slots. -/
theorem scan_spec (s : State) (drift : List (Nat × List Byte)) : ∃ d kept, s.scan drift = { s with
      directory := d, retention := { s.retention with slots := kept } } ∧ d.inUse = true ∧
    (∀ n : SlotNo, d.slots[n] = s.scanSlot drift n) ∧ (∀ b : Bank, d.banks[b] = s.scanBank b) ∧
    ∀ n : SlotNo, kept[n] = scanAllowance (s.scanSlot drift n) s.retention.slots[n] :=
  ⟨_, _, by unfold State.scan; rfl, by unfold State.scan; rfl, scan_slot s drift, scan_bank s drift, scan_kept s drift⟩

theorem anyWritten_iff (s : State) : s.anyWritten = true ↔ ∃ n : SlotNo, s.array.records[n].written = true :=
  any_toList_iff _ _

/-! ## A retention that was lost (R168, R169) -/

/-- Retention after the unpowered zeroization of a start-up that found retention lost over written records. -/
def lossRetention (r : Retention) (stamp : Option Stamp) : Retention :=
  { r with
    covers := Vector.replicate 4 { value := Vector.replicate 32 0, valid := false }
    resume := .zeroizing
    owed := Vector.replicate 4 true
    alarmFlags := r.alarmFlags ||| 0x80 ||| Source.retentionLoss.flag
    tamper :=
      { zCount := min 255 (r.tamper.zCount + 1), zCause := some .retentionLoss, zTime := stamp, zPlace := some .unpowered
        eCount := min 255 (r.tamper.eCount + 1), eSource := some .retentionLoss, eOutcome := some .zeroized
        eTime := stamp } }

theorem directory_ext {d d' : Directory} (inUse : d.inUse = d'.inUse) (slots : d.slots = d'.slots)
    (banks : d.banks = d'.banks) : d = d' := by
  cases d
  cases d'
  cases inUse
  cases slots
  cases banks
  rfl

/-- Where every cover is invalid already, the zeroization leaves the directory. -/
theorem raiseTamper_loss {u : State} (live : u.retention.marker = true) (starting : u.custody.present = .starting)
    (resumes : u.retention.resume = .service) (used : u.directory.inUse = true)
    (slots : ∀ n : SlotNo, u.directory.slots[n].state = .empty ∨
      (u.directory.slots[n].state = .lost ∧ u.directory.slots[n].retirePending = false))
    (banks : ∀ b : Bank, u.directory.banks[b].lost = true) : u.raiseTamper .retentionLoss .zeroize =
      { u with retention := lossRetention u.retention u.stamp } := by
  obtain ⟨zeroized, -, inUse⟩ := beginUnpowered_zeroized u .retentionLoss live
  obtain ⟨stillUsed, lost, lostBanks⟩ := inUse used
  rw [raiseTamper_unpowered u .retentionLoss live (.inr (.inl starting)) resumes, zeroized]
  have same_slots : (u.beginUnpowered .retentionLoss).directory.slots = u.directory.slots := by
    refine Vector.ext fun i bound => (lost ⟨i, bound⟩).trans ?_
    split
    · rfl
    · next full =>
      obtain ⟨state, unpending⟩ := (slots ⟨i, bound⟩).resolve_left full
      change _ = u.directory.slots[(⟨i, bound⟩ : SlotNo)]
      rw [← state, ← unpending]
  have same_banks : (u.beginUnpowered .retentionLoss).directory.banks = u.directory.banks := by
    refine Vector.ext fun i bound => (lostBanks ⟨i, bound⟩).trans ?_
    change _ = u.directory.banks[(⟨i, bound⟩ : Bank)]
    rw [← banks ⟨i, bound⟩]
  have directory : (u.beginUnpowered .retentionLoss).directory = u.directory :=
    directory_ext (stillUsed.trans used.symm) same_slots same_banks
  rw [directory]
  rfl

/-! ## Step 7 (R96) -/

/-- The offers change neither what the scan has found nor retention. -/
theorem Scanned.offers {s u : State} {drift : List (Nat × List Byte)} (scanned : Scanned s u drift) :
    Scanned s u.makeOffers drift := by
  obtain ⟨made, -⟩ := makeOffers_spec u
  generalize u.makeOffers.custody.offers = offers, u.makeOffers.buses = buses at made
  rw [made]
  unfold Scanned SlotScanned at scanned ⊢
  exact scanned

/-- What the start-up has found of s is what it has found of a state that differs only where the scan does not look. -/
theorem Scanned.of_same {s s' t : State} {drift : List (Nat × List Byte)} (scanned : Scanned s' t drift)
    (array : s'.array = s.array) (fuses : s'.fuses = s.fuses) {baseline : Nat}
    (retention : s'.retention = { s.retention with baseline := baseline }) : Scanned s t drift := by
  unfold Scanned at scanned ⊢
  rw [array, fuses, retention] at scanned
  exact scanned

end Sys2Proof.Machine
end

section
/-! PROOF. Steps 5 to 7 with a verified record, assembled (R9, R10, R96, R146, R150, R169, R175 to R177, R181). -/

namespace Sys2Proof.Machine

/-- The state after the scan: d is the directory built, and kept the retained slots. -/
def State.scannedWith (s : State) (d : Directory) (kept : Vector SlotRetention 128) : State :=
  { s.rechecked with directory := d, retention := { s.rechecked.retention with slots := kept } }

/-- What the scan has built of the state after step 5. -/
structure Built (s : State) (drift : List (Nat × List Byte)) (d : Directory) (kept : Vector SlotRetention 128) : Prop where
  scan : s.rechecked.scan drift = s.scannedWith d kept
  inUse : d.inUse = true
  slots : ∀ n : SlotNo, d.slots[n] = s.rechecked.scanSlot drift n
  banks : ∀ b : Bank, d.banks[b] = s.rechecked.scanBank b
  kept : ∀ n : SlotNo, kept[n] = scanAllowance (s.rechecked.scanSlot drift n) s.rechecked.retention.slots[n]

theorem built (s : State) (drift : List (Nat × List Byte)) : ∃ d kept, Built s drift d kept := by
  obtain ⟨d, kept, scan, inUse, slots, banks, retained⟩ := scan_spec s.rechecked drift
  exact ⟨d, kept, scan, inUse, slots, banks, retained⟩

/-- Retention r shows the scan what the retention of u does. -/
structure SameJudged (u : Retention) (r : Retention) : Prop where
  marker : r.marker = u.marker
  pending : r.pendingMarks = u.pendingMarks
  enclosure : r.enclosure = u.enclosure
  covers : r.covers = u.covers
  tests : r.tests = u.tests
  calendar : r.calendar = u.calendar
  slots : r.slots = u.slots

theorem SameJudged.refl (r : Retention) : SameJudged r r := ⟨rfl, rfl, rfl, rfl, rfl, rfl, rfl⟩

section
variable {s : State} {drift : List (Nat × List Byte)} {d : Directory} {kept : Vector SlotRetention 128} {r : Retention}

theorem rechecked_marker (s : State) : s.rechecked.retention.marker = true := checked_marker s.retention

theorem SlotScanned.of_sameJudged {u : State} {n : SlotNo} {record : SlotRecord} (scanned : SlotScanned u n record)
    (same : SameJudged u.retention r) : SlotScanned { u with retention := r } n record := by
  unfold SlotScanned at scanned ⊢
  dsimp only
  rw [same.covers, same.calendar, same.slots]
  exact scanned

theorem scanBank_rechecked (b : Bank) (same : SameJudged s.rechecked.retention r) :
    (s.rechecked.scanBank b).lost = !r.covers[b].valid ∧ ((s.rechecked.scanBank b).degraded = true ↔
      20000 ≤ s.array.headers[b].eraseCount ∨ s.rechecked.testFailThreshold ≤ r.tests[b].fails) := by
  unfold State.scanBank State.coverValid
  rw [rechecked_marker, same.covers, same.tests, Bool.true_and]
  refine ⟨rfl, ?_⟩
  dsimp only
  rw [Bool.or_eq_true, decide_eq_true_iff, decide_eq_true_iff]
  exact Iff.rfl

/-- Steps 5 and 6 with a verified record, whatever becomes of a lost retention's other fields. -/
theorem Built.scanned (build : Built s drift d kept) (verified : s.custody.record = .verified)
    (same : SameJudged (s.scannedWith d kept).retention r)
    (held : s.retention.marker = true → r = (s.scannedWith d kept).retention)
    (written : s.retention.marker = false → (∃ n : SlotNo, s.array.records[n].written = true) →
      r = { freshRetention with
        enclosure := some (settingsOf s.fuses), resume := .zeroizing, owed := Vector.replicate 4 true, alarmFlags := 0x80
        tamper :=
          { zCount := 1, zCause := some .retentionLoss, zTime := none, zPlace := some .unpowered, eCount := 1
            eSource := some .retentionLoss, eOutcome := some .zeroized, eTime := none } })
    (blank : s.retention.marker = false → (∀ n : SlotNo, s.array.records[n].written = false) →
      r = { freshRetention with enclosure := some (settingsOf s.fuses) }) :
    Scanned s { s.scannedWith d kept with retention := r } drift := by
  have judged : SameJudged s.rechecked.retention { r with slots := s.rechecked.retention.slots } :=
    ⟨same.marker, same.pending, same.enclosure, same.covers, same.tests, same.calendar, rfl⟩
  refine ⟨rfl, rfl, verified, build.inUse, same.marker.trans (rechecked_marker s),
    same.pending.trans (checked_pendingMarks s.retention), rfl, rfl, same.enclosure, fun b => ?_, fun n => ?_,
    fun live => ⟨?_, fun n => ?_⟩, fun lost => ⟨written lost, blank lost⟩⟩
  · obtain ⟨lost, degraded⟩ := scanBank_rechecked b judged
    have bank : (s.scannedWith d kept).directory.banks[b] = s.rechecked.scanBank b := build.banks b
    dsimp only
    rw [bank]
    exact ⟨rfl, rfl, lost, rfl, degraded⟩
  · have scanned := scan_slotScanned s.rechecked drift n (rechecked_marker s)
    rw [build.scan] at scanned
    exact scanned.of_sameJudged same
  · rw [held live]
    unfold State.scannedWith State.rechecked
    rw [checked_live live]
  · rw [held live]
    have slots : s.rechecked.retention.slots = s.retention.slots := by
      unfold State.rechecked
      rw [checked_live live]
    have retained := build.kept n
    rw [← build.slots n, slots] at retained
    exact retained

/-! ## A lost retention (R14, R169, R175) -/

section
variable (lost : s.retention.marker = false)
include lost

theorem rechecked_fresh : s.rechecked.retention = { freshRetention with enclosure := some (settingsOf s.fuses) } := by
  unfold State.rechecked
  rw [checked_lost lost]

theorem rechecked_uncovered (b : Bank) : s.rechecked.coverValid b = false := by
  unfold State.coverValid
  rw [rechecked_fresh lost]
  change (true && (freshRetention.covers[b]).valid) = false
  revert b
  decide

theorem Built.slots_lost (build : Built s drift d kept) (n : SlotNo) : d.slots[n].state = .empty ∨
    (d.slots[n].state = .lost ∧ d.slots[n].retirePending = false) := by
  rw [build.slots]
  exact (scanRecord_not_active (rechecked_uncovered lost _)).imp_right fun state => ⟨state, rfl⟩

theorem Built.banks_lost (build : Built s drift d kept) (b : Bank) : d.banks[b].lost = true := by
  rw [build.banks]
  exact congrArg not (rechecked_uncovered lost b)

theorem Built.kept_fresh (build : Built s drift d kept) : (s.scannedWith d kept).retention =
    { freshRetention with enclosure := some (settingsOf s.fuses) } := by
  have slots : kept = s.rechecked.retention.slots := by
    refine Vector.ext fun i bound => (build.kept ⟨i, bound⟩).trans (if_neg fun ⟨active, _⟩ => ?_)
    rw [← build.slots] at active
    rcases build.slots_lost lost ⟨i, bound⟩ with empty | ⟨gone, -⟩
    · rw [empty] at active
      cases active
    · rw [gone] at active
      cases active
  unfold State.scannedWith
  rw [slots, ← rechecked_fresh lost]

end

/-! ## Steps 5 to 7 -/

/-- The state after the scan and the zeroization of a retention lost over written records. -/
def State.afterLoss (s : State) (d : Directory) (kept : Vector SlotRetention 128) : State :=
  if (!s.retention.marker && (s.scannedWith d kept).anyWritten) = true
  then (s.scannedWith d kept).raiseTamper .retentionLoss .zeroize else s.scannedWith d kept

theorem stepsFiveToSeven_verified (build : Built s drift d kept) (verified : s.custody.record = .verified) :
    s.stepsFiveToSeven drift =
      if (s.afterLoss d kept).engineSeen = true then (s.afterLoss d kept).makeOffers else s.afterLoss d kept := by
  unfold State.stepsFiveToSeven
  rw [checkRetention_verified verified]
  dsimp only
  rw [build.scan]
  exact if_pos verified

/-- What a lost retention becomes over written records, of its fresh values. -/
theorem lossRetention_fresh (settings : EnclosureSettings) :
    lossRetention { freshRetention with enclosure := some settings } none = { freshRetention with
      enclosure := some settings, resume := .zeroizing, owed := Vector.replicate 4 true, alarmFlags := 0x80
      tamper :=
        { zCount := 1, zCause := some .retentionLoss, zTime := none, zPlace := some .unpowered, eCount := 1
          eSource := some .retentionLoss, eOutcome := some .zeroized, eTime := none } } := by
  have flags : freshRetention.alarmFlags ||| 0x80 ||| Source.retentionLoss.flag = 0x80 := by decide
  have zCount : min 255 (freshRetention.tamper.zCount + 1) = 1 := by decide
  have eCount : min 255 (freshRetention.tamper.eCount + 1) = 1 := by decide
  unfold lossRetention
  dsimp only
  rw [flags, zCount, eCount]
  rfl

theorem Built.afterLoss (build : Built s drift d kept) (verified : s.custody.record = .verified) :
    ∃ r, s.afterLoss d kept = { s.scannedWith d kept with retention := r } ∧
      Scanned s { s.scannedWith d kept with retention := r } drift ∧
      (s.retention.marker = true → r.baseline = s.retention.baseline) := by
  have stays (keep : ¬ (!s.retention.marker && (s.scannedWith d kept).anyWritten) = true) : s.afterLoss d kept =
      { s.scannedWith d kept with retention := (s.scannedWith d kept).retention } := if_neg keep
  cases held : s.retention.marker with
  | true =>
    refine ⟨_, stays (by rw [held]; exact Bool.false_ne_true), build.scanned verified (.refl _) (fun _ => rfl)
      (fun lost => ?_) (fun lost => ?_), fun _ => ?_⟩
    · exact absurd (held.symm.trans lost) (by decide)
    · exact absurd (held.symm.trans lost) (by decide)
    · unfold State.scannedWith State.rechecked
      rw [checked_live held]
  | false =>
    have fresh := build.kept_fresh held
    by_cases written : (s.scannedWith d kept).anyWritten = true
    · have zeroized := raiseTamper_loss (u := s.scannedWith d kept) (rechecked_marker s) rfl
        (by rw [fresh]; rfl) build.inUse (build.slots_lost held) (build.banks_lost held)
      have stamp : (s.scannedWith d kept).stamp = none := by
        unfold State.stamp
        rw [fresh]
        rfl
      rw [stamp, fresh, lossRetention_fresh] at zeroized
      refine ⟨_, (if_pos (by rw [held, written]; rfl)).trans zeroized, build.scanned verified ?_ (fun live => ?_)
        (fun _ _ => rfl) (fun _ none => ?_), fun live => ?_⟩
      · rw [fresh]
        exact ⟨rfl, rfl, rfl, rfl, rfl, rfl, rfl⟩
      · exact absurd (held.symm.trans live) (by decide)
      · obtain ⟨n, set⟩ := (anyWritten_iff _).mp written
        exact absurd ((none n).symm.trans set) (by decide)
      · cases live
    · refine ⟨_, stays (by rw [held]; exact written), build.scanned verified (.refl _) (fun _ => rfl) (fun _ set => ?_)
        (fun _ _ => fresh), fun live => ?_⟩
      · exact absurd ((anyWritten_iff _).mpr set) written
      · cases live

/-- What steps 5 to 7 do with a verified record: the state is scanned into v, and the CLEAR-ALL is then offered once an
engine is ready. -/
theorem stepsFiveToSeven_scan (s : State) (drift : List (Nat × List Byte)) (verified : s.custody.record = .verified) :
    ∃ v, Scanned s v drift ∧ s.stepsFiveToSeven drift = (if v.engineSeen = true then v.makeOffers else v) ∧
      v.control = s.control ∧ v.buses = s.buses ∧
      v.custody = { s.custody with present := .starting, phase := .clearAllWait } ∧
      (s.retention.marker = true → v.retention.baseline = s.retention.baseline) := by
  obtain ⟨d, kept, build⟩ := built s drift
  obtain ⟨r, after, scanned, baseline⟩ := build.afterLoss verified
  have steps := stepsFiveToSeven_verified build verified
  rw [after] at steps
  exact ⟨_, scanned, steps, rfl, rfl, rfl, baseline⟩

/-- The offers change the offers and the queues alone. -/
theorem ifOffers_frame (v : State) : ∃ offers buses, (if v.engineSeen = true then v.makeOffers else v) =
    { v with custody := { v.custody with offers := offers }, buses := buses } := by
  split
  · obtain ⟨made, -⟩ := makeOffers_spec v
    exact ⟨_, _, made⟩
  · exact ⟨v.custody.offers, v.buses, rfl⟩

theorem Scanned.ifOffers {s v : State} {drift : List (Nat × List Byte)} (scanned : Scanned s v drift) :
    Scanned s (if v.engineSeen = true then v.makeOffers else v) drift := by
  split
  · exact scanned.offers
  · exact scanned

/-- Steps 5 to 7 with a verified record, as far as no offer is concerned. -/
theorem stepsFiveToSeven_scanned (s : State) (drift : List (Nat × List Byte)) (verified : s.custody.record = .verified) :
    Scanned s (s.stepsFiveToSeven drift) drift ∧ (s.stepsFiveToSeven drift).control = s.control ∧
    (s.stepsFiveToSeven drift).custody.crystalOk = s.custody.crystalOk ∧
    (s.stepsFiveToSeven drift).custody.restart = s.custody.restart ∧
    (s.retention.marker = true → (s.stepsFiveToSeven drift).retention.baseline = s.retention.baseline) := by
  obtain ⟨v, scanned, steps, control, -, custody, baseline⟩ := stepsFiveToSeven_scan s drift verified
  have offered := scanned.ifOffers
  obtain ⟨offers, buses, frame⟩ := ifOffers_frame v
  rw [frame] at steps offered
  rw [steps]
  refine ⟨offered, control, ?_, ?_, baseline⟩
  · rw [custody]
  · rw [custody]

end

/-! ## CRYSTAL_STARTED (R174) -/

/-- The state once step 4 has ended with the crystal started. -/
def State.crystalRuns (s : State) : State := { s with custody := { s.custody with crystalOk := true } }

theorem exec_crystalStarted {s : State} (drift : List (Nat × List Byte)) (starting : s.custody.present = .starting)
    (waits : s.custody.phase = .crystalWait) : exec (.crystalStarted drift) s = .next (s.crystalRuns.stepsFiveToSeven drift) := by
  refine if_pos ?_
  rw [starting, waits]
  rfl

/-- Settles O57: the scan of steps 5 to 7, with the offers made once an engine is ready. -/
theorem crystalStartedBuildsTheDirectory : Obligations.CrystalStartedBuildsTheDirectory := by
  intro s drift starting waits verified
  obtain ⟨v, scanned, steps, control, buses, custody, baseline⟩ := stepsFiveToSeven_scan s.crystalRuns drift verified
  have offered := scanned.ifOffers
  have unread : Scanned s (if v.engineSeen = true then v.makeOffers else v) drift :=
    offered.of_same (baseline := s.retention.baseline) rfl rfl rfl
  have offers : v.custody.offers = s.custody.offers := by rw [custody]; rfl
  have same_buses : v.buses = s.buses := buses
  refine ⟨_, exec_crystalStarted drift starting waits, ?_⟩
  rw [steps]
  obtain ⟨offers', buses', frame⟩ := ifOffers_frame v
  refine ⟨unread, ?_, ?_, ?_, fun open_offers => ⟨fun ready e => ?_, fun none => ?_⟩⟩
  · rw [frame]
    exact control
  · rw [frame]
    exact congrArg Custody.crystalOk custody
  · rw [frame]
    exact baseline
  · obtain ⟨-, each⟩ := makeOffers_spec v
    obtain ⟨offer, bus⟩ := each e
    rw [if_pos ((engineSeen_iff v).mpr (by rw [same_buses]; exact ready))]
    rw [offers, open_offers e, same_buses, if_pos rfl] at offer
    rw [offers, open_offers e, same_buses] at bus
    refine ⟨fun is_ready => ?_, fun unready => ?_⟩
    · rw [offer, bus, if_pos is_ready, if_pos ⟨rfl, is_ready⟩]
      exact ⟨rfl, rfl⟩
    · have other : ¬ s.buses[e].ready = true := fun is_ready => Bool.false_ne_true (unready.symm.trans is_ready)
      rw [offer, bus, if_neg other, if_neg fun both => other both.2]
      exact ⟨rfl, rfl⟩
  · rw [if_neg fun seen => ?_]
    · exact ⟨offers, same_buses⟩
    · obtain ⟨e, ready⟩ := (engineSeen_iff v).mp seen
      rw [same_buses] at ready
      exact Bool.false_ne_true ((none e).symm.trans ready)

end Sys2Proof.Machine
end

section
/-! PROOF. The ends of step 4 and of RESET (R173 to R175, R178, R179). -/

namespace Sys2Proof.Machine

/-- Retention after step 5 as the statements write it: collected marks, or made anew. -/
def State.retentionChecked (s : State) : Retention :=
  if s.retention.marker = true then { s.retention with
    resetFlags := s.retention.resetFlags ||| s.retention.pendingMarks, pendingMarks := 0 } else freshRetention

theorem checked_retentionChecked (s : State) : s.retention.checked = s.retentionChecked := checked_cases s.retention

/-- The state after steps 5 to 7 on the uncommissioned path. -/
def State.pathUncommissioned (s : State) : State :=
  { s with
    custody := { s.custody with present := .starting, phase := .clearAllWait, offers := Vector.replicate 4 .done }
    retention := s.retentionChecked }

theorem steps_unverified {s : State} (drift : List (Nat × List Byte)) (other : s.custody.record ≠ .verified) :
    s.stepsFiveToSeven drift = s.pathUncommissioned := by
  rw [stepsFiveToSeven_unverified drift other, checked_retentionChecked]
  rfl

section
variable {s : State} {samples : Samples}

theorem exec_crystalStartTimeout (starting : s.custody.present = .starting) (waits : s.custody.phase = .crystalWait) :
    exec .crystalStartTimeout s = .next { s with
      custody := { s.custody with present := .halted, phase := .none, crystalOk := false }
      retention := { s.retention with pendingMarks := s.retention.pendingMarks ||| 0x20 } } := by
  refine if_pos ?_
  rw [starting, waits]
  rfl

theorem exec_resetRelease (starting : s.custody.present = .starting) (inReset : s.custody.phase = .inReset)
    (released : ∀ i : Fin 4, samples[i] = false) (ran : Bool) (drift : List (Nat × List Byte)) :
    exec (.resetRelease ran drift samples) s =
      .next ((s.enter .starting .none).fromStepThree (s.custody.crystalOk && ran) drift) := by
  refine if_pos ?_
  rw [starting, inReset, (allAt_iff samples false).mpr released]
  rfl

theorem exec_resetRelease_other (held : ∃ i : Fin 4, samples[i] = true) (ran : Bool) (drift : List (Nat × List Byte)) :
    exec (.resetRelease ran drift samples) s = .next s := by
  refine if_neg fun release => ?_
  rw [not_allAt (high := false) held, Bool.and_false] at release
  cases release

end

/-! ## From step 3 in a state that enters STARTING -/

section
variable {s : State} {drift : List (Nat × List Byte)}

theorem start_blank_waits (blank : s.fuses[61] = 0) : (s.enter .starting .none).fromStepThree false drift = { s with
    custody := { s.custody with present := .starting, phase := .crystalWait, record := .blank } } := by
  have found : recordStateOf (s.enter .starting .none).fuses = .blank := recordStateOf_blank blank
  rw [fromStepThree_waits (by rw [found]; decide), loadFuses_unverified found (by decide)]
  rfl

theorem start_blank_skips (blank : s.fuses[61] = 0) : (s.enter .starting .none).fromStepThree true drift = { s with
    custody := { s.custody with
      present := .starting, phase := .clearAllWait, record := .blank, offers := Vector.replicate 4 .done }
    retention := s.retentionChecked } := by
  have found : recordStateOf (s.enter .starting .none).fuses = .blank := recordStateOf_blank blank
  rw [fromStepThree_skips (by rw [found]; decide), loadFuses_unverified found (by decide),
    steps_unverified drift fun verified => by cases verified]
  rfl

theorem start_failed (marked : s.fuses[61] ≠ 0) (differs : ¬ s.recordMatches) (skip : Bool) :
    (s.enter .starting .none).fromStepThree skip drift = { s with
      custody := { s.custody with present := .halted, phase := .none, record := .failed }
      retention := { s.retention with pendingMarks := s.retention.pendingMarks ||| 0x10 } } := by
  have found : recordStateOf (s.enter .starting .none).fuses = .failed := recordStateOf_failed marked differs
  rw [fromStepThree_failed found]
  rfl

/-- The state in which a verified record has been loaded from s. -/
def State.verifiedLoad (s : State) : State :=
  { s with
    custody := { s.custody with present := .starting, phase := .none, record := .verified }
    retention := { s.retention with baseline := limitBaseline s.recordLimit (s.retention.baseline : Int) } }

theorem start_verified_waits (marked : s.fuses[61] ≠ 0) (is_whole : s.recordMatches) :
    (s.enter .starting .none).fromStepThree false drift = { s.verifiedLoad with
      custody := { s.verifiedLoad.custody with phase := .crystalWait } } := by
  have found : recordStateOf (s.enter .starting .none).fuses = .verified := recordStateOf_verified marked is_whole
  rw [fromStepThree_waits (by rw [found]; decide), loadFuses_verified found]
  rfl

theorem start_verified_skips (marked : s.fuses[61] ≠ 0) (is_whole : s.recordMatches) :
    (s.enter .starting .none).fromStepThree true drift = s.verifiedLoad.stepsFiveToSeven drift := by
  have found : recordStateOf (s.enter .starting .none).fuses = .verified := recordStateOf_verified marked is_whole
  rw [fromStepThree_skips (by rw [found]; decide), loadFuses_verified found]
  rfl

/-- A start past step 4 with a verified record scans s. -/
theorem start_verified_scanned (marked : s.fuses[61] ≠ 0) (is_whole : s.recordMatches) :
    Scanned s ((s.enter .starting .none).fromStepThree true drift) drift ∧
    ((s.enter .starting .none).fromStepThree true drift).custody.restart = s.custody.restart ∧
    (s.retention.marker = true → ((s.enter .starting .none).fromStepThree true drift).retention.baseline =
      limitBaseline s.recordLimit (s.retention.baseline : Int)) := by
  rw [start_verified_skips marked is_whole]
  obtain ⟨scanned, -, -, restart, baseline⟩ := stepsFiveToSeven_scanned s.verifiedLoad drift rfl
  exact ⟨scanned.of_same rfl rfl rfl, restart, baseline⟩

end

/-- Settles O56: by the place of the start-up and what the fuse check finds. -/
theorem stepFourEndsOrIsSkipped : Obligations.StepFourEndsOrIsSkipped := by
  refine ⟨fun s samples ran drift held => exec_resetRelease_other held ran drift, fun s samples starting released =>
    ⟨exec_crystalStartTimeout starting, fun waits blank drift => ?_, fun inReset blank drift => ?_,
      fun inReset blank ran drift => ?_, fun inReset marked => ⟨fun differs ran drift => ?_, fun is_whole => ?_⟩⟩⟩
  · rw [exec_crystalStarted drift starting waits, steps_unverified drift (by exact fun verified => by rw [State.crystalRuns, blank] at verified; cases verified)]
    unfold State.pathUncommissioned State.crystalRuns
    rw [← starting]
    rfl
  · rw [exec_resetRelease starting inReset released, Bool.and_false, start_blank_waits blank, ← starting]
  · rw [exec_resetRelease starting inReset released, ran, Bool.and_self, start_blank_skips blank, ← starting]
    rfl
  · rw [exec_resetRelease starting inReset released, start_failed marked differs]
  · intro limit baseline limited judged
    obtain rfl : limit = s.recordLimit := limited
    obtain rfl : baseline = limitBaseline s.recordLimit (s.retention.baseline : Int) :=
      Int.ofNat.inj (judged.trans (limitBaseline_spec _ _).symm)
    refine ⟨fun ran drift stopped => ?_, fun ran drift => ?_⟩
    · have waits : (s.custody.crystalOk && ran) = false := by
        rcases stopped with stopped | stopped
        · rw [stopped, Bool.false_and]
        · rw [stopped, Bool.and_false]
      rw [exec_resetRelease starting inReset released, waits, start_verified_waits marked is_whole]
      unfold State.verifiedLoad
      rw [← starting]
    · obtain ⟨scanned, -, baseline⟩ := start_verified_scanned (drift := drift) marked is_whole
      refine ⟨_, ?_, scanned, baseline⟩
      rw [exec_resetRelease starting inReset released, ran, Bool.and_self]

end Sys2Proof.Machine
end

section
/-! PROOF. The end of the volatile state (R33, R53, R61, R81, R98, R105, R117, R179, R180, R183, R194). -/

namespace Sys2Proof.Machine

/-! ## The fuses a stopped programming leaves (R183) -/

/-- What a COMMISSION that was stopped has left in the fuses of s; with none in progress they stay. -/
structure FusesLeft (s : State) (fuses : Vector Byte 64) : Prop where
  same : (∀ tag r, s.custProgress ≠ some (.commission tag r)) → fuses = s.fuses
  bits : ∀ tag r, s.custProgress = some (.commission tag r) → ∀ i : Fin 64,
    s.fuses[i] &&& ~~~ fuses[i] = 0 ∧ fuses[i] &&& ~~~ (s.fuses[i] ||| r[i]) = 0
  marker : ∀ tag r, s.custProgress = some (.commission tag r) → (∃ i : Fin 64, i ≠ 61 ∧ fuses[i] ≠ r[i]) →
    fuses[61] = s.fuses[61]

/-- A byte with no bit in the way of its target takes it whole. -/
theorem or_of_no_conflict {old target : Byte} (free : old &&& ~~~ target = 0) : old ||| target = target := by
  apply BitVec.eq_of_getLsbD_eq
  intro j _
  have bit := congrArg (fun v => v.getLsbD j) free
  simp at bit ⊢
  grind

/-- Up to the first conflict a programming takes every byte before the marker whole first. -/
theorem programFuses_marker {d rank : Nat} {old target : Vector Byte 64} (below : rank ≤ fuseConflict old target)
    (short : ∃ i : Fin 64, i ≠ 61 ∧ (programFuses d rank old target)[i] ≠ target[i]) :
    (programFuses d rank old target)[61] = old[61] := by
  obtain ⟨i, other, differs⟩ := short
  have before := fuseRank_marker i other
  refine (programFuses_cases d rank old target 61).2.1 ?_
  have place : fuseRank (61 : Fin 64).val = fuseRank 61 := rfl
  have reached : rank ≤ fuseRank i.val := by
    by_contra beyond
    refine differs (((programFuses_cases d rank old target i).1 (by omega)).trans ?_)
    exact or_of_no_conflict (fuseConflict_before old target i (by omega))
  omega

theorem leaveFuses_spec (s : State) : ∃ fuses draws, s.leaveFuses = { s with fuses := fuses, draws := draws } ∧
    FusesLeft s fuses := by
  unfold State.leaveFuses
  split
  · next tag r progress =>
    refine ⟨_, _, rfl, fun none => absurd progress (none tag r), fun tag' r' progress' i => ?_, fun tag' r' progress' => ?_⟩
    · rw [progress] at progress'
      cases progress'
      obtain ⟨-, -, free, byte⟩ := programFuses_cases s.draws (min (freeBelow s.draws 64 65) (fuseConflict s.fuses r)) s.fuses r i
      rw [byte]
      exact kept_bits _ _ _
    · rw [progress] at progress'
      cases progress'
      exact programFuses_marker (Nat.min_le_right _ _)
  · next none =>
    exact ⟨s.fuses, s.draws, rfl, fun _ => rfl, fun tag r progress => absurd progress (none tag r),
      fun tag r progress => absurd progress (none tag r)⟩

/-! ## The array a stopped operation leaves (R105, R117) -/

/-- No operation that writes the array executes or is suspended. -/
def ArrayControl.readsOnly (c : ArrayControl) : Prop :=
  c.exec = none ∨ (∃ l n, c.exec = some (.readSlot l n)) ∨ ∃ b, c.exec = some (.readReference b)

section
variable {s : State}

theorem leaveStopped_reads (awake : s.control.suspended = none) (reads : s.control.readsOnly) : s.leaveStopped = s := by
  unfold State.leaveStopped
  rw [awake]
  rcases reads with idle | ⟨l, n, reads⟩ | ⟨b, reads⟩
  · rw [idle]
  · rw [reads]
  · rw [reads]

theorem leaveStopped_program {r : ProgramRequest} (awake : s.control.suspended = none)
    (runs : s.control.exec = some (.programRecord r)) : s.leaveStopped = s.leaveStoppedProgram r := by
  unfold State.leaveStopped
  rw [awake, runs]

theorem leaveStopped_mark {n : SlotNo} (awake : s.control.suspended = none)
    (runs : s.control.exec = some (.programMark n)) : s.leaveStopped = s.leaveStoppedMark n := by
  unfold State.leaveStopped
  rw [awake, runs]

theorem leaveStopped_erase {b : Bank} {custody : Bool} (awake : s.control.suspended = none)
    (runs : s.control.exec = some (.erase b custody)) : s.leaveStopped = s.leaveStoppedErase b := by
  unfold State.leaveStopped
  rw [awake, runs]

theorem leaveStopped_suspended {b : Bank} (suspended : s.control.suspended = some b)
    (reads : s.control.exec = none ∨ ∃ l n, s.control.exec = some (.readSlot l n)) :
    s.leaveStopped = s.leaveStoppedErase b := by
  unfold State.leaveStopped
  rw [suspended]
  rcases reads with idle | ⟨l, n, reads⟩
  · rw [idle]
  · rw [reads]

end

/-- A record whose PROGRAM RECORD was stopped. -/
def ProgramStopped (r : ProgramRequest) (old new : SlotRecord) : Prop :=
  new = old ∨ (new.written = true ∧ new.retire = .blank ∧ ∀ i : Fin 32, hLength r.record.header ≤ i.val → new.value[i] = 0)

theorem stoppedProgram_spec (d : Nat) (r : ProgramRequest) (old : SlotRecord) :
    ProgramStopped r old (if freeBool d 0 then partProgrammed d (hLength r.record.header) else old) := by
  split
  · refine .inr ⟨rfl, rfl, fun i beyond => ?_⟩
    simp only [partProgrammed, Fin.getElem_fin, Vector.getElem_ofFn]
    exact if_neg (by omega)
  · exact .inl rfl

/-- A retire mark that was stopped. -/
def stoppedMark (s : State) (n : SlotNo) : RetireMark := (s.leaveStoppedMark n).array.records[n].retire

theorem leaveStoppedMark_spec (s : State) (n : SlotNo) : (s.leaveStoppedMark n).array = { s.array with
      records := put s.array.records n { s.array.records[n] with retire := stoppedMark s n } } ∧
    (s.array.records[n].retire ≠ .blank → stoppedMark s n ≠ .blank) ∧
    (s.array.records[n].retire = .full → stoppedMark s n = .full) := by
  have record : stoppedMark s n = ((s.leaveStoppedMark n).array.records[n]).retire := rfl
  unfold State.leaveStoppedMark State.withRecord State.withArray State.nextDraw at record ⊢
  dsimp only at record ⊢
  rw [put_get_same] at record
  dsimp only at record
  refine ⟨by rw [record], ?_, ?_⟩
  · rw [record]
    intro marked blank
    split at blank
    · next before _ => exact marked before
    · cases blank
    · cases blank
    · cases blank
  · rw [record]
    intro whole
    rw [whole]

/-- What the Array Controller leaves in the array when it stops, by the operation it finds. -/
structure ArrayLeft (s : State) (a : KeyArray) : Prop where
  reads : s.control.suspended = none → s.control.readsOnly → a = s.array
  program : s.control.suspended = none → ∀ r, s.control.exec = some (.programRecord r) →
    a = { s.array with records := put s.array.records r.slot a.records[r.slot] } ∧
    ProgramStopped r s.array.records[r.slot] a.records[r.slot]
  mark : s.control.suspended = none → ∀ n, s.control.exec = some (.programMark n) → ∃ mark : RetireMark,
    a = { s.array with records := put s.array.records n { s.array.records[n] with retire := mark } } ∧
    (s.array.records[n].retire ≠ .blank → mark ≠ .blank) ∧ (s.array.records[n].retire = .full → mark = .full)
  erase : ∀ b : Bank, (∃ custody, s.control.exec = some (.erase b custody)) ∧ s.control.suspended = none ∨
      s.control.suspended = some b ∧ (s.control.exec = none ∨ ∃ l n, s.control.exec = some (.readSlot l n)) →
    PartErased b s.control.markFound s.array a

theorem leaveStopped_left (s : State) : ArrayLeft s s.leaveStopped.array where
  reads awake reads := by rw [leaveStopped_reads awake reads]
  program awake r runs := by
    rw [leaveStopped_program awake runs]
    unfold State.leaveStoppedProgram State.withRecord State.withArray State.nextDraw
    dsimp only
    rw [put_get_same]
    exact ⟨rfl, stoppedProgram_spec s.draws r _⟩
  mark awake n runs := by
    rw [leaveStopped_mark awake runs]
    exact ⟨stoppedMark s n, leaveStoppedMark_spec s n⟩
  erase b stopped := by
    obtain ⟨a, draws, left, spec⟩ := leaveStoppedErase_spec s b
    have here : s.leaveStopped = s.leaveStoppedErase b := by
      rcases stopped with ⟨⟨custody, runs⟩, awake⟩ | ⟨suspended, reads⟩
      · exact leaveStopped_erase awake runs
      · exact leaveStopped_suspended suspended reads
    rw [here, left]
    exact spec

end Sys2Proof.Machine
end

section
/-! PROOF. BROWNOUT and WARM_RESET_ONSET (R33, R53, R61, R81, R98, R105, R117, R179, R180, R183, R194). -/

namespace Sys2Proof.Machine

/-! ## The end of the volatile state -/

/-- The state once every block has ended its volatile state, given what is left in the fuses, the array and the retained
slots. -/
def State.volatileEnded (s : State) (fuses : Vector Byte 64) (a : KeyArray) (kept : Vector SlotRetention 128) (draws : Nat) :
    State :=
  { s with
    draws := draws
    fuses := fuses
    array := a
    retention := { s.retention with slots := kept }
    positions := noPositions
    lineLinks := mapTable Link.broken s.lineLinks
    custLink := s.custLink.broken
    lineProgress := Vector.replicate 4 none
    custProgress := none
    allocations := Vector.replicate 4 { domain := 0, mask := 0 }
    buses := mapTable Transmitter.ended s.buses
    ceremony := Ceremony.initial
    control := ArrayControl.initial
    directory := Directory.initial
    monitor := Monitor.initial
    custody := { s.custody with
      phase := .none, offers := Vector.replicate 4 .toMake, csa := false, csb := false, record := .notLoaded
      restart := none, commissions := 0 } }

/-- What the end of the volatile state leaves. -/
structure VolatileEnded (s : State) (fuses : Vector Byte 64) (a : KeyArray) (kept : Vector SlotRetention 128) (draws : Nat) :
    Prop where
  ended : s.endVolatile = s.volatileEnded fuses a kept draws
  fuses : FusesLeft s fuses
  array : ArrayLeft s a
  charged : ∀ n : SlotNo, s.retention.slots[n].issued ≤ 16777215 →
    kept[n] = { s.retention.slots[n] with issued := min 16777215 (s.retention.slots[n].issued + s.reserved n) }
  unbound : s.positions = noPositions → kept = s.retention.slots

/-- A table without a binding charges nothing. -/
theorem endTable_noPositions {s : State} (free : s.positions = noPositions) : s.endTable = s := by
  have charged : ∀ ps : List Position, (∀ x ∈ ps, x = .free) → ps.foldl State.chargePosition s = s := by
    intro ps all
    induction ps with
    | nil => rfl
    | cons x ps ih =>
      obtain rfl : x = .free := all x List.mem_cons_self
      exact ih fun y mem => all y (List.mem_cons_of_mem _ mem)
  have all : ∀ x ∈ s.allPositions, x = .free := by
    unfold State.allPositions
    rw [free]
    decide
  unfold State.endTable
  rw [charged s.allPositions all, ← free]

theorem endVolatile_spec (s : State) : ∃ fuses a kept draws, VolatileEnded s fuses a kept draws := by
  obtain ⟨fuses, draws, left, fusesLeft⟩ := leaveFuses_spec s
  obtain ⟨kept, table, charged⟩ := endTable_eq { s with fuses := fuses, draws := draws }
  have stopped := leaveStopped_left { s with
    fuses := fuses, draws := draws, positions := noPositions, retention := { s.retention with slots := kept } }
  obtain ⟨a, draws', frame⟩ := leaveStopped_eq { s with
    fuses := fuses, draws := draws, positions := noPositions, retention := { s.retention with slots := kept } }
  rw [frame] at stopped
  refine ⟨fuses, a, kept, draws', ?_, fusesLeft, ?_, charged, fun free => ?_⟩
  · unfold State.endVolatile
    rw [left, table, frame]
    rfl
  · exact ⟨stopped.reads, stopped.program, stopped.mark, stopped.erase⟩
  · have same := endTable_noPositions (s := { s with fuses := fuses, draws := draws }) free
    rw [table] at same
    exact congrArg (fun t : State => t.retention.slots) same

/-! ## The commands -/

/-- The state in which a mode has been entered after the end of the volatile state. -/
def State.endedInto (s : State) (m : Mode) (phase : StartPhase) (crystalOk : Bool) (mark : Byte) : State :=
  { s.endVolatile with
    custody := { s.endVolatile.custody with present := m, phase := phase, crystalOk := crystalOk }
    retention := { s.endVolatile.retention with pendingMarks := s.endVolatile.retention.pendingMarks ||| mark } }

section
variable {s : State} {samples : Samples}

theorem exec_brownout (powered : s.custody.present ≠ .backup) (below : ∀ i : Fin 4, samples[i] = true) :
    exec (.brownout samples) s = .next (s.endedInto .backup .none false 0x00) := by
  have fails : (s.custody.present != .backup && allAt samples true) = true := by
    rw [(allAt_iff samples true).mpr below, Bool.and_true]
    exact bne_iff_ne.mpr powered
  refine (if_pos fails).trans ?_
  unfold State.endedInto
  generalize s.endVolatile = u
  have unmarked : u.retention.pendingMarks ||| 0 = u.retention.pendingMarks := BitVec.or_zero
  rw [unmarked]
  rfl

theorem exec_brownout_other (other : s.custody.present = .backup ∨ ∃ i : Fin 4, samples[i] = false) :
    exec (.brownout samples) s = .next s := by
  refine if_neg fun fails => ?_
  rcases other with unpowered | above
  · rw [unpowered] at fails
    cases fails
  · rw [not_allAt (high := true) above, Bool.and_false] at fails
    cases fails

theorem exec_warmResetOnset (powered : s.custody.present ≠ .backup)
    (unheld : ¬ (s.custody.present = .starting ∧ s.custody.phase = .inReset)) (asserted : ∀ i : Fin 4, samples[i] = true) :
    exec (.warmResetOnset samples) s = .next (s.endedInto .starting .inReset s.custody.crystalOk 0x08) := by
  have onset : ¬ (s.custody.present == .backup || (s.custody.present == .starting && s.custody.phase == .inReset) ||
      !allAt samples true) = true := by
    rw [(allAt_iff samples true).mpr asserted]
    simp only [Bool.or_eq_true, Bool.and_eq_true, beq_iff_eq, Bool.not_true, Bool.false_eq_true, or_false, not_or]
    exact ⟨powered, unheld⟩
  refine (if_neg onset).trans ?_
  unfold State.endedInto
  have crystal : s.endVolatile.custody.crystalOk = s.custody.crystalOk := by
    obtain ⟨fuses, a, kept, draws, ended⟩ := endVolatile_spec s
    rw [ended.ended]
    rfl
  rw [← crystal]
  generalize s.endVolatile = u
  rfl

theorem exec_warmResetOnset_other (other : s.custody.present = .backup ∨
      (s.custody.present = .starting ∧ s.custody.phase = .inReset) ∨ ∃ i : Fin 4, samples[i] = false) :
    exec (.warmResetOnset samples) s = .next s := by
  refine if_pos ?_
  rcases other with unpowered | ⟨starting, held⟩ | released
  · rw [unpowered]
    rfl
  · rw [starting, held]
    rfl
  · rw [not_allAt (high := true) released, Bool.not_false, Bool.or_true]

end

/-- Settles O54: both commands end the volatile state and enter their mode; what is left in the array and the fuses is what the
stopped operation left. -/
theorem brownoutAndWarmResetEndTheVolatileState : Obligations.BrownoutAndWarmResetEndTheVolatileState := by
  refine ⟨fun s powered samples asserted row listed applies => ?_, fun s samples other => ?_, fun s samples => ⟨fun unpowered => ?_,
    fun starting held => exec_warmResetOnset_other (.inr (.inl ⟨starting, held⟩))⟩, fun left => ?_⟩
  · have runs : exec row.1 s = .next (s.endedInto row.2.1 row.2.2.1 row.2.2.2.1 row.2.2.2.2.1) := by
      simp only [List.mem_cons, List.not_mem_nil, or_false] at listed
      rcases listed with rfl | rfl
      · exact exec_brownout powered asserted
      · exact exec_warmResetOnset powered applies asserted
    refine ⟨_, runs, ?_⟩
    generalize row.2.1 = m
    generalize row.2.2.1 = phase
    generalize row.2.2.2.1 = crystal
    generalize row.2.2.2.2.1 = mark
    obtain ⟨fuses, a, kept, draws, ended, fusesLeft, arrayLeft, charged, -⟩ := endVolatile_spec s
    unfold State.endedInto
    rw [ended]
    refine ⟨rfl, rfl, charged, rfl, fun l => ⟨?_, ?_, mapTable_get _ _ _⟩, rfl, rfl, fun e => mapTable_get _ _ _, rfl, rfl, rfl,
      rfl, rfl, rfl, fun awake => ⟨arrayLeft.reads awake, arrayLeft.program awake, arrayLeft.mark awake⟩, fun b stopped => ?_,
      fusesLeft.same, fun tag r progress => ⟨fusesLeft.bits tag r progress, fusesLeft.marker tag r progress⟩⟩
    · exact Vector.getElem_replicate _
    · exact Vector.getElem_replicate _
    · have part := arrayLeft.erase b stopped
      exact ⟨part.count, part.banks, part.records, part.mark, part.unmarked⟩
  · exact ⟨exec_brownout_other (.inr other), exec_warmResetOnset_other (.inr (.inr other))⟩
  · exact ⟨exec_brownout_other (.inl unpowered), exec_warmResetOnset_other (.inl unpowered)⟩
  · refine ⟨rfl, fun x listed => ?_, fun x listed => ?_⟩
    · simp only [List.mem_cons, List.not_mem_nil, or_false] at listed
      rcases listed with rfl | rfl | rfl | rfl <;> rfl
    · simp only [List.mem_cons, List.not_mem_nil, or_false] at listed
      rcases listed with rfl | rfl | rfl | rfl | rfl <;> rfl

end Sys2Proof.Machine
end

section
/-! PROOF. COMMISSION, the end of its programming and the restart (R183). -/

namespace Sys2Proof.Machine

/-! ## The programming of the fuses -/

section
variable {d : Nat} {old target : Vector Byte 64}

/-- With no bit in the way a completed programming leaves the target. -/
theorem programFuses_whole (free : ∀ i : Fin 64, old[i] &&& ~~~ target[i] = 0) : programFuses d 64 old target = target := by
  refine Vector.ext fun i bound => ?_
  exact ((programFuses_cases d 64 old target ⟨i, bound⟩).1 (fuseRank_lt ⟨i, bound⟩)).trans
    (or_of_no_conflict (free ⟨i, bound⟩))

/-- The first conflict is a place that can fail. -/
theorem fuseConflict_mem (conflict : ∃ i : Fin 64, old[i] &&& ~~~ target[i] ≠ 0) :
    fuseConflict old target ∈ fuseFailing old target := by
  have below : fuseConflict old target < 64 := by
    have bound : fuseConflict old target ≤ 64 := by
      have := List.findIdx_le_length (p := fun rank =>
        (old.toList.getD (fuseAt rank) 0 &&& ~~~ target.toList.getD (fuseAt rank) 0) != 0) (xs := List.range 64)
      simpa [fuseConflict] using this
    refine lt_of_le_of_ne bound fun none => ?_
    obtain ⟨i, bit⟩ := conflict
    exact bit ((fuseConflict_eq_64 old target).mp none i)
  have place := fuseRank_fuseAt (fuseConflict old target) below
  have here := mem_fuseFailing old target ⟨fuseAt (fuseConflict old target), fuseAt_lt _ below⟩
  rw [place] at here
  refine here.mpr ⟨le_refl _, fun same => ?_⟩
  have found := List.findIdx_getElem (p := fun rank =>
    (old.toList.getD (fuseAt rank) 0 &&& ~~~ target.toList.getD (fuseAt rank) 0) != 0) (xs := List.range 64)
    (w := by simpa [fuseConflict] using below)
  rw [List.getElem_range] at found
  change ((old.toList.getD (fuseAt (fuseConflict old target)) 0 &&&
    ~~~ target.toList.getD (fuseAt (fuseConflict old target)) 0) != 0) = true at found
  have at_place := fuseAt_lt (fuseConflict old target) below
  have same : old[fuseAt (fuseConflict old target)] = target[fuseAt (fuseConflict old target)] := same
  rw [List.getD_eq_getElem _ _ (by simpa using at_place), List.getD_eq_getElem _ _ (by simpa using at_place),
    Vector.getElem_toList, Vector.getElem_toList, same, BitVec.and_not_self] at found
  exact absurd found (by decide)

end

/-! ## The commands that program -/

/-- A byte with every bit of the old one in the target grows to no more than the target. -/
theorem within_target {old target new : Byte} (free : old &&& ~~~ target = 0) (within : new &&& ~~~ (old ||| target) = 0) :
    new &&& ~~~ target = 0 := by
  rw [or_of_no_conflict free] at within
  exact within

section
variable {s : State} {tag : Byte} {r : Vector Byte 64} (progress : s.custProgress = some (.commission tag r))
include progress

/-- The programming that leaves the record in the fuses. -/
theorem exec_programmingEnd_whole {ok : Bool} (ends : (fuseFailing s.fuses r).isEmpty = true ∨ ok = true)
    (free : ∀ i : Fin 64, s.fuses[i] &&& ~~~ r[i] = 0) : exec (.commissionProgrammingEnd ok) s =
      .next { s.custCompletes tag codeCommission .ok [] with
        fuses := r
        custody := { s.custody with
          restart := some (s.custody.restart.getD cyclesPerSecond), commissions := s.custody.commissions + 1 } } := by
  have stop := (fuseConflict_eq_64 s.fuses r).mpr free
  have whole : ((fuseFailing s.fuses r).isEmpty || (ok && fuseConflict s.fuses r == 64)) = true := by
    rw [stop]
    rcases ends with empty | ok
    · rw [empty]
      rfl
    · rw [ok]
      exact Bool.or_true _
  change execCommissionProgrammingEnd ok s = _
  unfold execCommissionProgrammingEnd
  rw [progress]
  dsimp only
  rw [if_pos whole, programFuses_whole free]
  rfl

/-- The programming that fails at a place of the order. -/
theorem exec_programmingEnd_fails {ok : Bool} (fails : fuseFailing s.fuses r ≠ [])
    (stops : ok = true → fuseConflict s.fuses r ∈ fuseFailing s.fuses r) : ∃ rank ∈ fuseFailing s.fuses r,
      exec (.commissionProgrammingEnd ok) s = .next { s.custCompletes tag codeCommission .programFailed [] with
        fuses := failFuses s.draws rank s.fuses r, draws := s.draws + 1 } := by
  have short : ¬ ((fuseFailing s.fuses r).isEmpty || (ok && fuseConflict s.fuses r == 64)) = true := by
    rw [Bool.or_eq_true, List.isEmpty_iff, Bool.and_eq_true, beq_iff_eq]
    rintro (empty | ⟨is_ok, none⟩)
    · exact fails empty
    · obtain ⟨i, place⟩ := fuseFailing_place _ _ _ (stops is_ok)
      have bound := fuseRank_lt i
      omega
  have chosen : (if ok = true then fuseConflict s.fuses r else (fuseFailing s.fuses r).getD
      (freeBelow s.draws 64 (fuseFailing s.fuses r).length) (fuseConflict s.fuses r)) ∈ fuseFailing s.fuses r := by
    split
    · next is_ok => exact stops is_ok
    · rw [List.getD_eq_getElem _ _ (freeBelow_lt _ _ _ (List.length_pos_iff.mpr fails))]
      exact List.getElem_mem _
  refine ⟨_, chosen, ?_⟩
  change execCommissionProgrammingEnd ok s = _
  unfold execCommissionProgrammingEnd
  rw [progress]
  dsimp only
  rw [if_neg short]
  rfl

end

/-- A place that fails comes no later than the first conflict, so that one before the marker's keeps the marker. -/
theorem failFuses_marker {d rank : Nat} {old target : Vector Byte 64} (fails : rank ∈ fuseFailing old target)
    (conflict : ∃ i : Fin 64, i ≠ 61 ∧ old[i] &&& ~~~ target[i] ≠ 0) : (failFuses d rank old target)[61] = old[61] := by
  obtain ⟨i, other, bit⟩ := conflict
  obtain ⟨k, rfl⟩ := fuseFailing_place _ _ _ fails
  obtain ⟨below, -⟩ := (mem_fuseFailing old target k).mp fails
  have before := fuseRank_marker i other
  have marker : fuseRank (61 : Fin 64).val = fuseRank 61 := rfl
  have reached : fuseConflict old target ≤ fuseRank i.val := by
    by_contra beyond
    exact bit (fuseConflict_before old target i (by omega))
  exact (failFuses_cases d (fuseRank k.val) old target 61).2.1 (by omega)

/-! ## The restart -/

section
variable {s : State}

theorem retentionChecked_live (live : s.retention.marker = true) : s.retentionChecked = { s.retention with
    resetFlags := s.retention.resetFlags ||| s.retention.pendingMarks, pendingMarks := 0 } := if_pos live

theorem retentionChecked_lost (lost : s.retention.marker = false) : s.retentionChecked = freshRetention :=
  if_neg fun live => Bool.false_ne_true (lost.symm.trans live)

theorem retentionChecked_pending (s : State) : s.retentionChecked.pendingMarks = 0 := by
  rw [← checked_retentionChecked]
  exact checked_pendingMarks s.retention

end

/-- What a start from step 3 makes of the commissioning's own fields. -/
theorem start_custody (s : State) (skip : Bool) (drift : List (Nat × List Byte)) :
    ((s.enter .starting .none).fromStepThree skip drift).custody.present ≠ .uncommissioned ∧
    ((s.enter .starting .none).fromStepThree skip drift).custody.restart = s.custody.restart ∧
    ((s.enter .starting .none).fromStepThree skip drift).custody.commissions = s.custody.commissions := by
  by_cases blank : s.fuses[61] = 0
  · cases skip with
    | false =>
      rw [start_blank_waits blank]
      exact ⟨fun no => Mode.noConfusion no, rfl, rfl⟩
    | true =>
      rw [start_blank_skips blank]
      exact ⟨fun no => Mode.noConfusion no, rfl, rfl⟩
  by_cases is_whole : s.recordMatches
  · cases skip with
    | false =>
      rw [start_verified_waits blank is_whole]
      exact ⟨fun no => Mode.noConfusion no, rfl, rfl⟩
    | true =>
      rw [start_verified_skips blank is_whole]
      obtain ⟨v, -, steps, -, -, custody, -⟩ := stepsFiveToSeven_scan s.verifiedLoad drift rfl
      obtain ⟨offers, buses, frame⟩ := ifOffers_frame v
      rw [steps, frame, custody]
      exact ⟨fun no => Mode.noConfusion no, rfl, rfl⟩
  · rw [start_failed blank is_whole]
    exact ⟨fun no => Mode.noConfusion no, rfl, rfl⟩

section
variable {s : State} {left : Nat} (uncommissioned : s.custody.present = .uncommissioned) (runs : s.custody.restart = some left)
include uncommissioned runs

/-- The completions of COMMISSIONs that passed and still wait. -/
def State.commissionsWaiting (s : State) : Nat :=
  (s.custLink.completions.filter fun c => c.code == codeCommission && c.outcome == .ok).length

omit uncommissioned runs in
theorem commissionRead_iff : s.commissionRead = true ↔ s.commissionsWaiting < s.custody.commissions := by
  unfold State.commissionRead State.commissionsWaiting
  rw [decide_eq_true_iff, List.countP_eq_length_filter]

omit uncommissioned in
theorem exec_commissionRestart_waits (running : left ≠ 0) (unread : s.custody.commissions ≤ s.commissionsWaiting) (ran : Bool)
    (drift : List (Nat × List Byte)) : exec (.commissionRestart ran drift) s = .next s := by
  refine if_neg fun due => ?_
  rw [Bool.and_eq_true, Bool.or_eq_true, commissionRead_iff, runs, beq_iff_eq, Option.some.injEq] at due
  obtain ⟨-, read | over_time⟩ := due
  · omega
  · exact running over_time

theorem exec_commissionRestart (due : left = 0 ∨ s.commissionsWaiting < s.custody.commissions) (ran : Bool)
    (drift : List (Nat × List Byte)) : exec (.commissionRestart ran drift) s =
      .next ((s.endVolatile.enter .starting .none).fromStepThree (s.custody.crystalOk && ran) drift) := by
  refine if_pos ?_
  rw [Bool.and_eq_true, Bool.or_eq_true, commissionRead_iff, runs, uncommissioned, beq_iff_eq, Option.some.injEq]
  exact ⟨rfl, due.symm⟩

end

/-- With no request in progress the fuses stay. -/
theorem VolatileEnded.fuses_idle {s : State} {fuses : Vector Byte 64} {a : KeyArray} {kept : Vector SlotRetention 128}
    {draws : Nat} (ended : VolatileEnded s fuses a kept draws) (idle : s.custProgress = none) : fuses = s.fuses :=
  ended.fuses.same fun tag r progress => by rw [idle] at progress; cases progress

/-- Settles O60: the programming by the places that can fail, the restart by the fuse check. -/
theorem commissioningProgramsAndRestarts : Obligations.CommissioningProgramsAndRestarts := by
  refine ⟨fun s m r passes => ?_, fun s tag r progress free => ⟨fun first => ?_, fun same => ?_, fun differs => ?_⟩,
    fun s tag r ok progress conflict => ?_, fun s tag r left progress running free => ?_,
    fun s left waiting drift uncommissioned runs counted => ⟨fun running unread ran => ?_, fun due => ?_⟩⟩
  · exact congrArg Host.Outcome.next (takeCust_passes _ _ _ _ _ _ m r passes)
  · rw [exec_programmingEnd_whole progress (.inr rfl) free, first]
    rfl
  · have empty : (fuseFailing s.fuses r).isEmpty = true :=
      List.isEmpty_iff.mpr ((fuseFailing_eq_nil _ _ ((fuseConflict_eq_64 s.fuses r).mpr free)).mpr same)
    rw [exec_programmingEnd_whole progress (.inl empty) free, exec_programmingEnd_whole progress (.inl empty) free]
  · have fails : fuseFailing s.fuses r ≠ [] := fun empty =>
      differs ((fuseFailing_eq_nil _ _ ((fuseConflict_eq_64 s.fuses r).mpr free)).mp empty)
    obtain ⟨rank, listed, ends⟩ := exec_programmingEnd_fails (ok := false) progress fails fun no => by cases no
    obtain ⟨bits, short, marker⟩ := failFuses_spec s.draws rank s.fuses r listed
    exact ⟨_, ends, rfl, fun i => ⟨(bits i).1, within_target (free i) (bits i).2⟩, short, marker⟩
  · have stop := fuseConflict_mem conflict
    obtain ⟨rank, listed, ends⟩ := exec_programmingEnd_fails (ok := ok) progress (List.ne_nil_of_mem stop) fun _ => stop
    obtain ⟨bits, -, -⟩ := failFuses_spec s.draws rank s.fuses r listed
    exact ⟨_, ends, rfl, bits, failFuses_marker listed⟩
  · rw [exec_programmingEnd_whole progress (.inr rfl) free, running]
    rw [Option.getD_some, ← running]
  · obtain rfl : waiting = s.commissionsWaiting := counted
    exact exec_commissionRestart_waits runs running unread ran drift
  · obtain rfl : waiting = s.commissionsWaiting := counted
    have restarts := exec_commissionRestart uncommissioned runs due
    obtain ⟨fuses, a, kept, draws, ended⟩ := endVolatile_spec s
    have is_ended := ended.ended
    refine ⟨fun ran => ⟨_, restarts ran drift, ?_⟩, fun idle blank => ⟨⟨_, restarts false drift, ?_⟩, fun crystal =>
      ⟨_, restarts true drift, ?_⟩⟩, fun idle marked differs ran => ⟨_, restarts ran drift, ?_⟩, fun idle marked is_whole =>
      ⟨⟨_, restarts false drift, ?_⟩, fun crystal free no_exec awake => ⟨_, restarts true drift, ?_⟩⟩⟩
    · obtain ⟨mode, restart, commissions⟩ := start_custody s.endVolatile (s.custody.crystalOk && ran) drift
      refine ⟨mode, restart.trans ?_, commissions.trans ?_⟩
      · rw [is_ended]
        rfl
      · rw [is_ended]
        rfl
    · have same := ended.fuses_idle idle
      rw [is_ended, Bool.and_false, start_blank_waits (by rw [← same] at blank; exact blank)]
      exact ⟨rfl, rfl, rfl, rfl, same⟩
    · have same := ended.fuses_idle idle
      rw [is_ended, crystal, Bool.and_self, start_blank_skips (by rw [← same] at blank; exact blank)]
      refine ⟨rfl, rfl, rfl, retentionChecked_pending _, fun live => ?_, fun lost => retentionChecked_lost lost, same⟩
      exact congrArg Retention.resetFlags (retentionChecked_live (s := s.volatileEnded fuses a kept draws) live)
    · have same := ended.fuses_idle idle
      rw [is_ended, start_failed (by rw [← same] at marked; exact marked) (by rw [← same] at differs; exact differs)]
      exact ⟨rfl, rfl, rfl, same⟩
    · have same := ended.fuses_idle idle
      rw [is_ended, Bool.and_false, start_verified_waits (by rw [← same] at marked; exact marked)
        (by rw [← same] at is_whole; exact is_whole)]
      exact ⟨rfl, rfl, rfl, rfl, rfl, same, rfl, rfl⟩
    · have same := ended.fuses_idle idle
      have array := ended.array.reads awake (.inl no_exec)
      have slots := ended.unbound free
      rw [is_ended, crystal, Bool.and_self]
      obtain ⟨scanned, restart, -⟩ := start_verified_scanned (s := s.volatileEnded fuses a kept draws) (drift := drift)
        (by rw [← same] at marked; exact marked) (by rw [← same] at is_whole; exact is_whole)
      exact ⟨restart, scanned.of_same (baseline := s.retention.baseline) array same (by rw [State.volatileEnded, slots])⟩

end Sys2Proof.Machine
end

section
/-! PROOF. What the loss of an engine does position after position (R61, R69, R71, R73, R78). -/

namespace Sys2Proof.Machine

/-! ## What a line port shows of the fall -/

/-- What the loss of an engine changes at a line port: its waiting read, its completions, and its request in progress. -/
structure LineReport where
  wait : Option SlotNo
  completions : List Completion
  progress : Option LineProgress

/-- A line port with a completion written and its request over. -/
def LineReport.finish (r : LineReport) (tag code : Byte) (oc : OutcomeCode) (data : List Byte) : LineReport :=
  { r with
    completions := r.completions ++ [{ tag := tag, code := code, outcome := oc, data := data }]
    progress := none }

/-- A RELEASE ALL takes its entries: it completes, or stays in progress (R73). -/
def LineReport.releases (r : LineReport) (tag : Byte) (entries : Vector ReleaseEntry 4) : LineReport :=
  if entries.toList.all ReleaseEntry.isSettled then
    r.finish tag codeReleaseAll .ok (entries.toList.flatMap ReleaseEntry.bytes)
  else { r with progress := some (.releaseAll tag entries) }

/-- A BIND whose position is LOADING loses the engine (R69). -/
def LineReport.bindLoses (r : LineReport) : LineReport :=
  match r.progress with
  | some (.bindReading tag _ _ _) =>
    if r.wait.isSome then ({ r with wait := none } : LineReport).finish tag codeBind .engineAbsent []
    else { r with progress := some (.bindLost tag) }
  | some (.bindLoading tag _ _ _) => r.finish tag codeBind .engineAbsent []
  | _ => r

/-- The used count of the release that waits on a position. -/
def LineReport.used (r : LineReport) (p : Pos) : Option Nat :=
  match r.progress with
  | some (.release _ q used) => if q = p then some used else none
  | some (.releaseAll _ entries) =>
    match entries[p] with
    | .wait used => some used
    | .settled .. => none
  | _ => none

/-- The release that waits on a position has its outcome (R72, R73). -/
def LineReport.released (r : LineReport) (p : Pos) (b : Binding) (used : Nat) (oc : OutcomeCode) : LineReport :=
  match r.progress with
  | some (.release tag _ _) => r.finish tag codeRelease oc (settlementData p b used)
  | some (.releaseAll tag entries) => r.releases tag (put entries p (settledEntry b used oc))
  | _ => r

/-- What the loss of an engine at a position does to the request in progress. -/
def LineReport.fall (r : LineReport) (x : Position) (p : Pos) : LineReport :=
  match x with
  | .loading _ _ => r.bindLoses
  | .clearing b _ => (r.used p).elim r fun used => r.released p b used .engineLost
  | _ => r

/-- A position after the loss of its engine, given the used count of the release that waits on it (R78). -/
def Position.fallen (x : Position) (used : Option Nat) : Position :=
  match x with
  | .free => .free
  | .loading _ _ => .free
  | .bound b => .ended b .engineLost false
  | .clearing b _ => if used.isSome then .free else .ended b .engineLost false
  | .ended b reason _ => .ended b reason false
  | .blocked => .free

/-- The retained slots with cards returned to a slot. -/
def State.returned (s : State) (slots : Vector SlotRetention 128) (n : SlotNo) (cards : Nat) : Vector SlotRetention 128 :=
  put slots n { slots[n] with
    remaining := if (hAllowance s.directory.slots[n].header).isSome then slots[n].remaining + cards else slots[n].remaining }

/-- The retained slots with a binding settled. -/
def State.settledSlots (s : State) (slots : Vector SlotRetention 128) (b : Binding) (used : Nat) : Vector SlotRetention 128 :=
  put slots b.slot { slots[b.slot] with
    issued := min 16777215 (slots[b.slot].issued + min used b.reservation)
    remaining := if (hAllowance s.directory.slots[b.slot].header).isSome
      then slots[b.slot].remaining + (b.reservation - min used b.reservation) else slots[b.slot].remaining }

/-- The retained slots after the loss of an engine at a position. -/
def State.fallSlots (s : State) (slots : Vector SlotRetention 128) (x : Position) (used : Option Nat) :
    Vector SlotRetention 128 :=
  match x with
  | .loading b _ => s.returned slots b.slot b.reservation
  | .clearing b _ => used.elim slots fun used => s.settledSlots slots b used
  | _ => slots

/-! ## The state while the positions fall -/

/-- The state with its transmitter fallen, the positions of the engine and the retained slots replaced, and the line port as
reported. -/
def State.fallen (s : State) (e : Line) (ps : Vector Position 4) (slots : Vector SlotRetention 128) (r : LineReport) : State :=
  { s with
    buses := put s.buses e s.buses[e].fall
    positions := put s.positions e ps
    retention := { s.retention with slots := slots }
    control := { s.control with lineWait := put s.control.lineWait e r.wait }
    lineLinks := put s.lineLinks e { s.lineLinks[e] with completions := r.completions }
    lineProgress := put s.lineProgress e r.progress }

section
variable (s : State) (e : Line) (ps : Vector Position 4) (slots : Vector SlotRetention 128) (r : LineReport)

theorem fallen_pos (p : Pos) : (s.fallen e ps slots r).pos e p = ps[p] := by
  unfold State.fallen State.pos
  dsimp only
  rw [put_get_same]

theorem fallen_progress : (s.fallen e ps slots r).lineProgress[e] = r.progress := put_get_same _ _ _

theorem fallen_wait : (s.fallen e ps slots r).control.lineWait[e] = r.wait := put_get_same _ _ _

theorem fallen_setPos (p : Pos) (x : Position) :
    (s.fallen e ps slots r).setPos e p x = s.fallen e (put ps p x) slots r := by
  unfold State.setPos State.fallen
  dsimp only
  rw [put_get_same, put_put]

theorem fallen_giveBack (n : SlotNo) (cards : Nat) :
    (s.fallen e ps slots r).giveBack n cards = s.fallen e ps (s.returned slots n cards) r := by
  rw [giveBack_exact]
  rfl

theorem fallen_settle (b : Binding) (used : Nat) :
    (s.fallen e ps slots r).settle b used = s.fallen e ps (s.settledSlots slots b used) r := by
  rw [settle_exact]
  rfl

theorem fallen_finishLine (tag code : Byte) (oc : OutcomeCode) (data : List Byte) :
    (s.fallen e ps slots r).finishLine e tag code oc data = s.fallen e ps slots (r.finish tag code oc data) := by
  rw [finishLine_completes]
  unfold State.lineCompletes State.fallen LineReport.finish
  dsimp only
  rw [put_get_same, put_put, put_put]

theorem fallen_setProgress (x : Option LineProgress) :
    (s.fallen e ps slots r).setProgress e x = s.fallen e ps slots { r with progress := x } := by
  unfold State.setProgress State.fallen
  dsimp only
  rw [put_put]

theorem fallen_unwait : ((s.fallen e ps slots r).withControl fun c => { c with lineWait := put c.lineWait e none }) =
    s.fallen e ps slots { r with wait := none } := by
  unfold State.withControl State.fallen
  dsimp only
  rw [put_put]

theorem fallen_releaseAllCheck (tag : Byte) (entries : Vector ReleaseEntry 4) :
    (s.fallen e ps slots r).releaseAllCheck e tag entries = s.fallen e ps slots (r.releases tag entries) := by
  unfold State.releaseAllCheck LineReport.releases
  split
  · exact fallen_finishLine s e ps slots r _ _ _ _
  · exact fallen_setProgress s e ps slots r _

theorem fallen_bindLosesEngine : (s.fallen e ps slots r).bindLosesEngine e = s.fallen e ps slots r.bindLoses := by
  unfold State.bindLosesEngine LineReport.bindLoses
  rw [fallen_progress, fallen_wait]
  cases r.progress with
  | none => rfl
  | some x =>
    cases x with
    | bindReading tag q asked grant =>
      dsimp only
      split
      · rw [fallen_unwait, fallen_finishLine]
        rfl
      · exact fallen_setProgress s e ps slots r _
    | bindLoading tag q asked grant => exact fallen_finishLine s e ps slots r _ _ _ _
    | _ => rfl

theorem fallen_waitingUsed (p : Pos) : (s.fallen e ps slots r).waitingUsed e p = r.used p := by
  unfold State.waitingUsed LineReport.used
  rw [fallen_progress] <;> rfl

theorem fallen_finishRelease (p : Pos) (b : Binding) (used : Nat) (oc : OutcomeCode) :
    (s.fallen e ps slots r).finishRelease e p b used oc = s.fallen e ps slots (r.released p b used oc) := by
  unfold State.finishRelease LineReport.released
  rw [fallen_progress]
  cases r.progress with
  | none => rfl
  | some x =>
    cases x with
    | release tag q count => exact fallen_finishLine s e ps slots r _ _ _ _
    | releaseAll tag entries => exact fallen_releaseAllCheck s e ps slots r _ _
    | _ => rfl

/-- The loss of an engine at one position. -/
theorem fallAt_fallen (p : Pos) : State.fallAt e (s.fallen e ps slots r) p =
    s.fallen e (put ps p (ps[p].fallen (r.used p))) (s.fallSlots slots ps[p] (r.used p)) (r.fall ps[p] p) := by
  unfold State.fallAt
  rw [fallen_pos]
  cases held : ps[p] with
  | free =>
    have same : put ps p Position.free = ps := put_of_eq ps p _ held
    exact congrArg (fun q => s.fallen e q slots r) same.symm
  | bound b => exact fallen_setPos s e ps slots r p _
  | ended b reason unclean => exact fallen_setPos s e ps slots r p _
  | blocked => exact fallen_setPos s e ps slots r p _
  | loading b rp =>
    dsimp only
    rw [fallen_setPos, fallen_giveBack, fallen_bindLosesEngine]
    rfl
  | clearing b kind =>
    dsimp only [State.endPosition, LineReport.fall, State.fallSlots]
    rw [fallen_waitingUsed]
    cases r.used p with
    | none => exact fallen_setPos s e ps slots r p _
    | some used =>
      dsimp only [State.settleRelease]
      rw [fallen_settle, fallen_setPos, fallen_finishRelease]
      rfl

end

end Sys2Proof.Machine
end

section
/-! PROOF. ENGINE_READY_FALL as a whole (R61, R69, R71, R73, R74, R78, R93, R94, R96, R111). -/

namespace Sys2Proof.Machine

/-! ## The releases that wait on the other positions -/

theorem used_finish (r : LineReport) (tag code : Byte) (oc : OutcomeCode) (data : List Byte) (q : Pos) :
    (r.finish tag code oc data).used q = none := rfl

theorem used_release {r : LineReport} {tag : Byte} {p q : Pos} {used : Nat}
    (progress : r.progress = some (.release tag p used)) : r.used q = if p = q then some used else none := by
  unfold LineReport.used
  rw [progress]

/-- The used count an entry of a RELEASE ALL waits with. -/
def ReleaseEntry.used : ReleaseEntry → Option Nat
  | .wait used => some used
  | .settled .. => none

theorem used_releaseAll {r : LineReport} {tag : Byte} {entries : Vector ReleaseEntry 4} (q : Pos)
    (progress : r.progress = some (.releaseAll tag entries)) : r.used q = entries[q].used := by
  unfold LineReport.used
  rw [progress]
  rfl

theorem used_of_isSettled {entry : ReleaseEntry} (settled : entry.isSettled = true) : entry.used = none := by
  cases entry with
  | wait used => cases settled
  | settled code count short => rfl

theorem used_releases (r : LineReport) (tag : Byte) (entries : Vector ReleaseEntry 4) (q : Pos) :
    (r.releases tag entries).used q = entries[q].used := by
  unfold LineReport.releases
  split
  · next all => rw [used_of_isSettled ((all_toList_iff entries _).mp all q)]; rfl
  · rfl

theorem used_bindLoses (r : LineReport) (q : Pos) : r.bindLoses.used q = r.used q := by
  cases progress : r.progress with
  | none => simp only [LineReport.bindLoses, progress]
  | some x =>
    cases x with
    | bindReading tag p asked grant =>
      have unused : r.used q = none := by simp only [LineReport.used, progress]
      rw [unused]
      simp only [LineReport.bindLoses, progress]
      split <;> rfl
    | bindLoading tag p asked grant =>
      have unused : r.used q = none := by simp only [LineReport.used, progress]
      rw [unused]
      simp only [LineReport.bindLoses, progress]
      rfl
    | _ => simp only [LineReport.bindLoses, progress]

theorem used_released {r : LineReport} {p q : Pos} (b : Binding) {used : Nat} (oc : OutcomeCode) (waits : r.used p = some used)
    (other : p ≠ q) : (r.released p b used oc).used q = r.used q := by
  cases progress : r.progress with
  | none => simp only [LineReport.released, progress]
  | some x =>
    cases x with
    | release tag p' count =>
      rw [used_release progress] at waits ⊢
      have same : p' = p := by
        by_contra differs
        rw [if_neg differs] at waits
        cases waits
      subst same
      rw [if_neg other]
      simp only [LineReport.released, progress]
      rfl
    | releaseAll tag entries =>
      rw [used_releaseAll q progress]
      simp only [LineReport.released, progress]
      rw [used_releases, put_get_other _ _ _ _ other]
    | _ => simp only [LineReport.released, progress]

/-- The loss of an engine at a position leaves the releases that wait on the others. -/
theorem used_fall (r : LineReport) (x : Position) {p q : Pos} (other : p ≠ q) : (r.fall x p).used q = r.used q := by
  cases x with
  | loading b rp => exact used_bindLoses r q
  | clearing b kind =>
    unfold LineReport.fall
    cases waits : r.used p with
    | none => rfl
    | some used => simp only [Option.elim_some, used_released b .engineLost waits other]
  | _ => rfl

/-! ## The positions in turn -/

/-- The line port before the fall. -/
def State.lineReport (s : State) (e : Line) : LineReport :=
  { wait := s.control.lineWait[e], completions := s.lineLinks[e].completions, progress := s.lineProgress[e] }

theorem lineReport_used (s : State) (e : Line) (p : Pos) : (s.lineReport e).used p = s.waitingUsed e p := rfl

/-- The positions of an engine once those of a list have fallen. -/
def State.fallenPositions (s : State) (e : Line) (past : List Pos) : Vector Position 4 :=
  Vector.ofFn fun q => if q ∈ past then (s.pos e q).fallen (s.waitingUsed e q) else s.pos e q

theorem fallenPositions_get (s : State) (e : Line) (past : List Pos) (p : Pos) : (s.fallenPositions e past)[p] =
    if p ∈ past then (s.pos e p).fallen (s.waitingUsed e p) else s.pos e p := by
  unfold State.fallenPositions
  rw [Fin.getElem_fin, Vector.getElem_ofFn]

theorem fallenPositions_put (s : State) (e : Line) (past : List Pos) (p : Pos) :
    put (s.fallenPositions e past) p ((s.pos e p).fallen (s.waitingUsed e p)) = s.fallenPositions e (past ++ [p]) :=
  ofFn_put (fun q => (s.pos e q).fallen (s.waitingUsed e q)) (s.pos e)

/-- The retained slots after a position of s has fallen. -/
def State.slotsFall (s : State) (e : Line) (slots : Vector SlotRetention 128) (p : Pos) : Vector SlotRetention 128 :=
  s.fallSlots slots (s.pos e p) (s.waitingUsed e p)

/-- The line port after a position of s has fallen. -/
def State.reportFall (s : State) (e : Line) (r : LineReport) (p : Pos) : LineReport := r.fall (s.pos e p) p

theorem fallAt_fold (s : State) (e : Line) (ps : List Pos) : ∀ (past : List Pos) (slots : Vector SlotRetention 128)
    (r : LineReport), (past ++ ps).Nodup → (∀ q : Pos, q ∉ past → r.used q = s.waitingUsed e q) →
    ps.foldl (State.fallAt e) (s.fallen e (s.fallenPositions e past) slots r) =
      s.fallen e (s.fallenPositions e (past ++ ps)) (ps.foldl (s.slotsFall e) slots) (ps.foldl (s.reportFall e) r) := by
  induction ps with
  | nil => intro past slots r _ _; rw [List.append_nil]; rfl
  | cons p ps ih =>
    intro past slots r nodup waits
    have fresh : p ∉ past := fun mem => List.disjoint_of_nodup_append nodup mem List.mem_cons_self
    have place : (s.fallenPositions e past)[p] = s.pos e p := by rw [fallenPositions_get, if_neg fresh]
    rw [List.foldl_cons, fallAt_fallen, place, waits p fresh, fallenPositions_put,
      ih (past ++ [p]) _ _ (by simpa using nodup) fun q unseen => ?_]
    · rw [List.append_assoc]
      rfl
    · rw [List.mem_append, List.mem_singleton, not_or] at unseen
      rw [used_fall _ _ (Ne.symm unseen.2), waits q unseen.1]

theorem fallen_start (s : State) (e : Line) :
    s.withBus e Transmitter.fall = s.fallen e (s.fallenPositions e []) s.retention.slots (s.lineReport e) := by
  have positions : put s.positions e (s.fallenPositions e []) = s.positions := by
    refine put_of_eq _ _ _ (Vector.ext fun i bound => ?_)
    exact ((fallenPositions_get s e [] ⟨i, bound⟩).trans (if_neg List.not_mem_nil)).symm
  have waits : put s.control.lineWait e (s.lineReport e).wait = s.control.lineWait := put_get_self _ _
  have links : put s.lineLinks e { s.lineLinks[e] with completions := (s.lineReport e).completions } = s.lineLinks :=
    put_get_self _ _
  have progress : put s.lineProgress e (s.lineReport e).progress = s.lineProgress := put_get_self _ _
  unfold State.fallen
  rw [positions, waits, links, progress]
  rfl

/-- The line port once a CLEAR BLOCKED in progress has completed (R74). -/
def LineReport.clearsBlocked (r : LineReport) (wasBlocked : Vector Bool 4) : LineReport :=
  match r.progress with
  | some (.clearBlocked tag _ freed) =>
    r.finish tag codeClearBlocked .ok [bitsByte (four.map fun p => freed[p] || wasBlocked[p])]
  | _ => r

theorem fallen_fallClearBlocked (s : State) (e : Line) (ps : Vector Position 4) (slots : Vector SlotRetention 128)
    (r : LineReport) (wasBlocked : Vector Bool 4) : (s.fallen e ps slots r).fallClearBlocked e wasBlocked =
      s.fallen e ps slots (r.clearsBlocked wasBlocked) := by
  unfold State.fallClearBlocked LineReport.clearsBlocked
  rw [fallen_progress]
  cases r.progress with
  | none => rfl
  | some x =>
    cases x with
    | clearBlocked tag waiting freed => exact fallen_finishLine s e ps slots r _ _ _ _
    | _ => rfl

/-- The line port after the fall. -/
def State.fallReport (s : State) (e : Line) : LineReport :=
  (four.foldl (s.reportFall e) (s.lineReport e)).clearsBlocked (mapTable (fun x => x == Position.blocked) s.positions[e])

/-- The state after the fall of an engine. -/
def State.engineFallen (s : State) (e : Line) : State :=
  { s.fallen e (s.fallenPositions e four) (four.foldl (s.slotsFall e) s.retention.slots) (s.fallReport e) with
    custody := { s.custody with offers :=
      if s.custody.offers[e] = .inFlight then put s.custody.offers e .done else s.custody.offers }
    control := ({ s.control with lineWait := put s.control.lineWait e (s.fallReport e).wait } : ArrayControl).afterReads }

section
variable {s : State} {e : Line} {samples : Samples}

theorem exec_engineReadyFall (sampling : s.sampling = true) (ready : s.buses[e].ready = true)
    (low : ∀ i : Fin 4, samples[i] = false) : exec (.engineReadyFall e samples) s = .next (s.engineFallen e) := by
  have falls : (s.sampling && s.buses[e].ready && allAt samples false) = true := by
    rw [sampling, ready, (allAt_iff samples false).mpr low]
    rfl
  have folded := fallAt_fold s e four [] s.retention.slots (s.lineReport e) (by decide) fun q _ => lineReport_used s e q
  rw [← fallen_start, List.nil_append] at folded
  refine (if_pos falls).trans ?_
  rw [folded, fallen_fallClearBlocked]
  have check : ArrayControl.resumeCheck = ArrayControl.afterReads := funext resumeCheck_eq
  rw [check]
  rfl

theorem exec_engineReadyFall_other (high : ∃ i : Fin 4, samples[i] = true) :
    exec (.engineReadyFall e samples) s = .next s := by
  refine if_neg fun falls => ?_
  rw [not_allAt (high := false) high, Bool.and_false] at falls
  cases falls

theorem exec_engineReadyRise (sampling : s.sampling = true) (unready : s.buses[e].ready = false)
    (high : ∀ i : Fin 4, samples[i] = true) : exec (.engineReadyRise e samples) s = .next { s with
      buses := put s.buses e { s.buses[e] with ready := true } } := by
  refine if_pos ?_
  rw [sampling, unready, (allAt_iff samples true).mpr high]
  rfl

theorem exec_engineReadyRise_other (low : ∃ i : Fin 4, samples[i] = false) :
    exec (.engineReadyRise e samples) s = .next s := by
  refine if_neg fun rises => ?_
  rw [not_allAt (high := true) low, Bool.and_false] at rises
  cases rises

end

end Sys2Proof.Machine
end

section
/-! PROOF. The request in progress and the retained slots after the loss of an engine (R60, R61, R69, R71, R73, R74). -/

namespace Sys2Proof.Machine

/-! ## Folds in which one place acts -/

/-- A fold in which the first place that acts ends the matter. -/
theorem foldl_first {α β : Type} (step : β → α → β) {r r' : β} (acts : α → Prop) (ps : List α)
    (idle : ∀ p, ¬ acts p → step r p = r) (act : ∀ p, acts p → step r p = r') (stable : ∀ p, step r' p = r')
    (some_acts : ∃ p ∈ ps, acts p) : ps.foldl step r = r' := by
  have ended : ∀ ps : List α, ps.foldl step r' = r' := fun ps => by
    induction ps with
    | nil => rfl
    | cons p ps ih => rw [List.foldl_cons, stable, ih]
  induction ps with
  | nil =>
    obtain ⟨p, mem, -⟩ := some_acts
    cases mem
  | cons p ps ih =>
    rw [List.foldl_cons]
    by_cases here : acts p
    · rw [act p here, ended]
    · rw [idle p here]
      obtain ⟨q, mem, later⟩ := some_acts
      refine ih ⟨q, (List.mem_cons.mp mem).resolve_left fun same => here (same ▸ later), later⟩

/-- A fold in which no place acts. -/
theorem foldl_idle {α β : Type} (step : β → α → β) {r : β} (ps : List α) (idle : ∀ p, step r p = r) : ps.foldl step r = r := by
  induction ps with
  | nil => rfl
  | cons p ps ih => rw [List.foldl_cons, idle, ih]

/-! ## Requests that a fall at a position leaves -/

section
variable {r : LineReport}

theorem bindLoses_other (reading : ∀ tag p asked grant, r.progress ≠ some (.bindReading tag p asked grant))
    (loading : ∀ tag p asked grant, r.progress ≠ some (.bindLoading tag p asked grant)) : r.bindLoses = r := by
  cases progress : r.progress with
  | none => simp only [LineReport.bindLoses, progress]
  | some x =>
    cases x with
    | bindReading tag p asked grant => exact absurd progress (reading _ _ _ _)
    | bindLoading tag p asked grant => exact absurd progress (loading _ _ _ _)
    | _ => simp only [LineReport.bindLoses, progress]

theorem fall_unused {x : Position} {p : Pos} (unused : r.used p = none) (other : ∀ b rp, x ≠ .loading b rp) : r.fall x p = r := by
  cases x with
  | loading b rp => exact absurd rfl (other b rp)
  | clearing b kind =>
    unfold LineReport.fall
    rw [unused]
    rfl
  | _ => rfl

/-- A report that no BIND's and no release's. -/
theorem fall_idle {x : Position} {p : Pos} (unused : r.used p = none) (stays : r.bindLoses = r) : r.fall x p = r := by
  cases x with
  | loading b rp => exact stays
  | clearing b kind => exact fall_unused unused fun _ _ => Position.noConfusion
  | _ => rfl

theorem fall_none {x : Position} {p : Pos} (none : r.progress = .none) : r.fall x p = r :=
  fall_idle (by simp only [LineReport.used, none]) (by simp only [LineReport.bindLoses, none])

theorem clearsBlocked_other (was : Vector Bool 4)
    (other : ∀ tag waiting freed, r.progress ≠ some (.clearBlocked tag waiting freed)) : r.clearsBlocked was = r := by
  cases progress : r.progress with
  | none => simp only [LineReport.clearsBlocked, progress]
  | some x =>
    cases x with
    | clearBlocked tag waiting freed => exact absurd progress (other _ _ _)
    | _ => simp only [LineReport.clearsBlocked, progress]

theorem clearsBlocked_none (was : Vector Bool 4) (none : r.progress = .none) : r.clearsBlocked was = r :=
  clearsBlocked_other was fun tag waiting freed some => by rw [none] at some; cases some

end

/-! ## The line port after the fall, by its request in progress -/

section
variable {s : State} {e : Line}

theorem fallReport_none (idle : s.lineProgress[e] = none) : s.fallReport e = s.lineReport e := by
  have none : (s.lineReport e).progress = .none := idle
  unfold State.fallReport
  rw [foldl_idle (s.reportFall e) four fun p => fall_none none, clearsBlocked_none _ none]

section
variable {tag : Byte} {p : Pos} {asked grant : Nat} {b : Binding} {rp : Bool} (place : s.pos e p = .loading b rp)
include place

/-- A BIND of the engine that is lost at the first LOADING position. -/
theorem fallReport_bind {r' : LineReport} (unused : ∀ q, (s.lineReport e).used q = none)
    (loses : (s.lineReport e).bindLoses = r') (stable : ∀ x q, r'.fall x q = r')
    (other : ∀ tag waiting freed, r'.progress ≠ some (.clearBlocked tag waiting freed)) : s.fallReport e = r' := by
  unfold State.fallReport
  rw [foldl_first (s.reportFall e) (fun q => ∃ b rp, s.pos e q = .loading b rp) four (r' := r') (fun q none => ?_)
    (fun q ⟨b, rp, loading⟩ => ?_) (fun q => stable _ q) ⟨p, mem_four p, b, rp, place⟩, clearsBlocked_other _ other]
  · exact fall_unused (unused q) fun b rp loading => none ⟨b, rp, loading⟩
  · unfold State.reportFall
    rw [loading]
    exact loses

theorem fallReport_bindLoading (progress : s.lineProgress[e] = some (.bindLoading tag p asked grant)) :
    s.fallReport e = (s.lineReport e).finish tag codeBind .engineAbsent [] := by
  have progress : (s.lineReport e).progress = some (.bindLoading tag p asked grant) := progress
  refine fallReport_bind place (fun q => ?_) ?_ (fun x q => fall_none rfl) fun _ _ _ clearing => by cases clearing
  · simp only [LineReport.used, progress]
  · simp only [LineReport.bindLoses, progress]

variable (progress : s.lineProgress[e] = some (.bindReading tag p asked grant))
include progress

theorem fallReport_withdrawn (waits : s.control.lineWait[e].isSome = true) : s.fallReport e =
    ({ s.lineReport e with wait := none } : LineReport).finish tag codeBind .engineAbsent [] := by
  have progress : (s.lineReport e).progress = some (.bindReading tag p asked grant) := progress
  have waits : (s.lineReport e).wait.isSome = true := waits
  refine fallReport_bind place (fun q => ?_) ?_ (fun x q => fall_none rfl) fun _ _ _ clearing => by cases clearing
  · simp only [LineReport.used, progress]
  · simp only [LineReport.bindLoses, progress, waits, if_true]

theorem fallReport_lost (executes : s.control.lineWait[e] = none) : s.fallReport e =
    { s.lineReport e with progress := some (.bindLost tag) } := by
  have progress : (s.lineReport e).progress = some (.bindReading tag p asked grant) := progress
  have executes : (s.lineReport e).wait = none := executes
  refine fallReport_bind place (fun q => ?_) ?_ (fun x q => fall_idle rfl rfl) fun _ _ _ other => by cases other
  · simp only [LineReport.used, progress]
  · simp only [LineReport.bindLoses, progress, executes, Option.isSome_none, Bool.false_eq_true, if_false]

end

theorem fallReport_release {tag : Byte} {p : Pos} {used : Nat} {b : Binding} {kind : ClearKind}
    (progress : s.lineProgress[e] = some (.release tag p used)) (place : s.pos e p = .clearing b kind) :
    s.fallReport e = (s.lineReport e).finish tag codeRelease .engineLost (settlementData p b used) := by
  have progress : (s.lineReport e).progress = some (.release tag p used) := progress
  have stays : (s.lineReport e).bindLoses = s.lineReport e := by simp only [LineReport.bindLoses, progress]
  unfold State.fallReport
  rw [foldl_first (s.reportFall e) (· = p) four
    (r' := (s.lineReport e).finish tag codeRelease .engineLost (settlementData p b used)) (fun q other => ?_)
    (fun q here => ?_) (fun q => fall_none rfl) ⟨p, mem_four p, rfl⟩, clearsBlocked_none _ rfl]
  · exact fall_idle (by rw [used_release progress, if_neg fun same => other same.symm]) stays
  · subst here
    unfold State.reportFall LineReport.fall
    rw [place, used_release progress, if_pos rfl]
    simp only [Option.elim_some, LineReport.released, progress]

theorem fallReport_clearBlocked {tag : Byte} {waiting freed : Vector Bool 4}
    (progress : s.lineProgress[e] = some (.clearBlocked tag waiting freed)) : s.fallReport e =
      (s.lineReport e).finish tag codeClearBlocked .ok
        [bitsByte (four.map fun p => freed[p] || s.pos e p == .blocked)] := by
  have progress : (s.lineReport e).progress = some (.clearBlocked tag waiting freed) := progress
  unfold State.fallReport
  rw [foldl_idle (s.reportFall e) four fun p => fall_idle (by simp only [LineReport.used, progress])
    (by simp only [LineReport.bindLoses, progress]), blocked_table]
  simp only [LineReport.clearsBlocked, progress, Fin.getElem_fin, Vector.getElem_ofFn]

/-! ## A RELEASE ALL (R73) -/

/-- The entry of a RELEASE ALL after the loss of its engine at the entry's position. -/
def ReleaseEntry.fallen (x : ReleaseEntry) (place : Position) : ReleaseEntry :=
  match x, place with
  | .wait used, .clearing b _ => settledEntry b used .engineLost
  | x, _ => x

/-- The entries of a RELEASE ALL once the positions of a list have fallen. -/
def State.fallenEntries (s : State) (e : Line) (entries : Vector ReleaseEntry 4) (past : List Pos) : Vector ReleaseEntry 4 :=
  Vector.ofFn fun q => if q ∈ past then entries[q].fallen (s.pos e q) else entries[q]

theorem fallenEntries_get (entries : Vector ReleaseEntry 4) (past : List Pos) (p : Pos) :
    (s.fallenEntries e entries past)[p] = if p ∈ past then entries[p].fallen (s.pos e p) else entries[p] := by
  unfold State.fallenEntries
  rw [Fin.getElem_fin, Vector.getElem_ofFn]

theorem releases_bindLoses (r : LineReport) (tag : Byte) (entries : Vector ReleaseEntry 4) :
    (r.releases tag entries).bindLoses = r.releases tag entries := by
  unfold LineReport.releases
  split <;> rfl

theorem released_releases {r : LineReport} {tag : Byte} {entries : Vector ReleaseEntry 4} {p : Pos} {b : Binding} {used : Nat}
    {oc : OutcomeCode} (waits : entries[p] = .wait used) :
    (r.releases tag entries).released p b used oc = r.releases tag (put entries p (settledEntry b used oc)) := by
  have unsettled : ¬ entries.toList.all ReleaseEntry.isSettled = true := fun all => by
    have settled := (all_toList_iff entries _).mp all p
    rw [waits] at settled
    cases settled
  have inProgress : r.releases tag entries = { r with progress := some (.releaseAll tag entries) } := if_neg unsettled
  rw [inProgress]
  rfl

section
variable {tag : Byte} {entries : Vector ReleaseEntry 4} (waits : ∀ (p : Pos) used, entries[p] = .wait used →
  ∃ b k, s.pos e p = .clearing b k)
include waits

theorem reportFall_releases (r : LineReport) {past : List Pos} {p : Pos} (fresh : p ∉ past) :
    s.reportFall e (r.releases tag (s.fallenEntries e entries past)) p =
      r.releases tag (s.fallenEntries e entries (past ++ [p])) := by
  have here : (s.fallenEntries e entries past)[p] = entries[p] := by rw [fallenEntries_get, if_neg fresh]
  have next := ofFn_put (past := past) (p := p) (fun q => entries[q].fallen (s.pos e q)) fun q => entries[q]
  have next : s.fallenEntries e entries (past ++ [p]) =
      put (s.fallenEntries e entries past) p (entries[p].fallen (s.pos e p)) := next.symm
  rw [next]
  cases entry : entries[p] with
  | settled code count short =>
    have stays : (ReleaseEntry.settled code count short).fallen (s.pos e p) = .settled code count short := rfl
    rw [stays, put_of_eq _ _ _ (here.trans entry)]
    exact fall_idle (by rw [used_releases, here, entry]; rfl) (releases_bindLoses r tag _)
  | wait used =>
    obtain ⟨b, k, clearing⟩ := waits p used entry
    have used_here : (r.releases tag (s.fallenEntries e entries past)).used p = some used := by
      rw [used_releases, here, entry]
      rfl
    unfold State.reportFall LineReport.fall
    rw [clearing, used_here]
    exact released_releases (here.trans entry)

theorem reportFall_fold (r : LineReport) (ps : List Pos) : ∀ past : List Pos, (past ++ ps).Nodup →
    ps.foldl (s.reportFall e) (r.releases tag (s.fallenEntries e entries past)) =
      r.releases tag (s.fallenEntries e entries (past ++ ps)) := by
  induction ps with
  | nil => intro past _; rw [List.append_nil]; rfl
  | cons p ps ih =>
    intro past nodup
    have fresh : p ∉ past := fun mem => List.disjoint_of_nodup_append nodup mem List.mem_cons_self
    rw [List.foldl_cons, reportFall_releases waits r fresh, ih (past ++ [p]) (by simpa using nodup), List.append_assoc]
    rfl

theorem fallReport_releaseAll (progress : s.lineProgress[e] = some (.releaseAll tag entries))
    (some_waits : ∃ p : Pos, ∃ used, entries[p] = .wait used) : s.fallReport e =
      (s.lineReport e).finish tag codeReleaseAll .ok
        ((s.fallenEntries e entries four).toList.flatMap ReleaseEntry.bytes) := by
  have start : s.fallenEntries e entries [] = entries := by
    refine Vector.ext fun i bound => ?_
    exact (fallenEntries_get entries [] ⟨i, bound⟩).trans (if_neg List.not_mem_nil)
  have unsettled : ¬ entries.toList.all ReleaseEntry.isSettled = true := fun all => by
    obtain ⟨p, used, wait⟩ := some_waits
    have settled := (all_toList_iff entries _).mp all p
    rw [wait] at settled
    cases settled
  have initial : s.lineReport e = (s.lineReport e).releases tag entries := by
    unfold LineReport.releases
    rw [if_neg unsettled, ← progress]
    rfl
  have settled : (s.fallenEntries e entries four).toList.all ReleaseEntry.isSettled = true := by
    rw [all_toList_iff]
    intro p
    rw [fallenEntries_get, if_pos (mem_four p)]
    cases entry : entries[p] with
    | settled code count short => rfl
    | wait used =>
      obtain ⟨b, k, clearing⟩ := waits p used entry
      rw [clearing]
      rfl
  have folded := reportFall_fold (tag := tag) waits (s.lineReport e) four [] (by decide)
  rw [start, ← initial, List.nil_append] at folded
  unfold State.fallReport
  rw [folded]
  unfold LineReport.releases
  rw [if_pos settled, clearsBlocked_none _ rfl]

end

/-! ## The waiting read of another request -/

/-- No BIND reads. -/
def LineReport.notReading (r : LineReport) : Prop := ∀ tag p asked grant, r.progress ≠ some (.bindReading tag p asked grant)

theorem notReading_finish (r : LineReport) (tag code : Byte) (oc : OutcomeCode) (data : List Byte) :
    (r.finish tag code oc data).notReading := fun _ _ _ _ reading => by cases reading

theorem releases_keepsWait (r : LineReport) (tag : Byte) (entries : Vector ReleaseEntry 4) :
    (r.releases tag entries).notReading ∧ (r.releases tag entries).wait = r.wait := by
  unfold LineReport.releases
  split
  · exact ⟨notReading_finish _ _ _ _ _, rfl⟩
  · exact ⟨(fun _ _ _ _ reading => by cases reading), rfl⟩

theorem bindLoses_keepsWait {r : LineReport} (other : r.notReading) : r.bindLoses.notReading ∧ r.bindLoses.wait = r.wait := by
  cases progress : r.progress with
  | none => simp only [LineReport.bindLoses, progress, other, and_self]
  | some x =>
    cases x with
    | bindReading tag p asked grant => exact absurd progress (other _ _ _ _)
    | bindLoading tag p asked grant =>
      simp only [LineReport.bindLoses, progress]
      exact ⟨notReading_finish _ _ _ _ _, rfl⟩
    | _ => simp only [LineReport.bindLoses, progress, other, and_self]

theorem released_keepsWait {r : LineReport} (other : r.notReading) (p : Pos) (b : Binding) (used : Nat) (oc : OutcomeCode) :
    (r.released p b used oc).notReading ∧ (r.released p b used oc).wait = r.wait := by
  cases progress : r.progress with
  | none => simp only [LineReport.released, progress, other, and_self]
  | some x =>
    cases x with
    | release tag q count =>
      simp only [LineReport.released, progress]
      exact ⟨notReading_finish _ _ _ _ _, rfl⟩
    | releaseAll tag entries =>
      simp only [LineReport.released, progress]
      exact releases_keepsWait r tag _
    | _ => simp only [LineReport.released, progress, other, and_self]

theorem fall_keepsWait {r : LineReport} (other : r.notReading) (x : Position) (p : Pos) :
    (r.fall x p).notReading ∧ (r.fall x p).wait = r.wait := by
  cases x with
  | loading b rp => exact bindLoses_keepsWait other
  | clearing b kind =>
    unfold LineReport.fall
    cases r.used p with
    | none => exact ⟨other, rfl⟩
    | some used => exact released_keepsWait other p b used _
  | _ => exact ⟨other, rfl⟩

theorem clearsBlocked_wait (r : LineReport) (was : Vector Bool 4) : (r.clearsBlocked was).wait = r.wait := by
  unfold LineReport.clearsBlocked
  split <;> rfl

theorem fallReport_wait (other : ∀ tag p asked grant, s.lineProgress[e] ≠ some (.bindReading tag p asked grant)) :
    (s.fallReport e).wait = s.control.lineWait[e] := by
  have kept : ∀ (ps : List Pos) (r : LineReport), r.notReading → (ps.foldl (s.reportFall e) r).wait = r.wait := by
    intro ps
    induction ps with
    | nil => exact fun _ _ => rfl
    | cons p ps ih =>
      intro r other
      obtain ⟨still, wait⟩ := fall_keepsWait other (s.pos e p) p
      exact (ih _ still).trans wait
  unfold State.fallReport
  rw [clearsBlocked_wait]
  exact kept four _ other

end

end Sys2Proof.Machine
end

section
/-! PROOF. The retained slots after the loss of an engine, and ENGINE_READY_FALL and ENGINE_READY_RISE (R60, R61, R69, R71,
R73, R74, R78, R93 to R96, R111). -/

namespace Sys2Proof.Machine

/-! ## The retained slots (R60, R61) -/

section
variable (s : State) (e : Line)

/-- What the loss of an engine at a position does to a slot's remaining allowance. -/
theorem slotsFall_remaining (slots : Vector SlotRetention 128) (p : Pos) (n : SlotNo) :
    (s.slotsFall e slots p)[n].remaining = if (hAllowance s.directory.slots[n].header).isSome
      then slots[n].remaining + s.fallReturns n e p else slots[n].remaining := by
  unfold State.slotsFall State.fallSlots State.fallReturns
  cases s.pos e p with
  | loading b rp =>
    simp only [State.returned, put_get]
    by_cases same : b.slot = n
    · subst same
      simp only [if_true]
    · simp only [same, if_false, Nat.add_zero, ite_self]
  | clearing b kind =>
    cases s.waitingUsed e p with
    | none => simp only [Option.elim_none, Nat.add_zero, ite_self]
    | some used =>
      simp only [Option.elim_some, State.settledSlots, put_get]
      by_cases same : b.slot = n
      · subst same
        simp only [if_true]
      · simp only [same, if_false, Nat.add_zero, ite_self]
  | _ => simp only [Nat.add_zero, ite_self]

/-- Its hold and its latch stay. -/
theorem slotsFall_flags (slots : Vector SlotRetention 128) (p : Pos) (n : SlotNo) :
    (s.slotsFall e slots p)[n].hold = slots[n].hold ∧ (s.slotsFall e slots p)[n].latch = slots[n].latch := by
  unfold State.slotsFall State.fallSlots
  cases s.pos e p with
  | loading b rp =>
    simp only [State.returned, put_get]
    by_cases same : b.slot = n
    · subst same
      simp only [if_true, and_self]
    · simp only [same, if_false, and_self]
  | clearing b kind =>
    cases s.waitingUsed e p with
    | none => exact ⟨rfl, rfl⟩
    | some used =>
      simp only [Option.elim_some, State.settledSlots, put_get]
      by_cases same : b.slot = n
      · subst same
        simp only [if_true, and_self]
      · simp only [same, if_false, and_self]
  | _ => exact ⟨rfl, rfl⟩

/-- The issued total of a slot changes only where a release waits on a CLEARING position. -/
theorem slotsFall_issued (slots : Vector SlotRetention 128) (p : Pos) (n : SlotNo) :
    (s.slotsFall e slots p)[n].issued = slots[n].issued ∧ s.fallIssues n e p = 0 ∨
    (s.slotsFall e slots p)[n].issued = min 16777215 (slots[n].issued + s.fallIssues n e p) ∧
      (s.waitingUsed e p).isSome = true := by
  unfold State.slotsFall State.fallSlots State.fallIssues
  cases s.pos e p with
  | loading b rp =>
    simp only [State.returned, put_get]
    by_cases same : b.slot = n
    · subst same
      exact .inl ⟨by simp only [if_true], trivial⟩
    · exact .inl ⟨by simp only [same, if_false], trivial⟩
  | clearing b kind =>
    cases s.waitingUsed e p with
    | none => exact .inl ⟨rfl, rfl⟩
    | some used =>
      simp only [Option.elim_some, State.settledSlots, put_get]
      by_cases same : b.slot = n
      · subst same
        refine .inr ⟨?_, rfl⟩
        simp only [if_true]
      · exact .inl ⟨congrArg SlotRetention.issued (if_neg same), if_neg same⟩
  | _ => exact .inl ⟨rfl, rfl⟩

theorem slotsFall_issued_capped {slots : Vector SlotRetention 128} (p : Pos) {n : SlotNo}
    (capped : slots[n].issued ≤ 16777215) :
    (s.slotsFall e slots p)[n].issued = min 16777215 (slots[n].issued + s.fallIssues n e p) := by
  rcases slotsFall_issued s e slots p n with ⟨same, none⟩ | ⟨charged, -⟩
  · rw [same, none]
    omega
  · exact charged

/-- The slots after the loss of an engine at a list of positions. -/
theorem slotsFall_fold (n : SlotNo) (ps : List Pos) : ∀ slots : Vector SlotRetention 128, slots[n].issued ≤ 16777215 →
    (ps.foldl (s.slotsFall e) slots)[n] = { slots[n] with
      remaining := if (hAllowance s.directory.slots[n].header).isSome
        then slots[n].remaining + (ps.map fun p => s.fallReturns n e p).sum else slots[n].remaining
      issued := min 16777215 (slots[n].issued + (ps.map fun p => s.fallIssues n e p).sum) } := by
  induction ps with
  | nil =>
    intro slots capped
    simp only [List.foldl_nil, List.map_nil, List.sum_nil, Nat.add_zero, ite_self, Nat.min_eq_right capped]
  | cons p ps ih =>
    intro slots capped
    have issued := slotsFall_issued_capped s e p capped
    obtain ⟨hold, latch⟩ := slotsFall_flags s e slots p n
    rw [List.foldl_cons, ih _ (by rw [issued]; exact Nat.min_le_left _ _), issued, slotsFall_remaining]
    dsimp only
    rw [hold, latch, List.map_cons, List.map_cons, List.sum_cons, List.sum_cons, SlotRetention.mk.injEq]
    refine ⟨?_, by omega, rfl, rfl⟩
    split
    · omega
    · rfl

/-- The issued total of a slot where at most one position of the list has a release waiting on it. -/
theorem slotsFall_issued_single {n : SlotNo} {p : Pos} (alone : ∀ q, q ≠ p → s.waitingUsed e q = none) (x : Nat)
    (charge : ∀ slots : Vector SlotRetention 128, (s.slotsFall e slots p)[n].issued = min 16777215 (slots[n].issued + x))
    (ps : List Pos) : ps.Nodup → ∀ slots : Vector SlotRetention 128, (ps.foldl (s.slotsFall e) slots)[n].issued =
      if p ∈ ps then min 16777215 (slots[n].issued + x) else slots[n].issued := by
  have kept : ∀ q, q ≠ p → ∀ slots : Vector SlotRetention 128, (s.slotsFall e slots q)[n].issued = slots[n].issued := by
    intro q other slots
    rcases slotsFall_issued s e slots q n with ⟨same, -⟩ | ⟨-, waits⟩
    · exact same
    · rw [alone q other] at waits
      cases waits
  induction ps with
  | nil => exact fun _ _ => rfl
  | cons q ps ih =>
    intro nodup slots
    obtain ⟨fresh, nodup⟩ := List.nodup_cons.mp nodup
    rw [List.foldl_cons, ih nodup]
    by_cases here : q = p
    · subst here
      rw [if_neg fresh, if_pos List.mem_cons_self, charge]
    · rw [kept q here]
      have same : (p ∈ q :: ps) = (p ∈ ps) := by
        rw [List.mem_cons, eq_false (Ne.symm here), false_or]
      simp only [same]

end

/-! ## Sums over the positions -/

/-- A sum in which one place counts. -/
theorem sum_single (f : Pos → Nat) (p : Pos) (alone : ∀ q, q ≠ p → f q = 0) : (four.map f).sum = f p := by
  have all : (four.map f).sum = ∑ q : Pos, f q := by
    rw [Fin.sum_univ_four]
    simp only [four, List.map_cons, List.map_nil, List.sum_cons, List.sum_nil, Nat.add_zero, Nat.add_assoc]
  rw [all]
  exact Finset.sum_eq_single p (fun q _ other => alone q other) fun absent => absurd (Finset.mem_univ p) absent

theorem le_sum (f : Pos → Nat) (p : Pos) : f p ≤ (four.map f).sum :=
  List.single_le_sum (fun _ _ => Nat.zero_le _) _ (List.mem_map_of_mem (mem_four p))

end Sys2Proof.Machine
end

section
/-! PROOF. ENGINE_READY_FALL and ENGINE_READY_RISE as the statements say them (R61, R69, R71, R73, R74, R78, R93 to R96,
R111). -/

namespace Sys2Proof.Machine

theorem afterReads_lineWait (c : ArrayControl) : c.afterReads.lineWait = c.lineWait := by
  unfold ArrayControl.afterReads
  split
  · rfl
  · split <;> rfl

section
variable (s : State) (e : Line)

theorem engineFallen_pos (p : Pos) : (s.engineFallen e).pos e p = (s.pos e p).fallen (s.waitingUsed e p) := by
  have table : (s.engineFallen e).positions[e] = s.fallenPositions e four := put_get_same _ _ _
  unfold State.pos
  rw [table, fallenPositions_get, if_pos (mem_four p)]
  rfl

theorem engineFallen_progress : (s.engineFallen e).lineProgress[e] = (s.fallReport e).progress := put_get_same _ _ _

theorem engineFallen_completions : (s.engineFallen e).lineLinks[e].completions = (s.fallReport e).completions :=
  congrArg Link.completions (put_get_same _ _ _)

theorem engineFallen_wait : (s.engineFallen e).control.lineWait[e] = (s.fallReport e).wait := by
  unfold State.engineFallen
  dsimp only
  rw [afterReads_lineWait]
  exact put_get_same _ _ _

/-- A completion that the fall writes ends the request in progress. -/
theorem engineFallen_completes {s : State} {e : Line} {r : LineReport} {tag code : Byte} {oc : OutcomeCode} {data : List Byte}
    (report : s.fallReport e = r.finish tag code oc data) (same : r.completions = s.lineLinks[e].completions) :
    (s.engineFallen e).lineProgress[e] = none ∧ (s.engineFallen e).lineLinks[e].completions =
      s.lineLinks[e].completions ++ [⟨tag, code, oc, data⟩] := by
  rw [engineFallen_progress, engineFallen_completions, report, ← same]
  exact ⟨rfl, rfl⟩

theorem engineFallen_links {s : State} {e : Line} (same : (s.fallReport e).completions = s.lineLinks[e].completions) :
    (s.engineFallen e).lineLinks = s.lineLinks := by
  refine put_of_eq _ _ _ ?_
  rw [same]

/-- What the fall of an engine settles for the release that waits. -/
theorem release_settles {tag : Byte} {p : Pos} {used : Nat} {b : Binding} {k : ClearKind}
    (progress : s.lineProgress[e] = some (.release tag p used)) (place : s.pos e p = .clearing b k) :
    (s.engineFallen e).retention.slots[b.slot].issued =
      min 16777215 (s.retention.slots[b.slot].issued + min used b.reservation) ∧
    (four.map fun q => s.fallIssues b.slot e q).sum = min used b.reservation ∧
    b.reservation - min used b.reservation ≤ (four.map fun q => s.fallReturns b.slot e q).sum := by
  have waits : s.waitingUsed e p = some used := waitingUsed_release progress
  have alone : ∀ q, q ≠ p → s.waitingUsed e q = none := fun q other => by
    rw [← lineReport_used, used_release (r := s.lineReport e) progress, if_neg fun same => other same.symm]
  have issues : s.fallIssues b.slot e p = min used b.reservation := by
    unfold State.fallIssues
    rw [place, waits]
    exact if_pos rfl
  have returns : s.fallReturns b.slot e p = b.reservation - min used b.reservation := by
    unfold State.fallReturns
    rw [place, waits]
    exact if_pos rfl
  refine ⟨?_, ?_, ?_⟩
  · have single := slotsFall_issued_single s e (n := b.slot) alone (min used b.reservation) (fun slots => ?_) four (by decide)
      s.retention.slots
    · rw [if_pos (mem_four p)] at single
      exact single
    · unfold State.slotsFall State.fallSlots
      rw [place, waits]
      exact congrArg SlotRetention.issued (put_get_same _ _ _)
  · rw [sum_single _ p fun q other => ?_, issues]
    unfold State.fallIssues
    rw [alone q other]
    cases s.pos e q <;> rfl
  · rw [← returns]
    exact le_sum (fun q => s.fallReturns b.slot e q) p

end

/-- Settles O48: the positions fall in turn, and each request in progress ends where its position does. -/
theorem engineReadyChangesActOnTheEngine : Obligations.EngineReadyChangesActOnTheEngine := by
  refine fun s e sampling => ⟨fun samples unready high => exec_engineReadyRise sampling unready high,
    fun samples => ⟨exec_engineReadyRise_other, exec_engineReadyFall_other⟩, fun samples ready low =>
    ⟨_, exec_engineReadyFall sampling ready low, rfl, fun e' other => ⟨?_, ?_, ?_⟩, fun p => ?_, fun n capped => ?_, rfl, rfl,
      ?_, ?_, fun idle => ?_, fun tag p asked grant b rp progress place => ?_, fun tag p asked grant b rp progress place => ?_,
      fun tag p used b k progress place => ?_, fun tag entries progress some_waits waits => ?_,
      fun tag waiting freed progress => ?_, rfl, rfl, rfl, rfl, rfl, rfl, rfl, rfl⟩⟩
  · exact put_get_other _ _ _ _ (Ne.symm other)
  · exact put_get_other _ _ _ _ (Ne.symm other)
  · exact put_get_other _ _ _ _ (Ne.symm other)
  · rw [engineFallen_pos]
    cases s.pos e p <;> rfl
  · exact slotsFall_fold s e n four s.retention.slots capped
  · rw [engineFallen_completions]
    exact put_get_same _ _ _
  · refine ⟨put s.control.lineWait e (s.fallReport e).wait, fun l other => put_get_other _ _ _ _ (Ne.symm other),
      fun unread => ?_, rfl⟩
    rw [put_get_same]
    exact fallReport_wait unread
  · have report := fallReport_none idle
    refine ⟨?_, engineFallen_links (by rw [report]; rfl)⟩
    rw [engineFallen_progress, report]
    exact idle
  · refine ⟨?_, ?_⟩
    · rw [engineFallen_pos, place]
      rfl
    · rcases progress with loading | ⟨reading, waits⟩
      · exact engineFallen_completes (fallReport_bindLoading place loading) rfl
      · exact engineFallen_completes (fallReport_withdrawn place reading waits) rfl
  · cases waits : s.control.lineWait[e] with
    | some n =>
      have report := fallReport_withdrawn place progress (by rw [waits]; rfl)
      rw [engineFallen_wait, report]
      exact ⟨rfl, fun none => by cases none⟩
    | none =>
      have report := fallReport_lost place progress waits
      refine ⟨?_, fun _ => ⟨?_, ?_, engineFallen_links (by rw [report]; rfl)⟩⟩
      · rw [engineFallen_wait, report]
        exact waits
      · rw [engineFallen_pos, place]
        rfl
      · rw [engineFallen_progress, report]
  · obtain ⟨ends, completion⟩ := engineFallen_completes (fallReport_release progress place) rfl
    obtain ⟨issued, issues, returns⟩ := release_settles s e progress place
    refine ⟨?_, ends, issued, issues, returns, completion⟩
    rw [engineFallen_pos, place, waitingUsed_release progress]
    rfl
  · obtain ⟨ends, completion⟩ := engineFallen_completes (fallReport_releaseAll waits progress some_waits) rfl
    refine ⟨s.fallenEntries e entries four, fun p => ?_, fun p used wait => ?_, ends, completion⟩
    · rw [fallenEntries_get, if_pos (mem_four p)]
      cases entry : entries[p] with
      | settled code count short => rfl
      | wait used =>
        obtain ⟨b, k, clearing⟩ := waits p used entry
        rw [clearing]
        rfl
    · obtain ⟨b, k, clearing⟩ := waits p used wait
      rw [engineFallen_pos, clearing, waitingUsed_releaseAll progress wait]
      rfl
  · obtain ⟨ends, completion⟩ := engineFallen_completes (fallReport_clearBlocked progress) rfl
    refine ⟨fun p blocked => ?_, ends, completion⟩
    rw [engineFallen_pos, blocked]
    rfl

end Sys2Proof.Machine
end

section
/-! PROOF. The cards of a slot (R62): remaining allowance, reservations and issued total together, and the updates that
keep them together. -/

namespace Sys2Proof.Machine

/-! ## The reservations on a slot -/

theorem reserved_eq (s : State) (n : SlotNo) : s.reserved n = ∑ ep : Line × Pos, (s.pos ep.1 ep.2).reservedOn n := by
  have rows (v : Vector Position 4) : (v.toList.map (·.reservedOn n)).sum = ∑ p : Pos, (v[p]).reservedOn n := by
    rw [toList_four, List.map_map, Fin.sum_univ_four]
    simp only [four, List.map_cons, List.map_nil, List.sum_cons, List.sum_nil, Function.comp_apply, Nat.add_zero, Nat.add_assoc]
  have lines : s.reserved n = ∑ e : Line, ((s.positions[e]).toList.map (·.reservedOn n)).sum := by
    unfold State.reserved State.allPositions
    rw [toList_four s.positions, Fin.sum_univ_four]
    simp only [four, List.map_cons, List.map_nil, List.flatMap_cons, List.flatMap_nil, List.append_nil, List.map_append,
      List.sum_append, Nat.add_assoc]
  rw [lines, Fintype.sum_prod_type]
  exact Finset.sum_congr rfl fun e _ => rows _

theorem reserved_congr {s t : State} {n : SlotNo}
    (same : ∀ e p, (t.pos e p).reservedOn n = (s.pos e p).reservedOn n) : t.reserved n = s.reserved n := by
  rw [reserved_eq, reserved_eq]
  exact Finset.sum_congr rfl fun ep _ => same ep.1 ep.2

theorem reservedOn_le_reserved (s : State) (n : SlotNo) (e : Line) (p : Pos) : (s.pos e p).reservedOn n ≤ s.reserved n := by
  rw [reserved_eq]
  exact Finset.single_le_sum (f := fun ep : Line × Pos => (s.pos ep.1 ep.2).reservedOn n) (fun _ _ => Nat.zero_le _)
    (Finset.mem_univ (e, p))

/-- Sums that differ in one term. -/
theorem sum_exchange {α : Type} [Fintype α] [DecidableEq α] (f g : α → Nat) (a : α) (others : ∀ b, b ≠ a → g b = f b) :
    ∑ b, g b + f a = ∑ b, f b + g a := by
  have rest : ∑ b ∈ Finset.univ.erase a, g b = ∑ b ∈ Finset.univ.erase a, f b :=
    Finset.sum_congr rfl fun b mem => others b (Finset.ne_of_mem_erase mem)
  have whole (h : α → Nat) := Finset.add_sum_erase Finset.univ h (Finset.mem_univ a)
  rw [← whole f, ← whole g, rest]
  omega

theorem reserved_setPos (s : State) (e : Line) (p : Pos) (x : Position) (n : SlotNo) :
    (s.setPos e p x).reserved n + (s.pos e p).reservedOn n = s.reserved n + x.reservedOn n := by
  rw [reserved_eq, reserved_eq]
  have here : ((s.setPos e p x).pos e p).reservedOn n = x.reservedOn n := by
    rw [pos_setPos, if_pos ⟨rfl, rfl⟩]
  rw [← here]
  refine sum_exchange (fun ep : Line × Pos => (s.pos ep.1 ep.2).reservedOn n)
    (fun ep : Line × Pos => ((s.setPos e p x).pos ep.1 ep.2).reservedOn n) (e, p) fun ep other => ?_
  rw [pos_setPos, if_neg]
  rintro ⟨rfl, rfl⟩
  exact other rfl

theorem reservedOn_of_binding {n : SlotNo} {x y : Position} (same : y.binding = x.binding) :
    y.reservedOn n = x.reservedOn n := by
  unfold Position.reservedOn
  rw [same]

theorem reservedOn_of_unbound {n : SlotNo} {x : Position} (unbound : x.binding = none) : x.reservedOn n = 0 := by
  unfold Position.reservedOn
  rw [unbound]

theorem reservedOn_bound {x : Position} {b : Binding} (bound : x.binding = some b) (n : SlotNo) :
    x.reservedOn n = if b.slot = n then b.reservation else 0 := by
  unfold Position.reservedOn
  rw [bound]

/-! ## Slots that live on -/

/-- A state in which a slot's cards are counted (R62). -/
def SlotState.counted (x : SlotState) : Prop := x = .active ∨ x = .retired

theorem not_counted_of {x : SlotState} (damaged : x = .damaged ∨ x = .lost ∨ x = .empty) : ¬ x.counted := by
  rcases damaged with rfl | rfl | rfl <;> (rintro (no | no) <;> cases no)

/-- A change of a directory entry after which a slot's cards are counted only if they were, by the same header. -/
structure SlotDir.Lives (d e : SlotDir) : Prop where
  counted : e.state.counted → d.state.counted
  header : e.state.counted → e.header = d.header

theorem SlotDir.Lives.refl (d : SlotDir) : d.Lives d := ⟨id, fun _ => rfl⟩

theorem SlotDir.Lives.of_dead {d e : SlotDir} (dead : ¬ e.state.counted) : d.Lives e :=
  ⟨fun h => absurd h dead, fun h => absurd h dead⟩

/-- Every slot's cards stay together. -/
def CardsKept (s t : State) : Prop := ∀ n : SlotNo, s.conserves n → t.conserves n

theorem hAllowance_le {h : Header} {cards : Nat} (initial : hAllowance h = some cards) : cards ≤ maxCards := by
  unfold hAllowance at initial
  dsimp only at initial
  split at initial
  · cases initial
  · cases initial
    have small (b : Byte) : b.toNat < 256 := b.isLt
    have := small h[11]
    have := small h[12]
    have := small h[13]
    simp only [numBE, List.foldl_cons, List.foldl_nil, maxCards]
    omega

namespace CardsKept

theorem refl (s : State) : CardsKept s s := fun _ => id

theorem trans {s t u : State} (h : CardsKept s t) (k : CardsKept t u) : CardsKept s u := fun n kept => k n (h n kept)

theorem foldl {α : Type} (f : State → α → State) (hf : ∀ s a, CardsKept s (f s a)) (l : List α) (s : State) :
    CardsKept s (l.foldl f s) := by
  induction l generalizing s with
  | nil => exact refl s
  | cons a l ih => exact (hf s a).trans (ih _)

/-- A change that leaves each counted slot's cards as they were in sum, from a state with no more cards than there are. -/
theorem of_balance {s t : State} (lives : ∀ n : SlotNo, (s.directory.slots[n]).Lives t.directory.slots[n])
    (balance : ∀ n : SlotNo, s.metered n = true →
      s.retention.slots[n].remaining + s.reserved n + s.retention.slots[n].issued ≤ maxCards →
      t.retention.slots[n].remaining + t.reserved n + t.retention.slots[n].issued =
        s.retention.slots[n].remaining + s.reserved n + s.retention.slots[n].issued) : CardsKept s t := by
  intro n kept cards initial counted
  rw [(lives n).header counted] at initial
  have total := kept cards initial ((lives n).counted counted)
  rw [balance n (by unfold State.metered; rw [initial]; rfl) (total ▸ hAllowance_le initial), total]

/-- A change that leaves reservations and counts as they were. -/
theorem of_same {s t : State} (lives : ∀ n : SlotNo, (s.directory.slots[n]).Lives t.directory.slots[n])
    (positions : t.positions = s.positions)
    (cards : ∀ n : SlotNo, t.retention.slots[n].remaining = s.retention.slots[n].remaining ∧
      t.retention.slots[n].issued = s.retention.slots[n].issued) : CardsKept s t := by
  refine of_balance lives fun n _ _ => ?_
  have reserved : t.reserved n = s.reserved n := by
    unfold State.reserved State.allPositions
    rw [positions]
  rw [reserved, (cards n).1, (cards n).2]

/-- A change of other parts of the state. -/
theorem of_equal {s t : State} (directory : t.directory.slots = s.directory.slots) (positions : t.positions = s.positions)
    (cards : t.retention.slots = s.retention.slots) : CardsKept s t :=
  of_same (fun n => by rw [directory]; exact .refl _) positions fun n => by rw [cards]; exact ⟨rfl, rfl⟩

/-- No slot's cards are counted any more. -/
theorem of_dead {s t : State} (dead : ∀ n : SlotNo, ¬ (t.directory.slots[n]).state.counted) : CardsKept s t :=
  fun n _ _ _ counted => absurd counted (dead n)

/-! ## Field updates -/

theorem withLink (s : State) (p : Port) (f : Link → Link) : CardsKept s (s.withLink p f) := by
  cases p <;> exact of_equal rfl rfl rfl
theorem withControl (s : State) (f : ArrayControl → ArrayControl) : CardsKept s (s.withControl f) := of_equal rfl rfl rfl
theorem withCustody (s : State) (f : Custody → Custody) : CardsKept s (s.withCustody f) := of_equal rfl rfl rfl
theorem withCeremony (s : State) (f : Ceremony → Ceremony) : CardsKept s (s.withCeremony f) := of_equal rfl rfl rfl
theorem withMonitor (s : State) (f : Monitor → Monitor) : CardsKept s (s.withMonitor f) := of_equal rfl rfl rfl
theorem withArray (s : State) (f : KeyArray → KeyArray) : CardsKept s (s.withArray f) := of_equal rfl rfl rfl
theorem withBus (s : State) (e : Line) (f : Transmitter → Transmitter) : CardsKept s (s.withBus e f) := of_equal rfl rfl rfl
theorem withBank (s : State) (b : Bank) (f : BankDir → BankDir) : CardsKept s (s.withBank b f) := of_equal rfl rfl rfl
theorem nextDraw (s : State) : CardsKept s s.nextDraw := of_equal rfl rfl rfl
theorem setProgress (s : State) (l : Line) (x : Option LineProgress) : CardsKept s (s.setProgress l x) := of_equal rfl rfl rfl
theorem withCustProgress (s : State) (x : Option CustProgress) : CardsKept s { s with custProgress := x } :=
  of_equal rfl rfl rfl
theorem withAllocations (s : State) (x : Vector Allocation 4) : CardsKept s { s with allocations := x } :=
  of_equal rfl rfl rfl
theorem withFuses (s : State) (x : Vector Byte 64) : CardsKept s { s with fuses := x } := of_equal rfl rfl rfl

/-- A change of retention beside its slots. -/
theorem withRetention (s : State) (f : Retention → Retention) (slots : (f s.retention).slots = s.retention.slots) :
    CardsKept s (s.withRetention f) := of_equal rfl rfl slots

/-- A change of a directory entry. -/
theorem withSlot (s : State) (n : SlotNo) (f : SlotDir → SlotDir) (lives : s.directory.slots[n].Lives (f s.directory.slots[n])) :
    CardsKept s (s.withSlot n f) := by
  refine of_same (fun m => ?_) rfl fun _ => ⟨rfl, rfl⟩
  simp only [withSlot_directory, put_get]
  split
  · next same => rw [← same]; exact lives
  · exact .refl _

/-- A change of a slot's marks in retention. -/
theorem withSlotRet (s : State) (n : SlotNo) (f : SlotRetention → SlotRetention)
    (cards : ∀ r, (f r).remaining = r.remaining ∧ (f r).issued = r.issued) : CardsKept s (s.withSlotRet n f) := by
  refine of_same (fun _ => .refl _) rfl fun m => ?_
  simp only [withSlotRet_retention, put_get]
  split
  · next same => rw [← same]; exact cards _
  · exact ⟨rfl, rfl⟩

end CardsKept

end Sys2Proof.Machine
end

section
/-! PROOF. Cards through the Binding Unit's operations (R59 to R78): each moves a reservation together with its position. -/

namespace Sys2Proof.Machine

namespace CardsKept

/-! ## A position and the counts of its slot -/

/-- A position changes together with the counts of one slot. -/
theorem recounted {s : State} {e : Line} {p : Pos} {x : Position} {m : SlotNo} {r : SlotRetention}
    (others : ∀ n, m ≠ n → x.reservedOn n = (s.pos e p).reservedOn n)
    (here : s.metered m = true →
      s.retention.slots[m].remaining + (s.pos e p).reservedOn m + s.retention.slots[m].issued ≤ maxCards →
      r.remaining + x.reservedOn m + r.issued =
        s.retention.slots[m].remaining + (s.pos e p).reservedOn m + s.retention.slots[m].issued) :
    CardsKept s (({ s with retention := { s.retention with slots := put s.retention.slots m r } } : State).setPos e p x) := by
  refine of_balance (fun _ => .refl _) fun n metered small => ?_
  have moved := reserved_setPos s e p x n
  have part := reservedOn_le_reserved s n e p
  have reserved : (({ s with retention := { s.retention with slots := put s.retention.slots m r } } : State).setPos e p x).reserved n =
      (s.setPos e p x).reserved n := rfl
  have counts : (({ s with retention := { s.retention with slots := put s.retention.slots m r } } : State).setPos e p x).retention.slots[n] =
      if m = n then r else s.retention.slots[n] := put_get _ _ _ _
  rw [reserved, counts]
  split
  · next same =>
    subst same
    have kept := here metered (by omega)
    omega
  · next other =>
    have kept := others n other
    omega

/-- A position changes and no count does. -/
theorem setPos {s : State} {e : Line} {p : Pos} {x : Position} (same : x.binding = (s.pos e p).binding) :
    CardsKept s (s.setPos e p x) := by
  refine of_balance (fun _ => .refl _) fun n _ _ => ?_
  have moved := reserved_setPos s e p x n
  rw [reservedOn_of_binding same] at moved
  have unmoved : (s.setPos e p x).retention = s.retention := rfl
  rw [unmoved, Nat.add_right_cancel moved]

/-! ## Cards (R59 to R61) -/

section
variable {s : State} {e : Line} {p : Pos} {b : Binding} {x : Position}

/-- A grant goes from the remaining allowance into a new binding's reservation (R64). -/
theorem reserve {n : SlotNo} {h : Handle} {grant : Nat} (free : (s.pos e p).binding = none)
    (granted : s.metered n = true → grant ≤ s.retention.slots[n].remaining) :
    CardsKept s ((s.takeGrant n grant).setPos e p (.loading { handle := h, slot := n, reservation := grant } false)) := by
  have taken (m : SlotNo) := reservedOn_bound (x := .loading { handle := h, slot := n, reservation := grant } false) rfl m
  have none (m : SlotNo) := reservedOn_of_unbound (n := m) free
  rw [takeGrant_eq]
  refine recounted (fun m other => ?_) fun metered _ => ?_
  · rw [taken, none, if_neg other]
  · rw [taken, none, if_pos rfl]
    have few := granted metered
    dsimp only
    rw [if_pos ((metered_iff _ _).mp metered)]
    omega

variable (bound : (s.pos e p).binding = some b)
include bound

/-- A grant goes from the remaining allowance into a binding's reservation (R70). -/
theorem extend {grant : Nat} (granted : s.metered b.slot = true → grant ≤ s.retention.slots[b.slot].remaining) :
    CardsKept s ((s.takeGrant b.slot grant).setPos e p (.bound { b with reservation := b.reservation + grant })) := by
  have extended (m : SlotNo) := reservedOn_bound (x := .bound { b with reservation := b.reservation + grant }) rfl m
  have before (m : SlotNo) := reservedOn_bound bound m
  rw [takeGrant_eq]
  refine recounted (fun m other => ?_) fun metered _ => ?_
  · rw [extended, before, if_neg other, if_neg other]
  · rw [extended, before, if_pos rfl, if_pos rfl]
    have few := granted metered
    dsimp only
    rw [if_pos ((metered_iff _ _).mp metered)]
    omega

variable (empty : x.binding = none)
include empty

/-- A binding's reservation goes back to the remaining allowance (R61). -/
theorem giveBack : CardsKept s ((s.setPos e p x).giveBack b.slot b.reservation) := by
  have commute : (s.setPos e p x).giveBack b.slot b.reservation = (s.giveBack b.slot b.reservation).setPos e p x := by
    rw [giveBack_exact, giveBack_exact]
    rfl
  rw [commute, giveBack_exact]
  refine recounted (fun m other => ?_) fun metered _ => ?_
  · rw [reservedOn_bound bound, reservedOn_of_unbound empty, if_neg other]
  · rw [reservedOn_bound bound, reservedOn_of_unbound empty, if_pos rfl]
    dsimp only
    rw [if_pos ((metered_iff _ _).mp metered)]
    omega

/-- A binding's reservation is charged to the issued total (R61). -/
theorem charge : CardsKept s ((s.setPos e p x).charge b.slot b.reservation) := by
  have commute : (s.setPos e p x).charge b.slot b.reservation = (s.charge b.slot b.reservation).setPos e p x := rfl
  rw [commute]
  refine recounted (m := b.slot) (fun m other => ?_) fun _ small => ?_
  · rw [reservedOn_bound bound, reservedOn_of_unbound empty, if_neg other]
  · rw [reservedOn_bound bound, if_pos rfl] at small ⊢
    rw [reservedOn_of_unbound empty]
    dsimp only
    omega

/-- A binding is settled with a used count (R60). -/
theorem settle (used : Nat) : CardsKept s ((s.settle b used).setPos e p x) := by
  rw [settle_exact]
  refine recounted (fun m other => ?_) fun metered small => ?_
  · rw [reservedOn_bound bound, reservedOn_of_unbound empty, if_neg other]
  · rw [reservedOn_bound bound, if_pos rfl] at small ⊢
    rw [reservedOn_of_unbound empty]
    unfold maxCards at small
    dsimp only
    rw [if_pos ((metered_iff _ _).mp metered)]
    omega

end

/-- A grant on a metered slot is at most its remaining allowance (R59). -/
theorem grantFor_le (s : State) (n : SlotNo) (asked held : Nat) (metered : s.metered n = true) :
    s.grantFor n asked held ≤ s.retention.slots[n].remaining := by
  unfold State.grantFor
  rw [if_pos metered]
  exact Nat.min_le_right _ _

/-! ## Shared operations -/

theorem finishLine (s : State) (l : Line) (t c : Byte) (oc : OutcomeCode) (d : List Byte) :
    CardsKept s (s.finishLine l t c oc d) := (withLink s _ _).trans (setProgress _ _ _)
theorem queueFrame (s : State) (e : Line) (k : FrameKind) : CardsKept s (s.queueFrame e k) := withBus _ _ _
theorem queued {s : State} {e : Line} {k : FrameKind} {p : Pos} {x : Position} (same : x.binding = (s.pos e p).binding) :
    CardsKept s ((s.queueFrame e k).setPos e p x) := (queueFrame s e k).trans (setPos (s := s.queueFrame e k) same)
theorem popFrame (s : State) (e : Line) : CardsKept s (s.popFrame e) := withBus _ _ _

/-! ## The line requests (R63 to R74) -/

/-- The position a BIND takes is FREE (R63, check 8). -/
theorem bindTarget_free {s : State} {l : Line} {h : Handle} {n : SlotNo} {p : Pos} (target : s.bindTarget l h = .ok (n, p)) :
    s.pos l p = .free := by
  unfold State.bindTarget at target
  split at target
  · cases target
  · extract_lets d at target
    split at target
    · cases target
    · split at target
      · cases target
      · split at target
        · cases target
        · split at target
          · cases target
          · split at target
            · cases target
            · split at target
              · cases target
              · next q found =>
                cases target
                exact eq_of_beq (List.find?_some (p := fun q => s.pos l q == .free) found)

theorem takeBind (l : Line) (t : Byte) (q : Handle × Nat) (s : State) : CardsKept s (takeBind l t q s) := by
  unfold Machine.takeBind
  split
  · exact finishLine _ _ _ _ _ _
  · next n p target =>
    extract_lets grant
    split
    · exact finishLine _ _ _ _ _ _
    · have free : (s.pos l p).binding = none := by rw [bindTarget_free target]; rfl
      exact ((reserve free (grantFor_le s n q.2 0)).trans (withControl _ _)).trans (setProgress _ _ _)

theorem takeExtend (l : Line) (t : Byte) (q : Pos × Nat) (s : State) : CardsKept s (takeExtend l t q s) := by
  unfold Machine.takeExtend
  split
  · next b held =>
    split
    · exact finishLine _ _ _ _ _ _
    · extract_lets grant total
      split
      · exact finishLine _ _ _ _ _ _
      · have bound : (s.pos l q.1).binding = some b := by rw [held]; rfl
        exact (extend bound (grantFor_le s b.slot q.2 b.reservation)).trans (finishLine _ _ _ _ _ _)
  · exact finishLine _ _ _ _ _ _

/-- A position that stays unclean is BLOCKED, and a clean one FREE: neither holds a binding. -/
theorem left_empty (unclean : Bool) : (if unclean then Position.blocked else .free).binding = none := by
  cases unclean <;> rfl

theorem releaseAt (s : State) (l : Line) (p : Pos) (used : Nat) : CardsKept s (s.releaseAt l p used).1 := by
  unfold State.releaseAt
  split
  · next b held =>
    exact queued (by rw [held]; rfl)
  · next b reason unclean held => exact settle (by rw [held]; rfl) (left_empty unclean) _
  all_goals exact refl s

theorem takeRelease (l : Line) (t : Byte) (q : Pos × Nat) (s : State) : CardsKept s (takeRelease l t q s) := by
  unfold Machine.takeRelease
  refine (releaseAt s l q.1 q.2).trans ?_
  extract_lets u
  split
  · exact setProgress _ _ _
  · exact setProgress _ _ _
  all_goals exact finishLine _ _ _ _ _ _

theorem releaseAllCheck (s : State) (l : Line) (t : Byte) (entries : Vector ReleaseEntry 4) :
    CardsKept s (s.releaseAllCheck l t entries) := by
  unfold State.releaseAllCheck
  split
  · exact finishLine _ _ _ _ _ _
  · exact setProgress _ _ _

theorem takeReleaseAll (l : Line) (t : Byte) (used : Vector Nat 4) (s : State) : CardsKept s (takeReleaseAll l t used s) := by
  have releases (ps : List Pos) (acc : State × Vector ReleaseEntry 4) : CardsKept acc.1
      (ps.foldl (fun (acc : State × Vector ReleaseEntry 4) p =>
        ((acc.1.releaseAt l p used[p]).1, put acc.2 p (acc.1.releaseAt l p used[p]).2)) acc).1 := by
    induction ps generalizing acc with
    | nil => exact refl _
    | cons p ps ih => exact (releaseAt acc.1 l p used[p]).trans (ih (_, put acc.2 p (acc.1.releaseAt l p used[p]).2))
  exact (releases four (s, Vector.replicate 4 (.wait 0))).trans (releaseAllCheck _ _ _ _)

theorem clearBlockedCheck (s : State) (l : Line) (t : Byte) (waiting freed : Vector Bool 4) :
    CardsKept s (s.clearBlockedCheck l t waiting freed) := by
  unfold State.clearBlockedCheck
  split
  · exact setProgress _ _ _
  · exact finishLine _ _ _ _ _ _

theorem takeClearBlocked (l : Line) (t : Byte) (q : Unit) (s : State) : CardsKept s (takeClearBlocked l t q s) :=
  (foldl (fun u p => u.queueFrame l (.clear p)) (fun _ _ => queueFrame _ _ _) _ s).trans (clearBlockedCheck _ _ _ _ _)

/-! ## A BIND's read (R65 to R67) -/

theorem bindFails {s : State} {l : Line} {p : Pos} {b : Binding} (bound : (s.pos l p).binding = some b) (t : Byte)
    (oc : OutcomeCode) : CardsKept s (s.bindFails l t p b oc) := (giveBack bound rfl).trans (finishLine _ _ _ _ _ _)

theorem damage (s : State) (n : SlotNo) : CardsKept s (s.damage n) := by
  refine withSlot s n _ ?_
  split
  · exact .of_dead (not_counted_of (.inl rfl))
  · exact .refl _

theorem bindRead (s : State) (l : Line) (t : Byte) (p : Pos) (asked grant : Nat) (r : SlotRecord) :
    CardsKept s (s.bindRead l t p asked grant r) := by
  unfold State.bindRead
  split
  · next b _ held =>
    have bound : (s.pos l p).binding = some b := by rw [held]; rfl
    extract_lets cover
    split
    · exact bindFails bound _ _
    · split
      · exact (damage s b.slot).trans (bindFails (s := s.damage b.slot) bound _ _)
      · split
        · exact bindFails bound _ _
        · exact ((queueFrame s _ _).trans (withBus _ _ _)).trans (setProgress _ _ _)
  · exact refl s

/-! ## The outcomes of frames (R68, R72, R74, R77) -/

theorem finishBind (s : State) (e : Line) (p : Pos) (oc : OutcomeCode) (d : List Byte) : CardsKept s (s.finishBind e p oc d) := by
  unfold State.finishBind
  split
  · exact finishLine _ _ _ _ _ _
  · exact refl s

theorem loadAccepted (s : State) (e : Line) (p : Pos) : CardsKept s (s.loadAccepted e p) := by
  unfold State.loadAccepted
  split
  · next b recallPending held =>
    extract_lets t
    have placed : CardsKept s t := by
      refine setPos ?_
      rw [held]
      cases recallPending <;> rfl
    split
    · exact placed.trans (finishBind t _ _ _ _)
    · exact placed
  · exact refl s

theorem loadRefused (s : State) (e : Line) (p : Pos) (reason : Byte) : CardsKept s (s.loadRefused e p reason) := by
  unfold State.loadRefused
  split
  · next b _ held => exact ((giveBack (by rw [held]; rfl) rfl).trans (withBus _ _ _)).trans (finishBind _ _ _ _ _)
  · exact refl s

theorem loadSilent (s : State) (e : Line) (p : Pos) : CardsKept s (s.loadSilent e p) := by
  unfold State.loadSilent
  split
  · next b _ held => exact ((charge (by rw [held]; rfl) rfl).trans (withBus _ _ _)).trans (finishBind _ _ _ _ _)
  · exact refl s

theorem finishRelease (s : State) (e : Line) (p : Pos) (b : Binding) (used : Nat) (oc : OutcomeCode) :
    CardsKept s (s.finishRelease e p b used oc) := by
  unfold State.finishRelease
  split
  · exact finishLine _ _ _ _ _ _
  · exact releaseAllCheck _ _ _ _
  · exact refl s

theorem settleRelease {s : State} {e : Line} {p : Pos} {b : Binding} {x : Position} (bound : (s.pos e p).binding = some b)
    (empty : x.binding = none) (used : Nat) (oc : OutcomeCode) : CardsKept s (s.settleRelease e p b used x oc) :=
  (settle bound empty used).trans (finishRelease _ _ _ _ _ _)

theorem endPosition {s : State} {e : Line} {p : Pos} {b : Binding} (bound : (s.pos e p).binding = some b) (reason : EndReason)
    (unclean : Bool) : CardsKept s (s.endPosition e p b reason unclean) := by
  unfold State.endPosition
  split
  · exact settleRelease bound (left_empty unclean) _ _
  · exact setPos bound.symm

theorem clearBlockedOutcome (s : State) (e : Line) (p : Pos) (freed : Bool) : CardsKept s (s.clearBlockedOutcome e p freed) := by
  unfold State.clearBlockedOutcome
  split
  · exact clearBlockedCheck _ _ _ _ _
  · exact refl s

theorem clearOutcome (s : State) (e : Line) (p : Pos) (silent : Bool) : CardsKept s (s.clearOutcome e p silent) := by
  unfold State.clearOutcome
  split
  · next b held => exact settleRelease (by rw [held]; rfl) (left_empty silent) _ _
  · next b held => exact endPosition (by rw [held]; rfl) _ _
  · next held =>
    split
    · exact clearBlockedOutcome _ _ _ _
    · exact (setPos (by rw [held]; rfl)).trans (clearBlockedOutcome _ _ _ _)
  · exact refl s

theorem clearAllPosition_binding (silent : Bool) (x : Position) : (clearAllPosition silent x).binding = x.binding := by
  cases x with
  | free | blocked => cases silent <;> rfl
  | loading | bound | clearing | ended => rfl

theorem offerOver (s : State) (e : Line) : CardsKept s (s.offerOver e) := withCustody _ _

theorem clearAllOutcome (s : State) (e : Line) (silent : Bool) : CardsKept s (s.clearAllOutcome e silent) := by
  suffices outcome : CardsKept s { s with positions := put s.positions e (mapTable (clearAllPosition silent) s.positions[e]) }
    from outcome.trans (offerOver _ e)
  refine of_balance (fun _ => .refl _) fun n _ _ => ?_
  have reserved : State.reserved { s with positions := put s.positions e (mapTable (clearAllPosition silent) s.positions[e]) } n =
      s.reserved n := by
    refine reserved_congr fun e' p => reservedOn_of_binding ?_
    simp only [State.pos, put_get]
    split
    · next same => rw [mapTable_get, clearAllPosition_binding, same]
    · rfl
  rw [reserved]

theorem deliverSilence (s : State) (e : Line) (f : Frame) : CardsKept s (s.deliverSilence e f) := by
  unfold State.deliverSilence
  split
  · exact refl s
  · split
    · exact loadSilent _ _ _
    · exact clearOutcome _ _ _ _
    · exact clearAllOutcome _ _ _

theorem deliverDone (s : State) (e : Line) (f : Frame) : CardsKept s (s.deliverDone e f) := by
  unfold State.deliverDone
  split
  · exact refl s
  · split
    · exact clearOutcome _ _ _ _
    · exact clearAllOutcome _ _ _
    · exact refl s

/-! ## The fall of an engine (R69, R78) -/

theorem bindLosesEngine (s : State) (e : Line) : CardsKept s (s.bindLosesEngine e) := by
  unfold State.bindLosesEngine
  split
  · split
    · exact (withControl s _).trans (finishLine _ _ _ _ _ _)
    · exact setProgress _ _ _
  · exact finishLine _ _ _ _ _ _
  · exact refl s

theorem fallAt (e : Line) (s : State) (p : Pos) : CardsKept s (State.fallAt e s p) := by
  unfold State.fallAt
  split
  · exact refl s
  · next b _ held => exact (giveBack (by rw [held]; rfl) rfl).trans (bindLosesEngine _ _)
  · next b held => exact setPos (by rw [held]; rfl)
  · next b _ held => exact endPosition (by rw [held]; rfl) _ _
  · next b reason _ held => exact setPos (by rw [held]; rfl)
  · next held => exact setPos (by rw [held]; rfl)

theorem fallClearBlocked (s : State) (e : Line) (wasBlocked : Vector Bool 4) : CardsKept s (s.fallClearBlocked e wasBlocked) := by
  unfold State.fallClearBlocked
  split
  · exact finishLine _ _ _ _ _ _
  · exact refl s

/-! ## The recall (R76) -/

theorem recallAt (n : SlotNo) (s : State) (ep : Line × Pos) : CardsKept s (State.recallAt n s ep) := by
  unfold State.recallAt
  split
  · split
    · next b held => exact queued (by rw [held]; rfl)
    · next b _ held => exact queued (by rw [held]; rfl)
    · exact refl s
  · exact refl s

theorem recallAll (s : State) (n : SlotNo) : CardsKept s (s.recall n) := foldl _ (recallAt n) _ _

end CardsKept

end Sys2Proof.Machine
end

section
/-! PROOF. Cards through the port links, the ceremonies, the administration requests and the Array Controller (R11 to R16,
R36 to R49, R100 to R130). -/

namespace Sys2Proof.Machine

namespace CardsKept

/-! ## Shared operations -/

theorem popRequest (s : State) (p : Port) : CardsKept s (s.popRequest p) := withLink _ _ _
theorem pushCompletion (s : State) (p : Port) (c : Completion) : CardsKept s (s.pushCompletion p c) := withLink _ _ _
theorem finishCust (s : State) (t c : Byte) (oc : OutcomeCode) (d : List Byte) : CardsKept s (s.finishCust t c oc d) :=
  (pushCompletion _ _ _).trans (withCustProgress _ _)
theorem latch (s : State) (a : Alarm) : CardsKept s (s.latch a) := by
  unfold State.latch
  split
  · exact withRetention _ _ rfl
  · exact refl s
theorem latchSource (s : State) (src : Source) : CardsKept s (s.latchSource src) := by
  unfold State.latchSource
  split
  · exact latch _ _
  · exact refl s
theorem recordEvent (s : State) (src : Source) (oc : EventOutcome) : CardsKept s (s.recordEvent src oc) :=
  withRetention _ _ rfl
theorem pend (s : State) (m : Byte) : CardsKept s (s.pend m) := withRetention _ _ rfl
theorem withRecord (s : State) (n : SlotNo) (f : SlotRecord → SlotRecord) : CardsKept s (s.withRecord n f) := withArray _ _
theorem execEnded (s : State) : CardsKept s s.execEnded := withControl _ _

/-! ## Ceremonies (R38 to R49) -/

theorem endCeremony (s : State) : CardsKept s s.endCeremony := by
  unfold State.endCeremony
  split
  · exact refl s
  · exact (withBank _ _ _).trans (withCeremony _ _)
theorem restartInactivity (s : State) : CardsKept s s.restartInactivity := withCeremony _ _
theorem withOpen (s : State) (f : OpenRecord → OpenRecord) : CardsKept s (s.withOpen f) := withCeremony _ _
theorem reportAbandoned (s : State) (c : Cause) (o : OpenRecord) : CardsKept s (s.reportAbandoned c o) := by
  unfold State.reportAbandoned
  split
  · exact pushCompletion _ _ _
  · exact withCeremony _ _
theorem abandonFor (s : State) (c : Cause) : CardsKept s (s.abandonFor c) := by
  unfold State.abandonFor
  split
  · exact refl s
  · split
    · exact refl s
    · exact (endCeremony s).trans (reportAbandoned _ _ _)
theorem finishCommit (s : State) (oc : OutcomeCode) (d : List Byte) : CardsKept s (s.finishCommit oc d) := by
  unfold State.finishCommit
  split
  · exact finishCust _ _ _ _ _
  · exact refl s

theorem takeOpen (t : Byte) (q : OpenRequest) (s : State) : CardsKept s (takeOpen t q s) := by
  unfold Machine.takeOpen
  split
  · exact (restartInactivity s).trans (finishCust _ _ _ _ _)
  · split
    · exact finishCust _ _ _ _ _
    · split
      · exact finishCust _ _ _ _ _
      · split
        · exact finishCust _ _ _ _ _
        · exact ((withBank s _ _).trans (withCeremony _ _)).trans (finishCust _ _ _ _ _)

theorem takeComponent (t : Byte) (q : ComponentRequest) (s : State) : CardsKept s (takeComponent t q s) := by
  unfold Machine.takeComponent
  split
  · exact finishCust _ _ _ _ _
  · next o isOpen =>
    extract_lets u
    have restarted : CardsKept s u := restartInactivity s
    split
    · exact finishCust _ _ _ _ _
    · split
      · exact restarted.trans (finishCust _ _ _ _ _)
      · split
        · exact restarted.trans (finishCust _ _ _ _ _)
        · split
          · exact ((restarted.trans (withOpen u _)).trans (withCeremony _ _)).trans (finishCust _ _ _ _ _)
          · split
            · exact (restarted.trans (withOpen u _)).trans (finishCust _ _ _ _ _)
            · exact (restarted.trans (endCeremony u)).trans (finishCust _ _ _ _ _)

theorem commitKey (s : State) (t : Byte) (o : OpenRecord) (q : CommitRequest) : CardsKept s (s.commitKey t o q) := by
  unfold State.commitKey
  extract_lets key u record
  have adjusted : CardsKept s u := withCeremony s _
  split
  · exact (adjusted.trans (restartInactivity u)).trans (finishCust _ _ _ _ _)
  · split
    · exact (adjusted.trans (endCeremony u)).trans (finishCust _ _ _ _ _)
    · exact adjusted.trans (((withOpen u _).trans (withControl _ _)).trans (withCustProgress _ _))

theorem takeCommit (t : Byte) (q : CommitRequest) (s : State) : CardsKept s (takeCommit t q s) := by
  unfold Machine.takeCommit
  split
  · exact finishCust _ _ _ _ _
  · next o _ =>
    extract_lets refuse
    have refused (oc : OutcomeCode) : CardsKept s (refuse oc) := (restartInactivity s).trans (finishCust _ _ _ _ _)
    split
    · exact finishCust _ _ _ _ _
    · split
      · exact refused _
      · split
        · exact refused _
        · split
          · exact refused _
          · exact commitKey s t o q

theorem takeAbandon (t : Byte) (q : Unit) (s : State) : CardsKept s (takeAbandon t q s) := by
  unfold Machine.takeAbandon
  split
  · exact finishCust _ _ _ _ _
  · split
    · exact finishCust _ _ _ _ _
    · exact (endCeremony s).trans (finishCust _ _ _ _ _)

/-! ## The administration client and the fault flag (R106, R113, R114) -/

/-- The end of a PROGRAM MARK leaves a counted slot counted, under its header (R12). -/
theorem markEnd (s : State) (n : SlotNo) : CardsKept s (s.markEnd n) := by
  unfold State.markEnd
  extract_lets t
  have marked : CardsKept s t := by
    refine withSlot s n _ ⟨fun counted => ?_, fun _ => rfl⟩
    dsimp only at counted
    split at counted
    · next active => exact .inl active
    · exact counted
  split
  · exact marked.trans (withSlotRet t _ _ fun _ => ⟨rfl, rfl⟩)
  · exact marked
theorem submitErase (s : State) (b : Bank) : CardsKept s (s.submitErase b) := (withControl s _).trans (withBank _ _ _)
theorem submitMark (s : State) (t : Byte) (h : Handle) (n : SlotNo) (r : Nat) : CardsKept s (s.submitMark t h n r) := by
  unfold State.submitMark
  split
  · exact (markEnd _ _).trans (finishCust _ _ _ _ _)
  · exact (withControl s _).trans (finishCust _ _ _ _ _)
theorem adminEmptied (s : State) : CardsKept s s.adminEmptied := by
  unfold State.adminEmptied
  split
  · exact submitMark _ _ _ _ _
  · split
    · exact finishCust _ _ _ _ _
    · exact (submitErase _ _).trans (finishCust _ _ _ _ _)
  · exact refl s
theorem refuseProgram (s : State) : CardsKept s s.refuseProgram := by
  unfold State.refuseProgram
  split
  · exact refl s
  · exact ((withControl s _).trans (endCeremony _)).trans (finishCommit _ _ _)
theorem refuseAdmin (s : State) : CardsKept s s.refuseAdmin := by
  unfold State.refuseAdmin
  split
  · exact refl s
  · exact ((withControl s _).trans (markEnd _ _)).trans (adminEmptied _)
  · exact ((withControl s _).trans (withBank _ _ _)).trans (adminEmptied _)
theorem setFault (s : State) : CardsKept s s.setFault :=
  (((withControl s _).trans (latch _ _)).trans (refuseProgram _)).trans (refuseAdmin _)

/-! ## The administration requests (R123 to R143, R183) -/

theorem takeRetire (t : Byte) (q : Handle × Bool) (s : State) : CardsKept s (takeRetire t q s) := by
  unfold Machine.takeRetire
  split
  split
  · exact finishCust _ _ _ _ _
  · next n _ =>
    split
    · exact finishCust _ _ _ _ _
    · extract_lets marked u recalled
      have marking : CardsKept s marked := withSlot s n _ ⟨id, fun _ => rfl⟩
      have recalled' : CardsKept s u := by
        simp only [u]
        split
        · exact marking.trans (recallAll marked n)
        · exact marking
      split
      · exact recalled'.trans (submitMark u _ _ _ _)
      · exact recalled'.trans (withCustProgress u _)

theorem takeAllocate (t : Byte) (q : Line × Byte × Byte) (s : State) : CardsKept s (takeAllocate t q s) := by
  unfold Machine.takeAllocate
  split
  split
  · exact finishCust _ _ _ _ _
  · exact (withAllocations s _).trans (finishCust _ _ _ _ _)

theorem withHold (s : State) (n : SlotNo) (on : Bool) : CardsKept s (s.withSlotRet n fun r => { r with hold := on }) :=
  withSlotRet s n _ fun _ => ⟨rfl, rfl⟩

theorem takeHold (code : Byte) (on : Bool) (t : Byte) (q : Handle) (s : State) : CardsKept s (takeHold code on t q s) := by
  unfold Machine.takeHold
  split
  · exact finishCust _ _ _ _ _
  · split
    · exact finishCust _ _ _ _ _
    · exact finishCust _ _ _ _ _
    all_goals exact (withHold s _ _).trans (finishCust _ _ _ _ _)

theorem takeReclaim (t : Byte) (b : Bank) (s : State) : CardsKept s (takeReclaim t b s) := by
  unfold Machine.takeReclaim
  split
  · exact finishCust _ _ _ _ _
  · extract_lets epoch
    split
    · exact (submitErase s b).trans (finishCust _ _ _ _ _)
    · exact withCustProgress s _

theorem takeOpenWindow (t : Byte) (q : Unit) (s : State) : CardsKept s (takeOpenWindow t q s) :=
  (withMonitor s _).trans (finishCust _ _ _ _ _)
theorem takeSetMask (t : Byte) (q : Byte) (s : State) : CardsKept s (takeSetMask t q s) :=
  (withRetention s _ rfl).trans (finishCust _ _ _ _ _)
theorem takeClearAlarms (t : Byte) (q : Byte) (s : State) : CardsKept s (takeClearAlarms t q s) :=
  (withRetention s _ rfl).trans (finishCust _ _ _ _ _)
theorem takeClearFault (t : Byte) (q : Unit) (s : State) : CardsKept s (takeClearFault t q s) :=
  (withControl s _).trans (finishCust _ _ _ _ _)
theorem takeClearReset (t : Byte) (q : Unit) (s : State) : CardsKept s (takeClearReset t q s) :=
  (withRetention s _ rfl).trans (finishCust _ _ _ _ _)
theorem takeCommission (t : Byte) (q : Vector Byte 64) (s : State) : CardsKept s (takeCommission t q s) :=
  withCustProgress s _

theorem withDirectory (s : State) (f : Directory → Directory)
    (lives : ∀ n : SlotNo, (s.directory.slots[n]).Lives (f s.directory).slots[n]) : CardsKept s (s.withDirectory f) :=
  of_same lives rfl fun _ => ⟨rfl, rfl⟩

/-- The sweep of the shown flags leaves states and headers. -/
theorem sweep (s : State) : CardsKept s s.sweep := by
  refine withDirectory s _ fun n => ?_
  rw [mapTable_get]
  split
  · exact ⟨id, fun _ => rfl⟩
  · exact .refl _

theorem takeSetTime (t : Byte) (q : Date × Time) (s : State) : CardsKept s (takeSetTime t q s) := by
  unfold Machine.takeSetTime
  split
  · extract_lets before u
    have set : CardsKept s u := withRetention s _ rfl
    exact (set.trans (sweep u)).trans (finishCust _ _ _ _ _)
  · exact finishCust _ _ _ _ _

/-! ## The takes (R36, R58) -/

theorem takeCust {α : Type} (s : State) (code : Byte) (gate : Mode → Option OutcomeCode) (need : SwitchNeed)
    (parse : Message → Option α) (act : Byte → α → State → State) (acts : ∀ t q u, CardsKept u (act t q u)) :
    CardsKept s (s.takeCust code gate need parse act) := by
  have taking (t : Byte) : CardsKept s (s.custTaking t) := (popRequest s .cust).trans (withCustProgress _ _)
  have answered (t : Byte) (oc : OutcomeCode) : CardsKept s ((s.custTaking t).finishCust t code oc []) :=
    (taking t).trans (finishCust _ _ _ _ _)
  unfold State.takeCust
  split
  · exact refl s
  · split
    · extract_lets t
      split
      · exact answered _ _
      · split
        · exact answered _ _
        · split
          · exact (taking _).trans (acts _ _ _)
          · exact answered _ _
    · exact refl s

theorem takeLine {α : Type} (s : State) (l : Line) (code : Byte) (parse : Message → Option α)
    (act : Byte → α → State → State) (acts : ∀ t q u, CardsKept u (act t q u)) : CardsKept s (s.takeLine l code parse act) := by
  have completed (t : Byte) (oc : OutcomeCode) : CardsKept s ((s.popRequest (.line l)).finishLine l t code oc []) :=
    (popRequest s _).trans (finishLine _ _ _ _ _ _)
  unfold State.takeLine
  split
  · exact refl s
  · split
    · extract_lets t
      split
      · split
        · exact completed _ _
        · exact (popRequest s (.line l)).trans (acts _ _ t)
      · exact completed _ _
    · exact refl s

/-! ## The Array Controller -/

theorem markBank (s : State) (b : Bank) (on : Bool) : CardsKept s (s.markBank b on) := withArray _ _
theorem leaveStoppedErase (s : State) (b : Bank) : CardsKept s (s.leaveStoppedErase b) := by
  unfold State.leaveStoppedErase
  extract_lets d
  split
  · exact (markBank s _ _).trans (nextDraw _)
  · exact ((markBank s _ _).trans (withArray _ _)).trans (nextDraw _)
theorem writeTest (s : State) (b : Bank) (f : TestRecord → TestRecord) : CardsKept s (s.writeTest b f) :=
  withRetention _ _ rfl
theorem endSkipped (s : State) (b : Bank) : CardsKept s (s.endSkipped b) := by
  unfold State.endSkipped State.skipTest
  exact (withControl s _).trans (writeTest _ _ _)
theorem setDegraded (s : State) (b : Bank) : CardsKept s (s.setDegraded b) := by
  unfold State.setDegraded
  extract_lets t
  split
  · exact (withBank s _ _).trans (latch t _)
  · exact withBank s _ _
theorem judgeRow (s : State) (b : Bank) (d : List Byte) : CardsKept s (s.judgeRow b d) := by
  unfold State.judgeRow
  extract_lets n before fails t
  split
  · split
    · exact (writeTest s _ _).trans (setDegraded t _)
    · exact writeTest s _ _
  · exact writeTest s _ _

theorem startErase (s : State) (b : Bank) (custody : Bool) : CardsKept s (s.startErase b custody) :=
  (withControl s _).trans (markBank _ _ _)

theorem startWrite (s : State) : CardsKept s s.startWrite := by
  unfold State.startWrite
  split
  · exact (withControl s _).trans (startErase _ _ _)
  · split
    · exact withControl s _
    · split
      · exact (withControl s _).trans (adminEmptied _)
      · exact ((withControl s _).trans (startErase _ _ _)).trans (adminEmptied _)
      · exact refl s

/-- A completed erase leaves its bank's slots EMPTY and the others as they were (R15). -/
theorem erased (s : State) (b : Bank) : CardsKept s (s.erased b) := by
  intro n kept cards initial counted
  have slot : (s.erased b).directory.slots[n] = if bankOf n = b then SlotDir.cleared else s.directory.slots[n] :=
    fillBank_get _ _ _ n
  have counts : (s.erased b).retention.slots[n] = if bankOf n = b then SlotRetention.initial else s.retention.slots[n] :=
    fillBank_get _ _ _ n
  rw [slot] at initial counted
  rw [counts]
  split
  · next inside =>
    rw [if_pos inside] at counted
    exact absurd counted (not_counted_of (.inr (.inr rfl)))
  · next outside =>
    rw [if_neg outside] at initial counted
    exact kept cards initial counted

theorem eraseEffects (s : State) (b : Bank) : CardsKept s (s.eraseEffects b) := by
  unfold State.eraseEffects
  change CardsKept s (if 20000 ≤ s.erasedCount b ∧ s.directory.banks[b].degraded = false ∧ s.lineServed = true
    then (s.erased b).latch .bankDegraded else s.erased b)
  split
  · exact (erased s b).trans (latch _ _)
  · exact erased s b

/-- The target slot of a program that succeeded starts with its whole allowance (R11), no binding being live on it. -/
theorem fillSlot {s : State} {n m : SlotNo} (h : Header) (unbound : s.reserved m = 0) (kept : s.conserves m) :
    (s.fillSlot n h).conserves m := by
  intro cards initial counted
  have reserved : (s.fillSlot n h).reserved m = 0 := unbound
  have counts : (s.fillSlot n h).retention.slots[m] =
      if n = m then { remaining := (hAllowance h).getD 0, issued := 0, hold := false, latch := false }
      else s.retention.slots[m] := put_get _ _ _ _
  have slot : (s.fillSlot n h).directory.slots[m] =
      if n = m then ({ s.directory.slots[n] with state := s.programmedState n .active, header := h } : SlotDir).evaluate
        s.retention.calendar else s.directory.slots[m] := put_get _ _ _ _
  rw [reserved, counts]
  rw [slot] at initial counted
  split
  · next same =>
    rw [if_pos same] at initial
    have filled : hAllowance h = some cards := initial
    rw [filled]
    rfl
  · next other =>
    rw [if_neg other] at initial counted
    have total := kept cards initial counted
    rwa [unbound] at total

end CardsKept

end Sys2Proof.Machine
end

section
/-! PROOF. Cards through the tamper events, the monitors, the power events and every command (R62, R140 to R183). -/

namespace Sys2Proof.Machine

namespace CardsKept

/-! ## Zeroization (R14, R164, R168) -/

/-- A zeroized directory counts no slot's cards. -/
theorem zeroizeDirectory_dead (s : State) (n : SlotNo) : ¬ (s.zeroizeDirectory.directory.slots[n]).state.counted := by
  unfold State.zeroizeDirectory
  rw [withDirectory_directory, mapTable_get]
  split
  · next empty => exact not_counted_of (.inr (.inr empty))
  · exact not_counted_of (.inr (.inl rfl))

theorem zeroizeDirectory (s : State) : CardsKept s s.zeroizeDirectory := of_dead (zeroizeDirectory_dead s)

theorem destroyCovers (s : State) (src : Source) (pl : Place) : CardsKept s (s.destroyCovers src pl) :=
  ((((withRetention s _ rfl).trans (withRetention _ _ rfl)).trans (recordEvent _ _ _)).trans (latch _ _)).trans
    (latchSource _ _)

theorem beginUnpowered (s : State) (src : Source) : CardsKept s (s.beginUnpowered src) := by
  unfold State.beginUnpowered
  extract_lets t
  split
  · exact (destroyCovers _ _ _).trans (zeroizeDirectory t)
  · exact destroyCovers _ _ _

/-- What follows the directory's part of a running zeroization counts no slot's cards again. -/
theorem beginRunning (s : State) (src : Source) : CardsKept s (s.beginRunning src) := by
  refine of_dead fun n counted => ?_
  have front : ¬ ((s.zeroizedFront src).directory.slots[n]).state.counted := zeroizeDirectory_dead _ n
  obtain same | active := (beginRunning_undisturbed s src).states n
  · exact front (same ▸ counted)
  · exact front (.inl active)

theorem raiseTamper (s : State) (src : Source) (act : Action) : CardsKept s (s.raiseTamper src act) := by
  have noted (oc : EventOutcome) : CardsKept s ((s.latchSource src).recordEvent src oc) :=
    (latchSource s src).trans (recordEvent _ _ _)
  unfold State.raiseTamper
  extract_lets recorded alarmed
  split
  · exact refl s
  · split
    · exact refl s
    · exact noted _
    · exact noted _
    · split
      · exact beginRunning s src
      · exact noted _
    all_goals
      split
      · split
        · exact beginUnpowered s src
        · exact noted _
      · exact noted _

theorem closeWindow (s : State) : CardsKept s s.closeWindow := by
  unfold State.closeWindow
  extract_lets t
  have closed : CardsKept s t := withMonitor s _
  split
  · exact closed.trans (raiseTamper t _ _)
  · exact closed

theorem takeCloseWindow (t : Byte) (q : Unit) (s : State) : CardsKept s (takeCloseWindow t q s) := by
  unfold Machine.takeCloseWindow
  extract_lets u
  have closed : CardsKept s u := by
    simp only [u]
    split
    · exact closeWindow s
    · exact refl s
  exact closed.trans (finishCust u _ _ _ _)

theorem takeZeroize (t : Byte) (q : Unit) (s : State) : CardsKept s (takeZeroize t q s) :=
  (raiseTamper s _ _).trans (finishCust _ _ _ _ _)

theorem takeRearm (t : Byte) (q : Unit) (s : State) : CardsKept s (takeRearm t q s) := by
  unfold Machine.takeRearm
  extract_lets u order
  have served : CardsKept s u :=
    (((withRetention s _ rfl).trans (withCustody _ _)).trans (withMonitor _ _)).trans (finishCust _ _ _ _ _)
  exact (served.trans (nextDraw u)).trans
    (foldl (fun v (e : Source × Action) => v.raiseTamper e.1 e.2) (fun v e => raiseTamper v e.1 e.2) order _)

theorem judgeClock (s : State) (e : List Measurement) : CardsKept s (s.judgeClock e) := by
  unfold State.judgeClock
  extract_lets t fails u
  have judged : CardsKept s t := withMonitor s _
  split
  · exact (judged.trans (withRetention t _ rfl)).trans (withMonitor _ _)
  · have failed : CardsKept s u := judged.trans (withMonitor t _)
    split
    · exact failed.trans (raiseTamper u _ _)
    · exact failed

/-! ## Owed erases (R166, R167) -/

theorem nextOwed (s : State) : CardsKept s s.nextOwed := by
  unfold State.nextOwed
  split
  · split
    · exact (withControl s _).trans (withBank _ _ _)
    · exact refl s
  · exact refl s

theorem owedEnded (s : State) (b : Bank) : CardsKept s (s.owedEnded b) := by
  unfold State.owedEnded
  extract_lets t
  have cleared : CardsKept s t := withRetention s _ rfl
  split
  · exact (cleared.trans (withRetention t _ rfl)).trans (withCustody _ _)
  · exact cleared.trans (nextOwed t)

/-! ## Start-ups and the end of the volatile state (R172 to R183) -/

theorem enter (s : State) (m : Mode) (ph : StartPhase) : CardsKept s (s.enter m ph) := withCustody s _

/-- The end of the volatile state leaves no directory. -/
theorem endVolatile (s : State) : CardsKept s s.endVolatile := by
  refine of_dead fun n => ?_
  rw [endVolatile_directory]
  have cleared : Directory.initial.slots[n] = SlotDir.cleared := Vector.getElem_replicate _
  rw [cleared]
  exact not_counted_of (.inr (.inr rfl))

theorem loadFuses (s : State) : CardsKept s s.loadFuses := by
  unfold State.loadFuses
  extract_lets t
  have judged : CardsKept s t := withCustody s _
  split
  · exact judged.trans (withRetention t _ rfl)
  · exact judged

/-- Where step 4 runs, no scan is made at once. -/
theorem fromStepThree (s : State) (drift : List (Nat × List Byte)) : CardsKept s (s.fromStepThree false drift) := by
  unfold State.fromStepThree
  extract_lets t
  have loaded : CardsKept s t := loadFuses s
  split
  · exact (loaded.trans (enter t _ _)).trans (pend _ _)
  · rw [if_neg Bool.false_ne_true]
    exact loaded.trans (enter t _ _)

theorem makeOffers (s : State) : CardsKept s s.makeOffers := by
  rw [(makeOffers_spec s).1]
  exact of_equal rfl rfl rfl

theorem enterResume (s : State) : CardsKept s s.enterResume := by
  unfold State.enterResume
  extract_lets m t
  have entered : CardsKept s t := enter s _ _
  cases m with
  | service => exact entered.trans (withMonitor t _)
  | zeroizing => exact entered.trans (nextOwed t)
  | recovery => exact entered

/-! ## Port links (R185 to R188) -/

theorem address (s : State) (p : Port) (a : Address) (x : Transfer) : CardsKept s (s.address p a x) := by
  unfold State.address
  extract_lets ack
  exact withLink _ _ _
theorem start (s : State) (p : Port) (a : Address) (x : Transfer) : CardsKept s (s.start p a x) :=
  (withLink _ _ _).trans (address _ _ _ _)
theorem stop (s : State) (p : Port) (k : Part) : CardsKept s (s.stop p k) := by
  unfold State.stop
  split
  · exact withLink _ _ _
  · exact refl s
theorem writeCode (s : State) (p : Port) (b : Byte) : CardsKept s (s.writeCode p b) := by
  unfold State.writeCode
  split
  · exact withLink _ _ _
  · split <;> exact withLink _ _ _
  · exact withLink _ _ _
  · exact withLink _ _ _
theorem writeByte (p : Port) (s : State) (b : Byte) : CardsKept s (State.writeByte p s b) := by
  unfold State.writeByte
  split
  · exact writeCode _ _ _
  · exact withLink _ _ _
  · exact withLink _ _ _
  · exact withLink _ _ _
  all_goals exact refl s
theorem writeBytes (s : State) (p : Port) (bytes : List Byte) : CardsKept s (s.writeBytes p bytes) :=
  foldl _ (writeByte p) _ _
theorem clock (s : State) (p : Port) (n : Nat) : CardsKept s (s.clock p n) := by
  unfold State.clock
  split
  · exact withLink _ _ _
  · exact withLink _ _ _
  · exact withLink _ _ _
  · unfold State.clockDirectory
    extract_lets l more first records
    split <;> exact withLink _ _ _
  all_goals exact refl s
theorem readBytes (s : State) (p : Port) (n : Nat) : CardsKept s (s.readBytes p n) := by
  unfold State.readBytes
  split
  · exact refl s
  · split
    · exact (withLink _ _ _).trans (clock _ _ _)
    · exact clock _ _ _
theorem readPart (s : State) (p : Port) (a : Address) (k : Part) (w : Window) (n : Nat) :
    CardsKept s (s.readPart p a k w n) := by
  unfold State.readPart
  split
  · split
    · exact ((start _ _ _ _).trans (readBytes _ _ _)).trans (stop _ _ _)
    · exact refl s
  · exact (readBytes _ _ _).trans (stop _ _ _)

end CardsKept

end Sys2Proof.Machine
end

section
/-! PROOF. Every command keeps a metered slot's cards together (O42). -/

namespace Sys2Proof.Machine

theorem CardsKept.setSwitch (s : State) (w : Switch) (x : Bool) : CardsKept s (s.setSwitch w x) := .withCustody s _

/-- The loss of retention leaves no slot whose cards are counted. -/
theorem CardsKept.retentionLost (s : State) : CardsKept s (s.withRetention fun r => r.fallen s.draws).zeroizeDirectory :=
  .of_dead (zeroizeDirectory_dead _)

/-- Whatever state a command's outcome goes on to keeps the cards of s. -/
def ConservesCards (s : State) (o : Host.Outcome State Fault Refusal) : Prop := ∀ t, o = .next t → CardsKept s t

namespace ConservesCards

theorem next {s t : State} (h : CardsKept s t) : ConservesCards s (.next t) := by
  rintro u e
  cases e
  exact h

theorem idle (s : State) : ConservesCards s (.next s) := next (.refl s)

/-- A command that is judged by a condition and changes nothing where it fails. -/
theorem judged {s t : State} {c : Prop} [Decidable c] (h : CardsKept s t) :
    ConservesCards s (if c then .next t else .next s) := by
  split
  · exact next h
  · exact idle s

/-! ## Port links -/

theorem requestAdmitted (p : Port) (addr : Address) (message : List Byte) (s : State) (part : Part) :
    ConservesCards s (execRequestAdmitted p addr message s part) := by
  unfold execRequestAdmitted
  extract_lets t
  have started : CardsKept s t := by
    simp only [t]
    split
    · exact (CardsKept.start _ _ _ _).trans (.writeByte _ _ _)
    · exact .refl s
  exact next ((started.trans (.writeBytes _ _ _)).trans (.stop _ _ _))

theorem windowSelect (p : Port) (addr : Address) (code : Option Byte) (reads : Nat) (s : State) (written : List Byte)
    (part : Part) : ConservesCards s (execWindowSelect p addr code reads s written part) := by
  unfold execWindowSelect
  extract_lets t u v
  have started : CardsKept s t := by
    simp only [t]
    split
    · split
      · exact (CardsKept.start _ _ _ _).trans (.writeByte _ _ _)
      · exact .start _ _ _ _
    · exact .refl s
  have addressed : CardsKept u v := by
    simp only [v]
    split
    · exact .address _ _ _ _
    · exact .refl u
  exact next ((((started.trans (.writeBytes _ _ _)).trans addressed).trans (.readBytes _ _ _)).trans (.stop _ _ _))

theorem directoryPointerWrite (p : Port) (addr : Address) (pointer : Byte) (s : State) (extra : List Byte) :
    ConservesCards s (execDirectoryPointerWrite p addr pointer s extra) :=
  next ((((CardsKept.start _ _ _ _).trans (.writeByte _ _ _)).trans (.writeBytes _ _ _)).trans (.stop _ _ _))

theorem unknownRequestCode (p : Port) (s : State) : ConservesCards s (execUnknownRequestCode p s) := by
  unfold execUnknownRequestCode
  split
  · exact idle s
  · split
    · exact idle s
    · exact next ((CardsKept.popRequest _ _).trans (.pushCompletion _ _ _))

/-! ## The Array Controller -/

theorem readSlotComplete (drift : List Byte) (s : State) : ConservesCards s (execReadSlotComplete drift s) := by
  unfold execReadSlotComplete
  split
  · next l n _ =>
    extract_lets t u
    have read : CardsKept t u := by
      simp only [u]
      split
      · exact .bindRead _ _ _ _ _ _ _
      · exact .finishLine _ _ _ _ _ _
      · exact .refl t
    exact next (((CardsKept.withControl s _).trans read).trans (.withControl _ _))
  · exact idle s

theorem arrayOperationStart (s : State) : ConservesCards s (execArrayOperationStart s) := by
  unfold execArrayOperationStart
  split
  · exact idle s
  · split
    · split
      · exact next (.withControl _ _)
      · exact next (.withControl _ _)
    · split
      · exact next (.endSkipped _ _)
      · split
        · exact next (.withControl _ _)
        · exact next (.startWrite _)

/-- A program that succeeds keeps the cards of a slot no binding is live on (R11). -/
theorem programRecordDone {s t : State} {n : SlotNo} (unbound : s.reserved n = 0) (kept : s.conserves n)
    (done : execProgramRecordDone s = .next t) : t.conserves n := by
  unfold execProgramRecordDone at done
  split at done
  · next r _ =>
    cases done
    have written : CardsKept s (s.execEnded.withRecord r.slot fun _ => r.record) :=
      (CardsKept.execEnded s).trans (.withRecord _ _ _)
    exact (CardsKept.endCeremony _).trans (.finishCommit _ _ _) n
      (CardsKept.fillSlot r.record.header (m := n) (by exact unbound) (written n kept))
  · cases done
    exact kept

theorem programFailed (s : State) : ConservesCards s (execProgramFailed s) := by
  unfold execProgramFailed
  split
  · next r _ =>
    extract_lets t
    have left : CardsKept s (s.execEnded.leaveFailedProgram r) :=
      ((CardsKept.execEnded s).trans (.withRecord _ _ _)).trans (.nextDraw _)
    have spoilt : ¬ (s.programmedState r.slot .damaged).counted := by
      unfold State.programmedState
      split
      · exact not_counted_of (.inl rfl)
      · exact not_counted_of (.inr (.inl rfl))
    have judged : CardsKept (s.execEnded.leaveFailedProgram r) t := .withSlot _ _ _ (.of_dead spoilt)
    exact next ((((left.trans judged).trans (.endCeremony t)).trans (.finishCommit _ _ _)).trans (.setFault _))
  · exact idle s

theorem programMarkEnd (ok : Bool) (s : State) : ConservesCards s (execProgramMarkEnd ok s) := by
  unfold execProgramMarkEnd
  split
  · split
    · exact next (((CardsKept.execEnded s).trans (.withRecord _ _ _)).trans (.markEnd _ _))
    · exact next (((((CardsKept.execEnded s).trans (.withRecord _ _ _)).trans (.nextDraw _)).trans (.markEnd _ _)).trans
        (.setFault _))
  · exact idle s

theorem eraseComplete (s : State) : ConservesCards s (execEraseComplete s) := by
  unfold execEraseComplete
  split
  · next b custody _ =>
    split
    · exact idle s
    · have erased : CardsKept s (s.execEnded.eraseEffects b) := (CardsKept.execEnded s).trans (.eraseEffects _ _)
      cases custody with
      | true => exact next (erased.trans (.owedEnded _ _))
      | false => exact next erased
  · exact idle s

theorem eraseFailed (s : State) : ConservesCards s (execEraseFailed s) := by
  unfold execEraseFailed
  split
  · next b custody _ =>
    split
    · exact idle s
    · extract_lets t
      have failed : CardsKept s t.setFault :=
        (((CardsKept.withControl s _).trans (.leaveStoppedErase _ _)).trans (.withBank _ _ _)).trans (.setFault t)
      cases custody with
      | true => exact next (failed.trans (.owedEnded _ _))
      | false => exact next failed
  · exact idle s

theorem eraseSuspend (ran : Nat) (s : State) : ConservesCards s (execEraseSuspend ran s) := by
  unfold execEraseSuspend
  split
  · exact judged (.withControl _ _)
  · exact idle s

theorem eraseSuspended (s : State) : ConservesCards s (execEraseSuspended s) := by
  unfold execEraseSuspended
  split
  · exact judged (.withControl _ _)
  · exact idle s

/-! ## Key buses -/

theorem accept (e : Line) (reply : List Byte) (s : State) : ConservesCards s (execAccept e reply s) := by
  unfold execAccept
  split
  · split
    · split
      · exact next (.popFrame _ _)
      · exact next ((CardsKept.popFrame _ _).trans (.loadAccepted _ _ _))
    · exact idle s
  · exact idle s

theorem refuse (e : Line) (reply : List Byte) (s : State) : ConservesCards s (execRefuse e reply s) := by
  unfold execRefuse
  split
  · split
    · split
      · exact next (.popFrame _ _)
      · exact next ((CardsKept.popFrame _ _).trans (.loadRefused _ _ _ _))
    · exact idle s
  · exact idle s

theorem done (e : Line) (reply : List Byte) (s : State) : ConservesCards s (execDone e reply s) := by
  unfold execDone
  split
  · exact next ((CardsKept.popFrame _ _).trans (.deliverDone _ _ _))
  · exact idle s

theorem replyTimeout (e : Line) (s : State) : ConservesCards s (execReplyTimeout e s) := by
  unfold execReplyTimeout
  split
  · exact next ((CardsKept.popFrame _ _).trans (.deliverSilence _ _ _))
  · exact idle s

theorem engineReadyFall (e : Line) (s : State) (samples : Samples) :
    ConservesCards s (execEngineReadyFall e s samples) := by
  unfold execEngineReadyFall
  split
  · extract_lets wasBlocked t
    have fallen : CardsKept s t := (CardsKept.withBus s e _).trans (.foldl _ (.fallAt e) _ _)
    exact next (((fallen.trans (.fallClearBlocked _ _ _)).trans (.offerOver _ _)).trans (.withControl _ _))
  · exact idle s

/-! ## The Tamper Monitor and the calendar -/

theorem clockMeasurement (cycles : Nat) (s : State) (ends : Bool) :
    ConservesCards s (execClockMeasurement cycles s ends) := by
  unfold execClockMeasurement
  split
  · extract_lets x t e
    split
    · have ended : CardsKept s t := (CardsKept.withCustody s _).trans (.withMonitor _ _)
      split
      · exact next (ended.trans (.withMonitor t _))
      · exact next (ended.trans (.judgeClock t _))
    · exact next (.withMonitor _ _)
  · exact idle s

theorem patternTestInterval (s : State) : ConservesCards s (execPatternTestInterval s) := by
  unfold execPatternTestInterval
  split
  · extract_lets t
    split
    · exact next (.withMonitor _ _)
    · exact next ((CardsKept.withMonitor s _).trans (.withControl t _))
  · exact idle s

theorem patternTestResult (drift : List Byte) (s : State) : ConservesCards s (execPatternTestResult drift s) := by
  unfold execPatternTestResult
  split
  · exact next ((CardsKept.execEnded s).trans (.judgeRow _ _ _))
  · split
    · exact next (.endSkipped _ _)
    · exact idle s

theorem calendarSecond (s : State) : ConservesCards s (execCalendarSecond s) := by
  unfold execCalendarSecond
  split
  · split
    extract_lets t
    have counted : CardsKept s t := .withRetention s _ rfl
    split
    · exact next (counted.trans (.sweep t))
    · exact next counted
  · exact idle s

theorem enclosureNormal (input : Enclosure) (s : State) (samples : Samples) :
    ConservesCards s (execEnclosureNormal input s samples) := by
  unfold execEnclosureNormal
  split
  · cases input with
    | door => exact next (.withRetention s _ rfl)
    | mesh => exact next (.withRetention s _ rfl)
  · exact idle s

theorem batteryNotLow (s : State) (samples : Samples) : ConservesCards s (execBatteryNotLow s samples) := by
  unfold execBatteryNotLow
  split
  · exact next (.withRetention s _ rfl)
  · exact idle s

/-! ## Power and start-up -/

theorem warmResetOnset (s : State) (samples : Samples) : ConservesCards s (execWarmResetOnset s samples) := by
  unfold execWarmResetOnset
  split
  · exact idle s
  · exact next (((CardsKept.endVolatile s).trans (.enter _ _ _)).trans (.pend _ _))

theorem startUpComplete (s : State) : ConservesCards s (execStartUpComplete s) := by
  unfold execStartUpComplete
  split
  · split
    · extract_lets t
      have offered : CardsKept s t := .makeOffers s
      split
      · exact next (offered.trans (.enterResume t))
      · exact next offered
    · exact next (.enter s _ _)
  · exact idle s

theorem commissionProgrammingEnd (ok : Bool) (s : State) : ConservesCards s (execCommissionProgrammingEnd ok s) := by
  unfold execCommissionProgrammingEnd
  split
  · extract_lets stop failing
    split
    · exact next (((CardsKept.withFuses s _).trans (.withCustody _ _)).trans (.finishCust _ _ _ _ _))
    · exact next (((CardsKept.withFuses s _).trans (.nextDraw _)).trans (.finishCust _ _ _ _ _))
  · exact idle s

end ConservesCards

open ConservesCards in
/-- Every command keeps the cards together, but for the end of a program and those that may judge the array anew. -/
theorem exec_conservesCards (c : Instr) (s : State) (noCrystal : ∀ drift, c ≠ .crystalStarted drift)
    (noRelease : ∀ ran drift samples, c ≠ .resetRelease ran drift samples)
    (noRestart : ∀ ran drift, c ≠ .commissionRestart ran drift) (noProgram : c ≠ .programRecordDone) :
    ConservesCards s (exec c s) := by
  cases c with
  | requestAdmitted p addr message part => exact requestAdmitted p addr message s part
  | windowSelect p addr code reads written part => exact windowSelect p addr code reads s written part
  | directoryPointerWrite p addr pointer extra => exact directoryPointerWrite p addr pointer s extra
  | completionRead p addr reads part => exact next (.readPart _ _ _ _ _ _)
  | directoryRead p addr reads part => exact next (.readPart _ _ _ _ _ _)
  | unknownRequestCode p => exact unknownRequestCode p s
  | openCeremony => exact next (.takeCust _ _ _ _ _ _ .takeOpen)
  | component => exact next (.takeCust _ _ _ _ _ _ .takeComponent)
  | commit => exact next (.takeCust _ _ _ _ _ _ .takeCommit)
  | abandon => exact next (.takeCust _ _ _ _ _ _ .takeAbandon)
  | switchDrop w samples => exact judged ((CardsKept.setSwitch s _ _).trans (.abandonFor _ _))
  | switchPresent w samples => exact judged (.setSwitch s _ _)
  | ceremonyTimeout => exact judged (.abandonFor _ _)
  | allocate => exact next (.takeCust _ _ _ _ _ _ .takeAllocate)
  | hold => exact next (.takeCust _ _ _ _ _ _ (.takeHold codeHold true))
  | unhold => exact next (.takeCust _ _ _ _ _ _ (.takeHold codeUnhold false))
  | retire => exact next (.takeCust _ _ _ _ _ _ .takeRetire)
  | reclaim => exact next (.takeCust _ _ _ _ _ _ .takeReclaim)
  | openServiceWindow => exact next (.takeCust _ _ _ _ _ _ .takeOpenWindow)
  | closeServiceWindow => exact next (.takeCust _ _ _ _ _ _ .takeCloseWindow)
  | serviceWindowExpiry => exact judged (.closeWindow s)
  | setAlarmMask => exact next (.takeCust _ _ _ _ _ _ .takeSetMask)
  | clearAlarms => exact next (.takeCust _ _ _ _ _ _ .takeClearAlarms)
  | clearNvFault => exact next (.takeCust _ _ _ _ _ _ .takeClearFault)
  | clearResetFlags => exact next (.takeCust _ _ _ _ _ _ .takeClearReset)
  | zeroize => exact next (.takeCust _ _ _ _ _ _ .takeZeroize)
  | rearm => exact next (.takeCust _ _ _ _ _ _ .takeRearm)
  | setTime => exact next (.takeCust _ _ _ _ _ _ .takeSetTime)
  | commission => exact next (.takeCust _ _ _ _ _ _ .takeCommission)
  | commissionRestart ran drift => exact absurd rfl (noRestart ran drift)
  | bind l => exact next (.takeLine _ _ _ _ _ (.takeBind l))
  | extend l => exact next (.takeLine _ _ _ _ _ (.takeExtend l))
  | release l => exact next (.takeLine _ _ _ _ _ (.takeRelease l))
  | releaseAll l => exact next (.takeLine _ _ _ _ _ (.takeReleaseAll l))
  | clearBlocked l => exact next (.takeLine _ _ _ _ _ (.takeClearBlocked l))
  | readSlotComplete drift => exact readSlotComplete drift s
  | frameSendStart e => exact judged (.withBus _ _ _)
  | frameSent e => exact judged (.withBus _ _ _)
  | accept e reply => exact accept e reply s
  | refuse e reply => exact refuse e reply s
  | done e reply => exact done e reply s
  | replyTimeout e => exact replyTimeout e s
  | engineReadyFall e samples => exact engineReadyFall e s samples
  | engineReadyRise e samples => exact judged (.withBus _ _ _)
  | arrayOperationStart => exact arrayOperationStart s
  | programRecordDone => exact absurd rfl noProgram
  | programFailed => exact programFailed s
  | programMarkEnd ok => exact programMarkEnd ok s
  | eraseComplete => exact eraseComplete s
  | eraseFailed => exact eraseFailed s
  | eraseSuspend ran => exact eraseSuspend ran s
  | eraseSuspended => exact eraseSuspended s
  | suspensionCap => exact judged (.withControl _ _)
  | doorEvent samples => exact judged ((CardsKept.withRetention s _ rfl).trans (.raiseTamper _ _ _))
  | meshEvent samples => exact judged ((CardsKept.withRetention s _ rfl).trans (.raiseTamper _ _ _))
  | enclosureNormal input samples => exact enclosureNormal input s samples
  | supplyHighEvent samples => exact judged ((CardsKept.withMonitor s _).trans (.raiseTamper _ _ _))
  | supplyNotHigh samples => exact judged (.withMonitor _ _)
  | batteryLow samples => exact judged ((CardsKept.withRetention s _ rfl).trans (.latch _ _))
  | batteryNotLow samples => exact batteryNotLow s samples
  | clockMeasurement cycles ends => exact clockMeasurement cycles s ends
  | patternTestInterval => exact patternTestInterval s
  | patternTestResult drift => exact patternTestResult drift s
  | calendarSecond => exact calendarSecond s
  | brownout samples => exact judged (((CardsKept.endVolatile s).trans (.enter _ _ _)).trans (.withCustody _ _))
  | mainPowerValid samples => exact judged (((CardsKept.enter s _ _).trans (.pend _ _)).trans (.fromStepThree _ _))
  | warmResetOnset samples => exact warmResetOnset s samples
  | resetRelease ran drift samples => exact absurd rfl (noRelease ran drift samples)
  | crystalStarted drift => exact absurd rfl (noCrystal drift)
  | crystalStartTimeout => exact judged (((CardsKept.withCustody s _).trans (.enter _ _ _)).trans (.pend _ _))
  | startUpComplete => exact startUpComplete s
  | retentionMarkerLost => exact judged ((CardsKept.retentionLost s).trans (.nextDraw _))
  | commissionProgrammingEnd ok => exact commissionProgrammingEnd ok s
  | disregardedReply e reply => exact idle s

/-- Settles O42: a settlement is written out, and every command keeps the cards together. -/
theorem settlementConservesCards : Obligations.SettlementConservesCards := by
  refine ⟨settle_exact, fun s b used metered few => ?_, fun c s t n noCrystal noRelease noRestart unbound kept out => ?_⟩
  · have slots : (s.settle b used).retention.slots = put s.retention.slots b.slot { s.retention.slots[b.slot] with
        issued := min 16777215 (s.retention.slots[b.slot].issued + min used b.reservation)
        remaining := if (hAllowance s.directory.slots[b.slot].header).isSome
          then s.retention.slots[b.slot].remaining + (b.reservation - min used b.reservation)
          else s.retention.slots[b.slot].remaining } := by rw [settle_exact]
    rw [slots]
    refine ⟨?_, ?_, fun n other => put_get_other _ _ _ _ (Ne.symm other)⟩
    · rw [put_get_same]
      dsimp only
      omega
    · rw [put_get_same]
      dsimp only
      rw [if_pos ((metered_iff _ _).mp metered)]
      omega
  · by_cases program : c = .programRecordDone
    · subst program
      exact ConservesCards.programRecordDone (unbound rfl) kept out
    · exact exec_conservesCards c s noCrystal noRelease noRestart program t out n kept

end Sys2Proof.Machine
end
